-- ==== Sys2Proof/Word.lean ====
section
/-! DEFINITION. The words of the CF7100 model: bytes, 32-bit and 64-bit words, and the index types of the
device's numbered parts (01 R9, R25). -/
namespace Sys2Proof

/-- A byte of memory. -/
abbrev Byte := BitVec 8
/-- A 64-bit word: a scalar register, an instruction word, a register of the register maps. -/
abbrev W64 := BitVec 64
/-- A 32-bit word. -/
abbrev W32 := BitVec 32

/-- Physical tile 0-151 (01 R27). -/
abbrev TileNo := Fin 152
/-- Virtual instance 0-15 (01 R16). -/
abbrev ViNo := Fin 16
/-- Physical signal counter (06 R195). -/
abbrev CtrNo := Fin 32768
/-- Physical group context (07 R236). -/
abbrev GrpNo := Fin 1024
/-- Physical descriptor queue (06 R169). -/
abbrev QNo := Fin 1024
/-- Host queue (12 R356). -/
abbrev HqNo := Fin 512
/-- Tarn unit (08 R237). -/
abbrev UnitNo := Fin 96
/-- Hyora port (10 R292). -/
abbrev PortNo := Fin 64
/-- Edge port (10 R314). -/
abbrev EdgeNo := Fin 8
/-- Logical lane of a port (10 R292). -/
abbrev LaneNo := Fin 4
/-- Host link (12 R350). -/
abbrev LinkNo := Fin 2

end Sys2Proof
end

