-- ==== Sys2Proof/Syntax.lean ====
section
/-! DEFINITION. The syntax of the block: the commands, one constructor per row of spec/opcode_table.json, and the
types of their operands. -/
namespace Sys2Proof

/-- How a register access reaches the device (00 R7, 12 R354, 15 R447). -/
inductive Via where
  /-- BAR0 on a host link. -/
  | bar0 (d : LinkNo)
  /-- The doorbell page of a VI in BAR4, on a host link (12 R351, R354). -/
  | page (d : LinkNo) (v : ViNo)
  /-- The SPI slave (15 R444). -/
  | spi
  /-- The management path (15 R446). -/
  | mgmt
  deriving DecidableEq, Repr

/-- A descriptor queue of 06 R169 or a host queue of 12 R356. -/
inductive QRef where
  | dma (q : QNo)
  | host (q : HqNo)
  deriving DecidableEq, Repr

/-- A port that takes the commands of 10 R302. -/
inductive PhyPort where
  | hyora (p : PortNo)
  | edge (e : EdgeNo)
  deriving DecidableEq, Repr

/-- A PLL of 10 R303: one per optical engine, one per edge port. -/
inductive Pll where
  | engine (e : Fin 8)
  | edge (e : EdgeNo)
  deriving DecidableEq, Repr

/-- The addressing part of a transport header (11 R321) with the class its frame came in. -/
structure Addr where
  ddev : Nat
  dvi : Nat
  dinc : Nat
  sdev : Nat
  svi : Nat
  sinc : Nat
  stamp : W32
  epoch : BitVec 16
  tc : Fin 8
  deriving DecidableEq, Repr

/-- What the host answers to a read of its memory (12 R359, R360). -/
inductive HostRead where
  | none
  | bytes (l : List Byte)
  | failed
  deriving DecidableEq, Repr

/-- An access through CXL.mem (12 R370). -/
inductive MemAccess where
  | read (len : Nat)
  | write (bytes : List Byte)
  deriving DecidableEq, Repr

/-- A DMA_DATA frame (11 R321): its KWORDS, the 8 words of its transfer header and its data.
`dst` is the descriptor's DST, which the header of R321 does not show (DEDUCED, log entry 11). -/
structure DmaFrame where
  queue : Nat
  seq : Nat
  offset : Nat
  dst : W64
  thdr : List W64
  data : List Byte
  deriving DecidableEq, Repr

/-- The transfer an inbound DMA_DATA frame belongs to. -/
structure XferKey where
  sdev : Nat
  svi : Nat
  sinc : Nat
  queue : Nat
  seq : Nat
  deriving DecidableEq, Repr

/-- A rank and its member-table word (07 R201). -/
structure MemberEntry where
  rank : Nat
  word : W64
  deriving DecidableEq, Repr

/-- Which token contribution a DISPATCH or COMBINE payload carries (07 R230-R232, DESIGN CHOICE, log entry 12). -/
structure TokenRef where
  rank : Nat
  token : Nat
  k : Nat
  expert : Nat
  deriving DecidableEq, Repr

/-- A COL_DATA frame that lands (11 R321): `first` is the block within the chunk its payload begins at. -/
structure ColFrame where
  gid : W32
  gen : W32
  attempt : Byte
  contributor : Nat
  chunk : Nat
  first : Nat
  digest : W32
  payload : List Byte
  tok : Option TokenRef
  deriving DecidableEq, Repr

/-- An input cell of a Tarn unit, reassembled to its block (08 R241, R244); `count` is the node's contributor count. -/
structure TarnCell where
  vi : Nat
  inc : Nat
  ctx : Nat
  gen : W32
  attempt : Byte
  chunk : Nat
  block : Nat
  contributor : Nat
  count : Nat
  payload : List Byte
  deriving DecidableEq, Repr

/-- A flow of a Divide class queue (09 R267). -/
inductive Flow where
  | group (gid : W32)
  | queue (q : Nat)
  | transit (input : Nat)
  deriving DecidableEq, Repr

/-- A transport header (11 R321). -/
structure Hdr where
  ddev : BitVec 15
  dvi : BitVec 4
  kind : BitVec 4
  dinc : Byte
  sdev : BitVec 15
  svi : BitVec 4
  sinc : Byte
  stamp : W32
  epoch : BitVec 16
  last : Byte
  k0 : W64
  k1 : W64
  deriving DecidableEq, Repr

/-- A frame offered to Divide (09 R264, R269): `cells` of 256 bytes, one input, class, owner and destination set. -/
structure DivFrame where
  id : Nat
  input : Nat
  tc : Fin 8
  owner : Nat
  inc : Byte
  dests : List Nat
  cells : Nat
  flow : Flow
  hdr : Hdr
  payload : List Byte
  deriving DecidableEq, Repr

/-- An arbiter, by the class and instance of 09 R274. -/
structure ArbRef where
  cls : Fin 5
  inst : Nat
  deriving DecidableEq, Repr

/-- The emergency requesters of 09 R274. -/
inductive Emergency where
  | debugPort
  | hbmRefresh
  deriving DecidableEq, Repr

/-- A codeword as a receiver finds it (10 R295, R296): its symbol errors, header fields and blocks (2-bit header, payload). -/
structure Codeword where
  symErrors : Nat
  mark : BitVec 16
  llane : BitVec 2
  seq : Byte
  lmc : BitVec 16
  blocks : List (BitVec 2 × W64)
  deriving DecidableEq, Repr

/-- A lane message of 64 bits with its CRC-8 (10 R298). -/
abbrev LaneMsg := W64

/-- An Ethernet frame at an edge port (10 R315, 11 R341). -/
structure EthFrame where
  fcsOk : Bool
  etherType : BitVec 16
  pause : Bool
  pfc : Option (BitVec 8)
  len : Nat
  deriving DecidableEq, Repr

/-- A link frame as received (11 R319, R320): SOF fields, count of data blocks, header, payload and CRC. -/
structure LinkFrame where
  seq : BitVec 16
  tc : Fin 8
  cells : Nat
  dataBlocks : Nat
  errored : Bool
  sofInside : Bool
  crc : W32
  hdr : Hdr
  payload : List Byte
  deriving DecidableEq, Repr

/-- A link message of 64 bytes as received (11 R322). -/
structure LinkMsg where
  bytes : List Byte
  crc : W32
  errored : Bool
  deriving DecidableEq, Repr

/-- A sweep report that reaches the pod leader (11 R337, R338): a result per port, or STALE. -/
inductive SweepReport where
  | stale
  | results (l : List Byte)
  deriving DecidableEq, Repr

/-- The metro header and addresses of an edge frame (11 R341). -/
structure MetroHdr where
  srcMac : BitVec 48
  version : BitVec 4
  path : BitVec 16
  psn : W32
  deriving DecidableEq, Repr

/-- An entry of the device error queue (13 R375). -/
structure ErrEntry where
  cls : Nat
  unit : Nat
  index : Nat
  code : Nat
  vi : Option Nat
  inc : Nat
  overlap : Bool
  info : W64
  deriving DecidableEq, Repr

/-- What the SPI slave has seen while select was low (15 R444, R445): the whole words, and the clock edges. -/
structure SpiFrame where
  words : List W32
  edges : Nat
  deriving DecidableEq, Repr

/-- A PCIe configuration request (15 R431, 12 R350, R366). -/
inductive CfgReq where
  | other
  | maskVector (vec : Nat) (masked : Bool)
  | sizeBar2 (gib : Nat)
  | enableCache (on : Bool)
  | enableMem (on : Bool)
  deriving DecidableEq, Repr

/-- The commands of the block: one constructor per row of spec/opcode_table.json (DESIGN CHOICE, log entry 1). -/
inductive Instr where
  /-- REG_WRITE (R4): A naturally aligned write to a register field that has no row of its own sets it according to its access type (RW, RW1C, RWP, RWX, WO), or has no effect. -/
  | regWrite (via : Via) (off : Nat) (width : Nat) (val : W64)
  /-- REG_WRITE_LOWER_HALF (R7): A 32-bit write to the lower half of a 64-bit register places the value in the access path's write latch and leaves the register unchanged. -/
  | regWriteLowerHalf (via : Via) (off : Nat) (val : W32)
  /-- REG_WRITE_UPPER_HALF (R7): A 32-bit write to the upper half of a 64-bit register sets the register from the latched lower half, or from the current lower half. -/
  | regWriteUpperHalf (via : Via) (off : Nat) (val : W32)
  /-- REG_READ_LOWER_HALF (R7): A 32-bit read of the lower half of a 64-bit register returns it and places the current upper half in the path's read latch. -/
  | regReadLowerHalf (via : Via) (off : Nat)
  /-- REG_READ_UPPER_HALF (R7): A 32-bit read of the upper half returns the latched value when the read latch holds that register, otherwise the current upper half. -/
  | regReadUpperHalf (via : Via) (off : Nat)
  /-- REG_ACCESS_BAD_WIDTH (R7): An access of another width or alignment is discarded if a write, or completes with all bits set if a read. -/
  | regAccessBadWidth (via : Via) (off : Nat) (width : Nat) (write : Bool)
  /-- RESERVED_OPCODE (R74): An instruction word with an unassigned opcode, a reserved class, a reserved field or a reserved code is executed as nothing and raises ILLEGAL. -/
  | reservedOpcode (t : TileNo) (w : W64)
  /-- ADD (R80): Scalar addition modulo 2^64. -/
  | add (t : TileNo) (w : W64)
  /-- SUB (R80): Scalar subtraction modulo 2^64. -/
  | sub (t : TileNo) (w : W64)
  /-- MUL (R80): Scalar multiplication, low 64 bits. -/
  | mul (t : TileNo) (w : W64)
  /-- MULH (R80): High 64 bits of the signed 128-bit product. -/
  | mulh (t : TileNo) (w : W64)
  /-- MULHU (R80): High 64 bits of the unsigned 128-bit product. -/
  | mulhu (t : TileNo) (w : W64)
  /-- DIV (R81): Signed division truncated toward zero, with defined results for division by zero and for overflow. -/
  | div (t : TileNo) (w : W64)
  /-- DIVU (R81): Unsigned division, giving all ones on division by zero. -/
  | divu (t : TileNo) (w : W64)
  /-- REM (R81): Signed remainder; the dividend is returned on division by zero. -/
  | rem (t : TileNo) (w : W64)
  /-- REMU (R81): Unsigned remainder; the dividend is returned on division by zero. -/
  | remu (t : TileNo) (w : W64)
  /-- AND (R80): Bitwise AND of two scalar registers. -/
  | and (t : TileNo) (w : W64)
  /-- OR (R80): Bitwise OR of two scalar registers. -/
  | or (t : TileNo) (w : W64)
  /-- XOR (R80): Bitwise XOR of two scalar registers. -/
  | xor (t : TileNo) (w : W64)
  /-- SHL (R80): Shift left by SB bits 5:0. -/
  | shl (t : TileNo) (w : W64)
  /-- SHR (R80): Logical shift right by SB bits 5:0. -/
  | shr (t : TileNo) (w : W64)
  /-- SAR (R80): Arithmetic shift right by SB bits 5:0. -/
  | sar (t : TileNo) (w : W64)
  /-- SLT (R80): Signed set-less-than. -/
  | slt (t : TileNo) (w : W64)
  /-- SLTU (R80): Unsigned set-less-than. -/
  | sltu (t : TileNo) (w : W64)
  /-- FADD_F64 (R80): F64 addition narrowed by RND and OVF. -/
  | faddF64 (t : TileNo) (w : W64)
  /-- FSUB_F64 (R80): F64 subtraction narrowed by RND and OVF. -/
  | fsubF64 (t : TileNo) (w : W64)
  /-- FMUL_F64 (R80): F64 multiplication narrowed by RND and OVF. -/
  | fmulF64 (t : TileNo) (w : W64)
  /-- FDIV_F64 (R80): F64 division narrowed by RND and OVF. -/
  | fdivF64 (t : TileNo) (w : W64)
  /-- FSQRT_F64 (R80): F64 square root narrowed by RND and OVF. -/
  | fsqrtF64 (t : TileNo) (w : W64)
  /-- FMIN_F64 (R81): F64 minimum giving the canonical NaN for a NaN operand and treating -0 as less than +0. -/
  | fminF64 (t : TileNo) (w : W64)
  /-- FMAX_F64 (R81): F64 maximum with the NaN and signed-zero rules. -/
  | fmaxF64 (t : TileNo) (w : W64)
  /-- FFMA_F64 (R80): F64 fused multiply-add SD := SA*SB+SD with one rounding. -/
  | ffmaF64 (t : TileNo) (w : W64)
  /-- FCMP_EQ_F64 (R80): F64 equality compare giving 1 or 0, and 0 for any NaN. -/
  | fcmpEqF64 (t : TileNo) (w : W64)
  /-- FCMP_LT_F64 (R80): F64 less-than compare giving 1 or 0. -/
  | fcmpLtF64 (t : TileNo) (w : W64)
  /-- FCMP_LE_F64 (R80): F64 less-or-equal compare giving 1 or 0. -/
  | fcmpLeF64 (t : TileNo) (w : W64)
  /-- FADD_F32 (R80): F32 addition with the upper 32 bits written zero. -/
  | faddF32 (t : TileNo) (w : W64)
  /-- FSUB_F32 (R80): F32 subtraction. -/
  | fsubF32 (t : TileNo) (w : W64)
  /-- FMUL_F32 (R80): F32 multiplication. -/
  | fmulF32 (t : TileNo) (w : W64)
  /-- FDIV_F32 (R80): F32 division. -/
  | fdivF32 (t : TileNo) (w : W64)
  /-- FSQRT_F32 (R80): F32 square root. -/
  | fsqrtF32 (t : TileNo) (w : W64)
  /-- FMIN_F32 (R81): F32 minimum. -/
  | fminF32 (t : TileNo) (w : W64)
  /-- FMAX_F32 (R81): F32 maximum. -/
  | fmaxF32 (t : TileNo) (w : W64)
  /-- FFMA_F32 (R80): F32 fused multiply-add. -/
  | ffmaF32 (t : TileNo) (w : W64)
  /-- FCMP_EQ_F32 (R80): F32 equality compare. -/
  | fcmpEqF32 (t : TileNo) (w : W64)
  /-- FCMP_LT_F32 (R80): F32 less-than compare. -/
  | fcmpLtF32 (t : TileNo) (w : W64)
  /-- FCMP_LE_F32 (R80): F32 less-or-equal compare. -/
  | fcmpLeF32 (t : TileNo) (w : W64)
  /-- FCVT_F64_F32 (R80): Converts F32 to F64. -/
  | fcvtF64F32 (t : TileNo) (w : W64)
  /-- FCVT_F32_F64 (R80): Converts F64 to F32 under RND and OVF. -/
  | fcvtF32F64 (t : TileNo) (w : W64)
  /-- FCVT_F64_I64 (R80): Converts I64 to F64. -/
  | fcvtF64I64 (t : TileNo) (w : W64)
  /-- FCVT_F32_I64 (R80): Converts I64 to F32. -/
  | fcvtF32I64 (t : TileNo) (w : W64)
  /-- FCVT_I64_F64 (R80): Converts F64 to I64. -/
  | fcvtI64F64 (t : TileNo) (w : W64)
  /-- FCVT_I64_F32 (R80): Converts F32 to I64. -/
  | fcvtI64F32 (t : TileNo) (w : W64)
  /-- ADDI (R80): Adds a sign-extended immediate. -/
  | addi (t : TileNo) (w : W64)
  /-- ANDI (R80): Bitwise AND with an immediate. -/
  | andi (t : TileNo) (w : W64)
  /-- ORI (R80): Bitwise OR with an immediate. -/
  | ori (t : TileNo) (w : W64)
  /-- XORI (R80): Bitwise XOR with an immediate. -/
  | xori (t : TileNo) (w : W64)
  /-- SHLI (R80): Shift left by an immediate. -/
  | shli (t : TileNo) (w : W64)
  /-- SHRI (R80): Logical shift right by an immediate. -/
  | shri (t : TileNo) (w : W64)
  /-- SARI (R80): Arithmetic shift right by an immediate. -/
  | sari (t : TileNo) (w : W64)
  /-- SLTI (R80): Set-less-than against an immediate. -/
  | slti (t : TileNo) (w : W64)
  /-- MOVI (R80): Loads a sign-extended immediate. -/
  | movi (t : TileNo) (w : W64)
  /-- MOVHI (R80): Sets bits 63:32 from the immediate and keeps bits 31:0. -/
  | movhi (t : TileNo) (w : W64)
  /-- BEQ (R80): Branches when the operands are equal. -/
  | beq (t : TileNo) (w : W64)
  /-- BNE (R80): Branches when the operands differ. -/
  | bne (t : TileNo) (w : W64)
  /-- BLT (R80): Branches on signed less-than. -/
  | blt (t : TileNo) (w : W64)
  /-- BGE (R80): Branches on signed greater-or-equal. -/
  | bge (t : TileNo) (w : W64)
  /-- BLTU (R80): Branches on unsigned less-than. -/
  | bltu (t : TileNo) (w : W64)
  /-- BGEU (R80): Branches on unsigned greater-or-equal. -/
  | bgeu (t : TileNo) (w : W64)
  /-- JAL (R80): Jumps relative to the instruction and links the return address. -/
  | jal (t : TileNo) (w : W64)
  /-- JR (R80): Jumps to the address in a register, linking when SA is not S0. -/
  | jr (t : TileNo) (w : W64)
  /-- LD_B (R80): Loads a zero-extended byte. -/
  | ldB (t : TileNo) (w : W64)
  /-- LD_H (R80): Loads a zero-extended halfword. -/
  | ldH (t : TileNo) (w : W64)
  /-- LD_W (R80): Loads a zero-extended word. -/
  | ldW (t : TileNo) (w : W64)
  /-- LD_D (R80): Loads a doubleword. -/
  | ldD (t : TileNo) (w : W64)
  /-- LDS_B (R80): Loads a sign-extended byte. -/
  | ldsB (t : TileNo) (w : W64)
  /-- LDS_H (R80): Loads a sign-extended halfword. -/
  | ldsH (t : TileNo) (w : W64)
  /-- LDS_W (R80): Loads a sign-extended word. -/
  | ldsW (t : TileNo) (w : W64)
  /-- ST_B (R80): Stores a byte. -/
  | stB (t : TileNo) (w : W64)
  /-- ST_H (R80): Stores a halfword. -/
  | stH (t : TileNo) (w : W64)
  /-- ST_W (R80): Stores a word. -/
  | stW (t : TileNo) (w : W64)
  /-- ST_D (R80): Stores a doubleword. -/
  | stD (t : TileNo) (w : W64)
  /-- CSRR (R70): Reads a control and status register, raising ILLEGAL for an unlisted number. -/
  | csrr (t : TileNo) (w : W64)
  /-- CSRW (R70): Writes a control and status register, raising ILLEGAL for RO, unlisted numbers or reserved TCTL codes. -/
  | csrw (t : TileNo) (w : W64)
  /-- FENCE (R100): Stalls until every earlier store of the tile has been acknowledged. -/
  | fence (t : TileNo) (w : W64)
  /-- TRAP (R100): Raises the TRAP exception with its immediate in EADDR. -/
  | trap (t : TileNo) (w : W64)
  /-- ERET (R96): Returns from the handler with PC := EPC and IH := 0, or raises ILLEGAL when IH = 0. -/
  | eret (t : TileNo) (w : W64)
  /-- VSETVL (R77): Sets VL to the minimum of the request and VLMAX of the type, and returns it. -/
  | vsetvl (t : TileNo) (w : W64)
  /-- VSETVL_FFR (R77): Sets VL := FFR and returns it. -/
  | vsetvlFfr (t : TileNo) (w : W64)
  /-- PHASE (R420): Closes the tile's current phase, writes a PHASE record when enabled, and opens a new phase. -/
  | phase (t : TileNo) (w : W64)
  /-- SNAP (R416): Raises a tagged local snapshot request when SNAPEN and its enable bit are set, and otherwise does nothing. -/
  | snap (t : TileNo) (w : W64)
  /-- TIME (R424): Returns global time, or the recorded value in REPLAY, and writes a TIME record in RECORD mode. -/
  | time (t : TileNo) (w : W64)
  /-- VADD (R83): Vector element-wise addition. -/
  | vadd (t : TileNo) (w : W64)
  /-- VSUB (R83): Vector element-wise subtraction. -/
  | vsub (t : TileNo) (w : W64)
  /-- VMUL (R83): Vector element-wise multiplication. -/
  | vmul (t : TileNo) (w : W64)
  /-- VMIN (R84): Vector element-wise minimum. -/
  | vmin (t : TileNo) (w : W64)
  /-- VMAX (R84): Vector element-wise maximum. -/
  | vmax (t : TileNo) (w : W64)
  /-- VNEG (R83): Vector negation. -/
  | vneg (t : TileNo) (w : W64)
  /-- VABS (R83): Vector absolute value. -/
  | vabs (t : TileNo) (w : W64)
  /-- VFMA (R83): Vector fused multiply-add with one rounding. -/
  | vfma (t : TileNo) (w : W64)
  /-- VDIV (R83): Correctly rounded vector division. -/
  | vdiv (t : TileNo) (w : W64)
  /-- VSQRT (R83): Correctly rounded vector square root. -/
  | vsqrt (t : TileNo) (w : W64)
  /-- VAND (R83): Vector bitwise AND. -/
  | vand (t : TileNo) (w : W64)
  /-- VOR (R83): Vector bitwise OR. -/
  | vor (t : TileNo) (w : W64)
  /-- VXOR (R83): Vector bitwise XOR. -/
  | vxor (t : TileNo) (w : W64)
  /-- VSHL (R83): Vector shift left. -/
  | vshl (t : TileNo) (w : W64)
  /-- VSHR (R83): Vector shift right, arithmetic for I and logical for U types. -/
  | vshr (t : TileNo) (w : W64)
  /-- VMOV (R83): Vector move. -/
  | vmov (t : TileNo) (w : W64)
  /-- VLD (R90): Vector load at any byte address. -/
  | vld (t : TileNo) (w : W64)
  /-- VLD_A (R90): Vector load from a 256-byte aligned address. -/
  | vldA (t : TileNo) (w : W64)
  /-- VST (R91): Vector store of the active elements, translating every page before any byte is written. -/
  | vst (t : TileNo) (w : W64)
  /-- VST_A (R91): Aligned vector store of the active elements. -/
  | vstA (t : TileNo) (w : W64)
  /-- VLDFF (R93): First-fault load that stops at the first faulting element after the first and sets FFR. -/
  | vldff (t : TileNo) (w : W64)
  /-- VBCAST (R83): Broadcasts a scalar or an immediate to every element. -/
  | vbcast (t : TileNo) (w : W64)
  /-- VSLIDEUP (R83): Slides elements up by m. -/
  | vslideup (t : TileNo) (w : W64)
  /-- VSLIDEDN (R83): Slides elements down by m. -/
  | vslidedn (t : TileNo) (w : W64)
  /-- VCVT (R84): Converts elements from ET2 to ET with RND and OVF. -/
  | vcvt (t : TileNo) (w : W64)
  /-- VSCALE_Q (R87): Narrows elements to a two-level scaled format and writes the block codes, and escape words when ESC is set. -/
  | vscaleQ (t : TileNo) (w : W64)
  /-- VSCALE_DQ (R43): Decodes scaled elements into a wide format. -/
  | vscaleDq (t : TileNo) (w : W64)
  /-- VREDSUM (R86): Sums the active elements by the canonical tree into element 0. -/
  | vredsum (t : TileNo) (w : W64)
  /-- VREDMIN (R83): Minimum of the active elements into element 0. -/
  | vredmin (t : TileNo) (w : W64)
  /-- VREDMAX (R83): Maximum of the active elements into element 0. -/
  | vredmax (t : TileNo) (w : W64)
  /-- VEXT (R83): Extracts one element into a scalar register. -/
  | vext (t : TileNo) (w : W64)
  /-- VINS (R83): Inserts a scalar into one element. -/
  | vins (t : TileNo) (w : W64)
  /-- VSADD (R88): Saturating vector addition. -/
  | vsadd (t : TileNo) (w : W64)
  /-- VSSUB (R88): Saturating vector subtraction. -/
  | vssub (t : TileNo) (w : W64)
  /-- VRMULH (R88): Rounding, saturating high multiply in fixed point. -/
  | vrmulh (t : TileNo) (w : W64)
  /-- VSHRR (R88): Rounding shift right under TCTL.FXR. -/
  | vshrr (t : TileNo) (w : W64)
  /-- VSNARROW (R89): Rounding, saturating narrowing from a register pair. -/
  | vsnarrow (t : TileNo) (w : W64)
  /-- VCMP_EQ (R83): Writes an equality compare to a predicate. -/
  | vcmpEq (t : TileNo) (w : W64)
  /-- VCMP_NE (R84): Writes an inequality compare to a predicate, true for a NaN operand. -/
  | vcmpNe (t : TileNo) (w : W64)
  /-- VCMP_LT (R83): Writes a less-than compare to a predicate. -/
  | vcmpLt (t : TileNo) (w : W64)
  /-- VCMP_LE (R83): Writes a less-or-equal compare to a predicate. -/
  | vcmpLe (t : TileNo) (w : W64)
  /-- PAND (R83): Predicate AND. -/
  | pand (t : TileNo) (w : W64)
  /-- POR (R83): Predicate OR. -/
  | por (t : TileNo) (w : W64)
  /-- PXOR (R83): Predicate XOR. -/
  | pxor (t : TileNo) (w : W64)
  /-- PNOT (R83): Predicate NOT. -/
  | pnot (t : TileNo) (w : W64)
  /-- PSETN (R83): Sets the predicate bits of elements 0 to n-1 and clears the others. -/
  | psetn (t : TileNo) (w : W64)
  /-- VFIRST (R83): Returns the index of the first active element, or -1. -/
  | vfirst (t : TileNo) (w : W64)
  /-- VPCNT (R83): Returns the number of active elements. -/
  | vpcnt (t : TileNo) (w : W64)
  /-- MMA (R112): Issues and commits a matrix multiply-accumulate C := C + A·B into an accumulator. -/
  | mma (t : TileNo) (w : W64)
  /-- MMA_TA (R114): Matrix multiply-accumulate with A stored transposed. -/
  | mmaTa (t : TileNo) (w : W64)
  /-- MMA_TB (R114): Matrix multiply-accumulate with B stored transposed. -/
  | mmaTb (t : TileNo) (w : W64)
  /-- MMA_TATB (R114): Matrix multiply-accumulate with both operands stored transposed. -/
  | mmaTatb (t : TileNo) (w : W64)
  /-- MZERO (R108): Zeroes an accumulator and sets its type tag. -/
  | mzero (t : TileNo) (w : W64)
  /-- MLD (R110): Loads an accumulator block from pond memory, zeroing the accumulator first when the tag changes. -/
  | mld (t : TileNo) (w : W64)
  /-- MST (R109): Stores an accumulator block to pond memory, rounded once and optionally scaled. -/
  | mst (t : TileNo) (w : W64)
  /-- MROW_R (R111): Copies one accumulator row into a vector register. -/
  | mrowR (t : TileNo) (w : W64)
  /-- MROW_W (R111): Writes one accumulator row from a vector register. -/
  | mrowW (t : TileNo) (w : W64)
  /-- MATRIX_COMPLETE (R117): An executing matrix instruction finishes, writes its accumulator or pond results, sets FFLAGS and releases the interlocks. -/
  | matrixComplete (t : TileNo)
  /-- VADD_T (R120): Tangent addition on a value-tangent register pair. -/
  | vaddT (t : TileNo) (w : W64)
  /-- VSUB_T (R120): Tangent subtraction. -/
  | vsubT (t : TileNo) (w : W64)
  /-- VMUL_T (R120): Tangent multiplication. -/
  | vmulT (t : TileNo) (w : W64)
  /-- VFMA_T (R120): Tangent fused multiply-add. -/
  | vfmaT (t : TileNo) (w : W64)
  /-- VDIV_T (R120): Tangent division. -/
  | vdivT (t : TileNo) (w : W64)
  /-- VSQRT_T (R120): Tangent square root. -/
  | vsqrtT (t : TileNo) (w : W64)
  /-- VCVT_T (R122): Conversion with its tangent computed by the QD mode. -/
  | vcvtT (t : TileNo) (w : W64)
  /-- VSCALE_Q_T (R122): Scaled quantisation with its tangent computed by the QD mode. -/
  | vscaleQT (t : TileNo) (w : W64)
  /-- VSCALE_DQ_T (R122): Scaled decoding with its tangent computed by the QD mode. -/
  | vscaleDqT (t : TileNo) (w : W64)
  /-- TAPE_PUSH (R125): Appends a record of a vector register to the tile's tape segment. -/
  | tapePush (t : TileNo) (w : W64)
  /-- TAPE_POP (R126): Pops the record at the head into a vector register after checking its trailer. -/
  | tapePop (t : TileNo) (w : W64)
  /-- TAPE_TRIM (R125): Moves the tape tail to a record boundary. -/
  | tapeTrim (t : TileNo) (w : W64)
  /-- TAPE_HEAD (R125): Returns the tape head offset in bytes. -/
  | tapeHead (t : TileNo) (w : W64)
  /-- ADJ_FMA (R128): Pops a record x and accumulates d := fma(a, x, b). -/
  | adjFma (t : TileNo) (w : W64)
  /-- ADJ_DIV (R128): Pops a record x and accumulates d := b + a/x. -/
  | adjDiv (t : TileNo) (w : W64)
  /-- ADJ_Q (R128): Pops block codes and accumulates the adjoint of a quantising step. -/
  | adjQ (t : TileNo) (w : W64)
  /-- DMA_PUT (R170): Reads and checks a transfer descriptor and enqueues it, or refuses it, reports ALLOT, or stalls on a full queue. -/
  | dmaPut (t : TileNo) (w : W64)
  /-- SIG_ADD (R185): Adds a value to a signal counter with saturation. -/
  | sigAdd (t : TileNo) (w : W64)
  /-- SIG_SUB (R185): Subtracts a value from a signal counter with saturation at zero. -/
  | sigSub (t : TileNo) (w : W64)
  /-- SIG_SET (R185): Sets a counter value and clears OVF and UNF. -/
  | sigSet (t : TileNo) (w : W64)
  /-- SIG_READ (R186): Reads a counter value and its flags into a register. -/
  | sigRead (t : TileNo) (w : W64)
  /-- SIG_REMOTE (R187): Sends an add to a counter on another device or VI, held at the source when FENCE = 1. -/
  | sigRemote (t : TileNo) (w : W64)
  /-- WAIT (R188): Tests a counter against a threshold, consuming when asked, or sleeps until it changes or times out. -/
  | wait (t : TileNo) (w : W64)
  /-- COLL_ALLRED (R220): Accepts an all-reduce generation of a group. -/
  | collAllred (t : TileNo) (w : W64)
  /-- COLL_REDSCAT (R221): Accepts a reduce-scatter generation. -/
  | collRedscat (t : TileNo) (w : W64)
  /-- COLL_ALLGATH (R221): Accepts an all-gather generation. -/
  | collAllgath (t : TileNo) (w : W64)
  /-- COLL_BCAST (R221): Accepts a broadcast generation from the root. -/
  | collBcast (t : TileNo) (w : W64)
  /-- COLL_REDUCE (R221): Accepts a reduce-to-root generation. -/
  | collReduce (t : TileNo) (w : W64)
  /-- COLL_DISPATCH (R231): Accepts a token dispatch generation. -/
  | collDispatch (t : TileNo) (w : W64)
  /-- COLL_COMBINE (R232): Accepts a token combine generation. -/
  | collCombine (t : TileNo) (w : W64)
  /-- COLL_RING (R233): Accepts a ring step generation. -/
  | collRing (t : TileNo) (w : W64)
  /-- STALLED_ISSUE_PROCEED (R99): A stalled engine-issue instruction proceeds once its queue or generation slot has room and repeats its checks. -/
  | stalledIssueProceed (t : TileNo)
  /-- WAIT_WAKE (R188): A change of a counter tests its sleeping waiters in arrival order and completes those whose threshold is met. -/
  | waitWake (c : CtrNo)
  /-- WAIT_TIMEOUT (R188): A WAIT whose timeout expires completes with TIMEOUT. -/
  | waitTimeout (t : TileNo)
  /-- SIG_REMOTE_RELEASE (R187): A held FENCE = 1 SIG.REMOTE is sent once every covered DMA write to its destination has been acknowledged. -/
  | sigRemoteRelease (v : ViNo) (held : Nat)
  /-- PREEMPT (R165): Stops issue at an instruction boundary, drains the matrix unit and writes the save image of the tile. -/
  | preempt (t : TileNo)
  /-- PREEMPT_DONE (R165): Once the last save write is acknowledged, the tile enters PREEMPT and BUSY clears. -/
  | preemptDone (t : TileNo)
  /-- RESTORE (R167): Reads and checks a save image and loads the tile state, or refuses it with BADIMAGE or RANGE. -/
  | restore (t : TileNo)
  /-- RESTORE_DONE (R167): Once the image is loaded, the tile enters RUN at the saved PC. -/
  | restoreDone (t : TileNo)
  /-- FQ_TAIL_WRITE (R153): A write of MMU_VI_FQ_TAIL frees ring space, so held records are written and parked agents walk again. -/
  | fqTailWrite (v : ViNo) (tail : BitVec 19)
  /-- RETRY (R155): A resume that makes the accesses of one fault record walk again. -/
  | retry (v : ViNo) (inc : BitVec 8) (faultId : W32)
  /-- ABORT_RESUME (R156): A resume with ACTION ABORT that aborts the accesses of one record with the per-agent effects. -/
  | abortResume (v : ViNo) (inc : BitVec 8) (faultId : W32)
  /-- RETRY_ALL (R155): A resume that retries every unresumed record of the VI. -/
  | retryAll (v : ViNo) (inc : BitVec 8)
  /-- MMU_VI_INVAL (R146): Queues invalidation of one stage-1 page, or all of them, for the VI, or discards the request and sets IOVF when 16 are queued. -/
  | mmuViInval (v : ViNo) (vpn : BitVec 36) (all : Bool)
  /-- INVAL_DONE (R146): Cached translations are dropped and old accesses have completed, so BUSY clears. -/
  | invalDone (v : ViNo)
  /-- SVC_LIMIT_EXPIRY (R157): An access that has waited longer than the fault-service limit faults its VI. -/
  | svcLimitExpiry (v : ViNo)
  /-- SVC_LIMIT_WRITE (R158): A write of MMU_SVC_LIMIT.LIMIT clamps the value and applies it at once to waiting accesses. -/
  | svcLimitWrite (via : Via) (limit : BitVec 14)
  /-- FRAME_MIGRATE_DONE (R150): A frame copy completes, so ADDR is rewritten, MIG cleared and waiting accesses resume. -/
  | frameMigrateDone (v : ViNo) (ipaPage : Nat) (frame : Nat)
  /-- SPILL_ADMIT (R159): Inbound cells waiting in Divide move into Mere spill buffers in arrival order as buffers free. -/
  | spillAdmit (v : ViNo) (tc : Fin 8)
  /-- BAR2_WRITE (R162): A host write through BAR2 is translated by aperture and stage 2, and a faulting write is discarded with a HOSTMMIO record. -/
  | bar2Write (d : LinkNo) (off : Nat) (bytes : List Byte)
  /-- BAR2_READ (R162): A host read through BAR2 returns the data, or all ones on a fault. -/
  | bar2Read (d : LinkNo) (off : Nat) (len : Nat)
  /-- CXL_MEM_ACCESS (R370): A host CXL.mem access to the HBM slice, which never faults. -/
  | cxlMemAccess (d : LinkNo) (addr : Nat) (access : MemAccess)
  /-- DESCRIPTOR_START (R178): A DMA engine starts the next descriptor of a queue on its round-robin turn, after FENCE when set, and reads the source. -/
  | descriptorStart (q : QRef) (hostBytes : HostRead)
  /-- DMA_DATA (R179): An arriving DMA_DATA frame is checked on first arrival and its converted bytes are written to the destination. -/
  | dmaData (a : Addr) (f : DmaFrame)
  /-- DMA_WRITES_ACKED (R178): Every write of a descriptor is acknowledged, so the destination raises DSIG and sends a completion. -/
  | dmaWritesAcked (x : XferKey)
  /-- DMA_DONE (R178): A completion arrives at the source engine, which raises SSIG and ends the descriptor with its status. -/
  | dmaDone (a : Addr) (queue : Nat) (seq : Nat) (status : BitVec 4)
  /-- ZERO_LEN_COMPLETE (R181): A length-0 descriptor completes once every earlier write of its queue has been acknowledged. -/
  | zeroLenComplete (q : QRef) (seq : Nat)
  /-- DESCRIPTOR_RESEND (R388): A descriptor whose frames were lost is resent from COMMIT in TC1 once a route exists. -/
  | descriptorResend (q : QRef) (seq : Nat)
  /-- RESEND_ROUTE_TIMEOUT (R388): No route 10 ms after the loss ends the descriptor with DEST_GONE. -/
  | resendRouteTimeout (q : QRef) (seq : Nat)
  /-- SIGNAL (R186): An arriving SIGNAL frame adds to its counter, or is dropped and answered with SIG_NACK. -/
  | signal (a : Addr) (ctr : BitVec 15) (fence : Bool) (amount : W32)
  /-- SIG_NACK (R186): An arriving SIG_NACK of the current incarnation increments NACK at the sender. -/
  | sigNack (a : Addr) (ctr : BitVec 15) (amount : W32)
  /-- SIG_CTR_WRITE (R195): A host write of SIG_CTR sets VALUE and clears OVF and UNF. -/
  | sigCtrWrite (c : CtrNo) (val : W64)
  /-- REALIGN_CHECK (R190): Once the chunk signals before a barrier have landed, each member compares ARRIVED with EXPECTED and corrects any drift. -/
  | realignCheck (g : GrpNo)
  /-- CREATE (R202): A group context checks its local fields and member table and sends JOIN to rank 0. -/
  | create (g : GrpNo)
  /-- CLOSE (R205): Sends LEAVE to every member and moves the context to CLOSING, or frees a FAILED context. -/
  | close (g : GrpNo)
  /-- REJOIN (R228): A new incarnation checks its context and sends JOIN to every other member. -/
  | rejoin (g : GrpNo)
  /-- JOIN (R202): A JOIN reaching the coordinator is held until every rank has joined and then checked, and elsewhere it is discarded. -/
  | join (a : Addr) (gid : W32) (rank : Nat) (caps : BitVec 16) (crc : W32)
  /-- ACCEPT (R202): An ACCEPT sets NEXT and makes the context ACTIVE, or installs a rejoined rank. -/
  | accept (a : Addr) (gid : W32) (next : W32) (rejoined : Option MemberEntry)
  /-- REFUSE (R202): A REFUSE sets the context to FAILED with the code. -/
  | refuse (a : Addr) (gid : W32) (code : Byte)
  /-- LEAVE (R205): A LEAVE moves a JOINING, ACTIVE or SUSPENDED context to CLOSING. -/
  | leave (a : Addr) (gid : W32)
  /-- CREDIT (R233): A receive credit message lets the sender's chunks proceed. -/
  | credit (a : Addr) (gid gen : W32) (rank : Nat) (digest : W32) (chunks : Nat)
  /-- ARRIVE (R218): An ARRIVE message records a member's progress and completes a zero-count generation once all have arrived. -/
  | arrive (a : Addr) (gid gen : W32) (rank : Nat)
  /-- ABORT (R383): An ABORT for a newer attempt stops the generation, frees its windows and spill, and acknowledges after the old writes. -/
  | abort (a : Addr) (gid gen : W32) (rank : Nat) (attempt : Byte) (cause : BitVec 4)
  /-- ABORT_GO (R385): An ABORT with GO = 1 makes Talus replay the uncommitted chunks under the new attempt. -/
  | abortGo (a : Addr) (gid gen : W32) (attempt : Byte)
  /-- ABORT_ACK (R384): The coordinator collects acknowledgements, and the last one leads it to send ABORT with GO. -/
  | abortAck (a : Addr) (gid gen : W32) (rank : Nat) (attempt : Byte)
  /-- ABORT_ACK_TIMEOUT (R386): At the abort bound, the coordinator excludes members whose ABORT_ACK has not arrived. -/
  | abortAckTimeout (g : GrpNo) (gen : W32)
  /-- GO_TIMEOUT (R386): A member that holds no GO within twice the bound sends its acknowledgement to the lowest rank that still answers. -/
  | goTimeout (g : GrpNo) (gen : W32) (answering : List Nat)
  /-- EXCLUDE (R228): An EXCLUDE ends the group's open generations with EXCLUDED and suspends the group. -/
  | exclude (a : Addr) (gid : W32) (rank : Nat)
  /-- JOIN_TIMEOUT (R202): At rank 0, the join timeout expiring refuses the group with TIMEOUT. -/
  | joinTimeout (g : GrpNo)
  /-- JOIN_WAIT_TIMEOUT (R202): A member that has heard no answer within twice the timeout becomes FAILED with TIMEOUT. -/
  | joinWaitTimeout (g : GrpNo)
  /-- GROUP_TOKEN_REFILL (R215): A group's launch bucket gains one token every 10 µs. -/
  | groupTokenRefill (g : GrpNo)
  /-- DEVICE_TOKEN_REFILL (R215): The device launch bucket gains one token every 500 ns. -/
  | deviceTokenRefill
  /-- GENERATION_LAUNCH (R212): An ISSUED generation takes its tokens, and its latched G where needed, then posts credits and enters RUNNING. -/
  | generationLaunch (g : GrpNo) (gen : W32)
  /-- CHUNK_SEND (R11): The source DMA reads a chunk and sends it in wire form once receive and link credit allow. -/
  | chunkSend (g : GrpNo) (gen : W32) (chunk : Nat)
  /-- DISPATCH_COUNT_ARRIVE (R231): The route counts of a member arrive and fix the slot assignment for the data phase. -/
  | dispatchCountArrive (a : Addr) (gid gen : W32) (rank : Nat) (counts : List Nat)
  /-- COL_DATA (R216): A result COL_DATA frame arrives at the landing engine, which checks, converts and writes it into DST. -/
  | colData (a : Addr) (f : ColFrame)
  /-- CHUNK_COMMIT (R381): Every DST write of a chunk is acknowledged, so CSIG is raised and Talus records the commit. -/
  | chunkCommit (g : GrpNo) (gen : W32) (chunk : Nat)
  /-- GEN_STATUS_ACKED (R216): The status record write is acknowledged, so the comparator samples and GSIG is raised, and the generation is DONE or ENDED. -/
  | genStatusAcked (g : GrpNo) (gen : W32)
  /-- RING_STALL (R234): No progress from a peer for STALL × 100 µs sets STALL and, under ABORT, aborts the generation. -/
  | ringStall (g : GrpNo) (gen : W32)
  /-- TARN_CELL_ARRIVE (R244): An input cell is matched by key and attempt and combined, dropped as duplicate or stale, or restarts the window. -/
  | tarnCellArrive (u : UnitNo) (c : TarnCell)
  /-- TARN_SPILL_RESTORE (R243): When a window frees, spilled partial sums are brought back in ascending block order. -/
  | tarnSpillRestore (u : UnitNo)
  /-- DEEP_SLOT_GRANT (R250): A waiting deep generation takes slots in the first unit of the rotation that has enough free. -/
  | deepSlotGrant (g : GrpNo) (gen : W32)
  /-- TARN_STORE_ERROR (R246): An uncorrectable store error records TARN_UNIT_ERR, fences the unit and aborts the generations it held. -/
  | tarnStoreError (u : UnitNo) (code : Byte) (v : ViNo) (inc : Byte)
  /-- TARN_WITHDRAW (R261): Writing TARN_UNIT_CFG.EN = 0 starts withdrawing the unit from the rotation. -/
  | tarnWithdraw (u : UnitNo)
  /-- TARN_UNIT_DRAINED (R261): A withdrawn unit's windows, slots and pending entries have drained, so it leaves the rotation. -/
  | tarnUnitDrained (u : UnitNo)
  /-- WATCH_CLR (R261): Writing CLR sets the nine watch counters and SUM of the VI to zero. -/
  | watchClr (v : ViNo)
  /-- CMP_CFG_WRITE (R259): A comparator configuration write that takes EN from 0 to 1 sets SEEN := 0. -/
  | cmpCfgWrite (v : ViNo) (k : Fin 4) (val : W64)
  /-- CMP_REF_WRITE (R259): A write of the comparator REF seeds the reference. -/
  | cmpRefWrite (v : ViNo) (k : Fin 4) (val : W64)
  /-- FRAME_ADMIT (R269): A frame offered to Divide is admitted from reserved or shared space, or held at its source, or dropped if it is a mirror copy. -/
  | frameAdmit (f : DivFrame)
  /-- HELD_FRAME_ADMIT (R269): A frame held at its source is admitted once room frees. -/
  | heldFrameAdmit (id : Nat)
  /-- FRAME_TIMER_EXPIRY (R273): A frame with a non-empty residue 10 ms after admission is purged from the remaining queues. -/
  | frameTimerExpiry (id : Nat)
  /-- DIVIDE_CELL_ERROR (R271): An uncorrectable error in a stored cell discards the frame and writes DIVIDE_ERR. -/
  | divideCellError (die : Fin 2) (id : Nat) (code : Byte)
  /-- ARB_DECIDE (R275): An arbiter instance with no grant, or in its last beat, picks a winner by forced wins, priority and weight. -/
  | arbDecide (arb : ArbRef) (ready : BitVec 16)
  /-- ARB_WINDOW_RESET (R278): At each 2^WINDOW cycle boundary the forced-win count FW resets. -/
  | arbWindowReset (arb : ArbRef)
  /-- ARB_WATCHDOG (R277): A grant held past the watchdog limit is withdrawn, the arbiter state is cleared and the transfer is abandoned. -/
  | arbWatchdog (arb : ArbRef)
  /-- EMERGENCY_REQUEST (R276): The emergency requester takes the resource at the next beat boundary. -/
  | emergencyRequest (arb : ArbRef) (requester : Emergency)
  /-- EMERGENCY_END (R276): The emergency ends and the interrupted requester resumes without a decision. -/
  | emergencyEnd (arb : ArbRef)
  /-- MIRROR_ENABLE (R280): A rising edge of DIVIDE_MIR_CFG.EN starts the session and restarts its RATE count. -/
  | mirrorEnable (m : Fin 16) (val : W64)
  /-- MERE_ALLOC (R286): A buffer request takes the lowest free buffer of the smallest fitting pool from reserved or shared space, or ends with a code. -/
  | mereAlloc (size : Nat) (owner : Nat) (inc : Byte)
  /-- MERE_FREE (R287): A free clears the buffer's state bit, or is rejected as DOUBLE_FREE, NOT_OWNER or STALE. -/
  | mereFree (pool : Fin 5) (index : Nat) (owner : Nat) (inc : Byte)
  /-- UP (R302): Starts training of a Hyora or edge port, or holds the command in PENDING_CAL. -/
  | up (p : PhyPort)
  /-- DOWN (R302): Takes a port DOWN, sending BYE from UP or TRAINING and purging its queued frames. -/
  | down (p : PhyPort)
  /-- RETRAIN (R302): Takes a port DOWN without BYE and trains it again. -/
  | retrain (p : PhyPort)
  /-- TEST (R302): Puts a port in PRBS test mode. -/
  | test (p : PhyPort)
  /-- RELOCK (R302): Restarts a PLL in FAILED_LOCK and puts its ports in PENDING_CAL holding UP. -/
  | relock (p : PhyPort)
  /-- PLL_LOCKED (R303): A PLL completes settling and calibration, and the held command of each of its ports executes. -/
  | pllLocked (l : Pll)
  /-- PLL_LOCK_TIMEOUT (R303): A PLL not locked 200 µs after its start puts it and its ports in FAILED_LOCK. -/
  | pllLockTimeout (l : Pll)
  /-- PLL_LOCK_LOSS (R304): An in-service loss of lock drops the lanes, puts UP ports in PENDING_CAL and purges unacknowledged frames. -/
  | pllLockLoss (l : Pll)
  /-- CODEWORD_RECEIVE (R296): A lane receives and decodes one RS codeword, updating lock state and marking blocks errored when uncorrectable. -/
  | codewordReceive (p : PortNo) (l : LaneNo) (cw : Codeword)
  /-- LANES (R305): A LANES lane message reports which far receivers are in lock. -/
  | lanes (p : PortNo) (m : LaneMsg)
  /-- WIDTH (R305): A WIDTH message announces the active transmit set and its effective SEQ, and can bring the port UP. -/
  | width (p : PortNo) (m : LaneMsg)
  /-- WIDTH_CHANGE_EFFECT (R306): At the announced SEQ the new transmit set takes effect. -/
  | widthChangeEffect (p : PortNo) (seq : Byte)
  /-- NARROW_REQ (R306): The far end removes the named lane from its transmit set and announces it by WIDTH. -/
  | narrowReq (p : PortNo) (m : LaneMsg)
  /-- SWAP_REQ (R307): The far end swaps its own channel of the lane for a spare, or answers SWAP_NAK. -/
  | swapReq (p : PortNo) (m : LaneMsg)
  /-- SWAP_NAK (R307): The far end has no spare, so the fibre counts as failed. -/
  | swapNak (p : PortNo) (m : LaneMsg)
  /-- BYE (R473): A valid BYE takes the port DOWN and purges its queued frames. -/
  | bye (p : PortNo) (m : LaneMsg)
  /-- LANE_TRAIN_TIMEOUT (R305): A lane not in lock 100 µs after training starts counts as failed and is spared when possible. -/
  | laneTrainTimeout (p : PortNo) (l : LaneNo)
  /-- TRAIN_RETRY (R305): A port that cannot reach width 2 retries every 10 ms and increments RETRAINS. -/
  | trainRetry (p : PhyPort)
  /-- SYMBOL_WINDOW_EXPIRY (R306): At the end of a 1 ms window, a lane over SWAPTHR or with 4 uncorrectable codewords is degrading. -/
  | symbolWindowExpiry (p : PortNo) (l : LaneNo)
  /-- OPTICAL_ALARM (R306): An optical power or laser bias alarm makes the lane degrading. -/
  | opticalAlarm (p : PortNo) (l : LaneNo) (on : Bool)
  /-- PRBS_CHECK_START (R311): A rising edge of CHK clears ERRORS and BITS and starts the checker. -/
  | prbsCheckStart (p : PhyPort) (val : W64)
  /-- PRBS_INJECT_SINGLE (R312): A write with INJ = 0b01 inverts one transmitted bit on INJLANE. -/
  | prbsInjectSingle (p : PhyPort) (val : W64)
  /-- PRBS_INJECT_PERIODIC (R312): Every 2^INJRATE bits one transmitted bit is inverted. -/
  | prbsInjectPeriodic (p : PhyPort)
  /-- FEC_INJECT (R313): One codeword in 2^PERIOD has NSYM symbols corrupted on the chosen lane. -/
  | fecInject (p : PortNo) (l : LaneNo)
  /-- MODULE_INSERT (R316): An inserted module is brought to ModuleReady and its data path activated. -/
  | moduleInsert (e : EdgeNo)
  /-- MODULE_READY (R316): A module reaches ModuleReady, and with AUTOUP the device issues UP. -/
  | moduleReady (e : EdgeNo)
  /-- MODULE_REMOVE (R316): Removing a module takes its edge port DOWN and purges queued frames. -/
  | moduleRemove (e : EdgeNo)
  /-- EDGE_FRAME_RECEIVE (R315): An Ethernet frame is checked for FCS, PAUSE, PFC and EtherType, and is discarded or passed up. -/
  | edgeFrameReceive (e : EdgeNo) (f : EthFrame)
  /-- LINK_FRAME_RECEIVE (R328): A link frame is accepted in SEQ order and acknowledged, or discarded as a duplicate or errored. -/
  | linkFrameReceive (p : PortNo) (f : LinkFrame)
  /-- ACK (R328): A cumulative ACK frees acknowledged frames at the sender. -/
  | ack (p : PortNo) (body : BitVec 56)
  /-- NAK (R329): An ACK with NAK = 1 makes the sender resend from ACKSEQ, or only unmarked frames under SACK. -/
  | nak (p : PortNo) (body : BitVec 56)
  /-- CRED (R331): A CRED block updates the returned cells of a class and releases credit. -/
  | cred (p : PortNo) (body : BitVec 56)
  /-- CRED_RETURN (R332): Within 2 µs of freeing, the receiver adds freed cells to TOTAL and sends CRED. -/
  | credReturn (p : PortNo) (tc : Fin 8)
  /-- CRED_REPEAT (R332): The CRED of a recently changed class is repeated at least every 1 µs. -/
  | credRepeat (p : PortNo) (tc : Fin 8)
  /-- ACK_REPEAT (R328): The latest ACK is repeated at least every 1 µs while frames remain unacknowledged. -/
  | ackRepeat (p : PortNo)
  /-- REPLAY_TIMEOUT (R330): No ACK within T_REPLAY starts a replay, and REPLAYMAX replays set REPLIM and issue RETRAIN. -/
  | replayTimeout (p : PortNo)
  /-- CAP (R324): A valid CAP with a matching ECHO completes CAPEX, or leads to NEGOTIATE_FAIL on a MAJOR mismatch. -/
  | cap (p : PortNo) (m : LinkMsg)
  /-- CAP_TIMER (R324): In CAPEX each end sends CAP every 100 µs. -/
  | capTimer (p : PortNo)
  /-- IDENT (R325): A valid IDENT is compared with the map and moves the link to ACTIVE, MISWIRED or UNMAPPED. -/
  | ident (p : PortNo) (m : LinkMsg)
  /-- IDENT_TIMER (R325): In IDENT each end sends IDENT every 100 µs and its three PROBEs. -/
  | identTimer (p : PortNo)
  /-- PROBE (R325): A received PROBE is answered with PROBE_REPLY. -/
  | probe (p : PortNo) (m : LinkMsg) (turnaround : W64)
  /-- PROBE_REPLY (R325): A PROBE_REPLY gives an RTT sample, and the smallest of three sets PORT_LINK_RTT. -/
  | probeReply (p : PortNo) (m : LinkMsg)
  /-- MGMT (R446): A KIND MGMT frame delivers a register-access datagram through the fabric. -/
  | mgmt (a : Addr) (seq : W32) (datagram : List W32) (inSession : Bool)
  /-- SWEEP (R337): The device checks the candidate map, sends IDENT on its UP ports and waits for replies. -/
  | sweep
  /-- SWEEP_REPLY_TIMEOUT (R337): After 1 ms the device gives each port a result and sends its report, or STALE, to the pod leader. -/
  | sweepReplyTimeout
  /-- DISC (R338): A sweep report arrives at the pod leader, which collects the reports into CLEAN or STALE. -/
  | disc (slot : Fin 32) (rep : SweepReport)
  /-- LEADER_RESWEEP (R338): After a STALE report, the leader sends SWEEP to every present device of the pod. -/
  | leaderResweep
  /-- SWEEP_INCOMPLETE (R338): A report still missing 5 ms after the sweep started makes the result INCOMPLETE. -/
  | sweepIncomplete
  /-- ABANDON (R348): Ends a sweep without result. -/
  | abandon
  /-- PUBLISH (R339): Arms activation of the swept candidate map at T_act, or refuses it. -/
  | publish
  /-- PUBLISH_ACTIVATE (R339): At T_act the candidate becomes the active map, ports recheck identity and groups are rechecked for placement. -/
  | publishActivate
  /-- DRAIN_SET (R340): Setting DRAIN keeps new generations and DMA frames off the port. -/
  | drainSet (p : PortNo)
  /-- DRAINED (R340): A draining port holds no queued and no unacknowledged frame, so DRAINED is set. -/
  | drained (p : PortNo)
  /-- METRO_DATA (R345): A metro DATA frame is passed into Divide in PSN order or held behind a gap. -/
  | metroData (e : EdgeNo) (m : MetroHdr) (frame : DivFrame)
  /-- SACK (R344): A metro SACK frees acknowledged buffers and triggers retransmission of frames reported missing. -/
  | sack (e : EdgeNo) (m : MetroHdr) (cum rwin : W32) (map : BitVec 256)
  /-- METRO_PROBE (R342): A metro PROBE is answered with PROBE_REPLY. -/
  | metroProbe (e : EdgeNo) (m : MetroHdr) (nonce : BitVec 16) (tSend : W64) (turnaround : W64)
  /-- METRO_PROBE_REPLY (R342): A reply from the configured peer brings the path UP and sets SRTT, and otherwise sets MISMATCH. -/
  | metroProbeReply (e : EdgeNo) (m : MetroHdr) (tSend turnaround : W64)
  /-- METRO_PROBE_TIMER (R342): A path in PROBING sends PROBE every 100 µs, and a FAILED path every 100 ms. -/
  | metroProbeTimer (e : EdgeNo)
  /-- METRO_RTX_TIMER (R344): A frame unacknowledged RTTDECL + 100 µs after its latest transmission is retransmitted, and RTXMAX sends fail the path. -/
  | metroRtxTimer (e : EdgeNo) (psn : W32)
  /-- METRO_SACK_TIMER (R344): The receiver sends a SACK at least every 20 µs while it holds unacknowledged frames. -/
  | metroSackTimer (e : EdgeNo)
  /-- METRO_SACK_TIMEOUT (R344): No SACK for 10 ms with frames outstanding puts the path in FAILED and frees its buffers. -/
  | metroSackTimeout (e : EdgeNo)
  /-- SQTAIL (R357): A doorbell write of SQTAIL makes the device read submission entries, or stops the queue with BADDB. -/
  | sqtail (d : LinkNo) (v : ViNo) (lq : Fin 64) (tail : W32)
  /-- SQ_ENTRY_FETCHED (R357): A host read of an SQ entry completes, and the descriptor is checked and executed or the queue stops with HOSTERR. -/
  | sqEntryFetched (q : HqNo) (entry : Option (List W64))
  /-- PUSH_WRITE (R358): A write covering byte 63 of the push window takes a descriptor, or stops the queue with OVERRUN. -/
  | pushWrite (d : LinkNo) (v : ViNo) (lq : Fin 64) (off : Nat) (bytes : List Byte)
  /-- CQHEAD (R362): A write of CQHEAD frees completion slots and re-arms the queue's interrupt. -/
  | cqhead (d : LinkNo) (v : ViNo) (lq : Fin 64) (head : W32)
  /-- CQ_ENTRY_WRITE (R361): A completed descriptor's CQ entry is written once the CQ has room, followed by MSI-X when enabled. -/
  | cqEntryWrite (q : HqNo)
  /-- HOST_QUEUE_ENABLE (R356): Setting HOST_Q_CFG.EN puts the queue in service. -/
  | hostQueueEnable (q : HqNo)
  /-- HOST_QUEUE_DISABLE (R357): Clearing EN waits until OUT = 0, then zeroes SQHEAD, CQTAIL and ERR. -/
  | hostQueueDisable (q : HqNo)
  /-- HOST_LINK_DOWN (R364): Loss of a host link, or assertion of its PERST_N, stops its VIs' queues with LINKDOWN and drops held lines. -/
  | hostLinkDown (d : LinkNo)
  /-- SNPDATA (R369): A CXL SnpData is answered from the device state of the line. -/
  | snpdata (addr : Nat)
  /-- SNPINV (R369): A CXL SnpInv is answered from the line state and invalidates it. -/
  | snpinv (addr : Nat)
  /-- SNPCUR (R369): A CXL SnpCur is answered without changing the line state. -/
  | snpcur (addr : Nat)
  /-- CXL_GO (R369): A GO completes an outstanding RdOwn or eviction and frees the entry. -/
  | cxlGo (addr : Nat) (data : Option (List Byte))
  /-- CXL_WRITE_PULL (R369): A write-pull sends the buffered DirtyEvict data, marked Bogus when LOST. -/
  | cxlWritePull (addr : Nat)
  /-- LINE_HOLD_EXPIRY (R368): A line unchanged for HOLD is evicted by DirtyEvict or CleanEvictNoData. -/
  | lineHoldExpiry (addr : Nat)
  /-- SIGNAL_LINE_POST (R367): Without CXL.cache, a changed signal line is written as a posted write at most every 100 ns. -/
  | signalLinePost (n : Fin 256)
  /-- DEVICE_CONTAINMENT (R377): An escalated error stops every tile and engine, excludes every rank of the device and reports containment. -/
  | deviceContainment (e : ErrEntry) (inDivideOrPort : Bool)
  /-- VI_RESET (R389): Increments the incarnation, stops the tiles, retires old work, frees contexts and clears counters, watch and tape. -/
  | viReset (v : ViNo)
  /-- VI_RESET_DEFER_END (R391): A reset requested under 10 ms after the previous one starts when those 10 ms have passed. -/
  | viResetDeferEnd (v : ViNo)
  /-- VI_RESET_DONE (R389): When QUIESCE reaches zero, the VI becomes IDLE, CAUSE is set and the MSI-X is sent. -/
  | viResetDone (v : ViNo)
  /-- VI_RESET_TIMEOUT (R393): A reset not complete within 2 ms escalates to device containment. -/
  | viResetTimeout (v : ViNo)
  /-- MIGRATE (R396): FAULT_TILE_MIG starts moving a tile's work to a spare by holding entries, pre-empting and copying the pond. -/
  | migrate (ptile : Byte)
  /-- MIGRATE_DONE (R396): The pond copy completes, the map moves to the spare, the old tile is fenced and the tile is restored. -/
  | migrateDone
  /-- MIGRATE_TIMEOUT (R396): Entries not drained within 10 ms end the command with TIMEOUT. -/
  | migrateTimeout
  /-- POND_UNCORRECTABLE (R395): An uncorrectable pond error faults the VI with MEM and may fence the tile. -/
  | pondUncorrectable (t : TileNo) (off : Nat)
  /-- HBM_ECC_ERROR (R394): An HBM error is counted in health and may replace a row or retire the channel. -/
  | hbmEccError (channel : Fin 256) (row : Nat) (corrected : Bool)
  /-- HEALTH_DECAY (R403): Once per second every health accumulator decays by its DECAY shift. -/
  | healthDecay
  /-- PPS_EDGE (R410): A PPS input edge sets or disciplines global time. -/
  | ppsEdge
  /-- PTP_MESSAGE (R410): A PTP message on a management port is timestamped and disciplines the time rate. -/
  | ptpMessage (offset : Int)
  /-- TIME_SOURCE_LOSS (R410): Loss of the time source clears LOCKED, sets HOLD and raises an event. -/
  | timeSourceLoss
  /-- TIME_SET (R411): A write of TELEM_TIME_SET steps the time while every VI is idle, and otherwise sets SETERR. -/
  | timeSet (ns : W64)
  /-- SNAP_CMD (R416): A write of CMD sets a snapshot latch time 256 ns ahead. -/
  | snapCmd
  /-- TRIG_IN_RISE (R416): A TRIG_IN rising edge sets a snapshot latch time when enabled. -/
  | trigInRise
  /-- SNAP_AT_WRITE (R416): A write of TELEM_SNAP_AT arms or replaces the latch time, or latches at once when it is past. -/
  | snapAtWrite (at_ : W64)
  /-- SNAP_AT_REACHED (R416): Global time reaching the armed AT triggers a snapshot. -/
  | snapAtReached
  /-- COUNTER_THRESHOLD (R414): A counter reaching THR triggers one snapshot. -/
  | counterThreshold (ctr : Fin 256)
  /-- SNAPSHOT_LATCH (R415): At T_L every counter, the time and each tile's PC, state and phase are latched, unless BUSY is set. -/
  | snapshotLatch
  /-- SNAPSHOT_RECORD_WRITTEN (R417): The snapshot record is written to the ring, or dropped, and BUSY clears. -/
  | snapshotRecordWritten
  /-- REC_TAIL_WRITE (R423): Draining the record ring releases stalled TIME and INPUT records and writes a pending GAP record. -/
  | recTailWrite (v : ViNo) (tail : W32)
  /-- RESET_N (R430): Release of RESET_N samples PROFILE_SEL and starts the boot sequence. -/
  | resetN (sel : BitVec 2)
  /-- MGMT_RESET (R429): MGMT_RST = 0xA through SPI or the management path resets everything except always-on, SPI, management Ethernet and time. -/
  | mgmtReset (via : Via) (sel : BitVec 2)
  /-- FIRMWARE_VERIFIED (R433): The firmware image is read, hashed and checked for signature and rollback, or the boot fails over to the other slot, BOOT_FAIL or RECOVERY. -/
  | firmwareVerified
  /-- SELFTEST_DONE (R430): Mesh PLLs lock, the tile self-test runs and fused repair is applied. -/
  | selftestDone (failed : List TileNo)
  /-- HBM_TRAINED (R430): HBM training and the test of the reserved frames complete. -/
  | hbmTrained (ok : Bool)
  /-- PROFILE_READ_DONE (R437): The selected profile is read and applied whole at boot, or the device enters NOPROFILE. -/
  | profileReadDone
  /-- PROFILE_LOAD (R437): Loads a profile slot into a shadow set, checks it and commits it whole, or refuses it. -/
  | profileLoad (slot : Fin 4)
  /-- VI_CREATE (R440): Checks the allotments of an absent VI and makes it present and IDLE. -/
  | viCreate (v : ViNo)
  /-- VI_DESTROY (R440): Returns the allotments of a present, unloaded VI and turns its tiles OFF. -/
  | viDestroy (v : ViNo)
  /-- VI_LOAD (R442): Checks the manifest against the profile, sets the tape registers and starts the tiles at ENTRY. -/
  | viLoad (v : ViNo)
  /-- VI_UNLOAD (R442): Resets the VI with cause REQUEST and clears LOADED. -/
  | viUnload (v : ViNo)
  /-- EXPERT_WRITE (R443): A write of MGMT_EXPERT sets EXPERT_EN bits unless LOCK is set. -/
  | expertWrite (via : Via) (val : W32)
  /-- VERSION_FUSE_RAISE (R433): On the administrator's command, firmware raises the security version fuse to the running version. -/
  | versionFuseRaise (byAdministrator : Bool)
  /-- SPI_WRITE (R445): A WRITE frame executes on select rising when complete and its CRC matches, and otherwise is discarded and counted. -/
  | spiWrite (f : SpiFrame)
  /-- SPI_READ (R444): A READ frame returns N data words and a CRC. -/
  | spiRead (f : SpiFrame)
  /-- MGMT_DATAGRAM (R446): A register-access datagram on a management port is executed inside an SPDM session, or dropped. -/
  | mgmtDatagram (port : Fin 2) (words : List W32) (inSession : Bool)
  /-- SPDM_REQUEST (R435): An SPDM request is answered with signed measurements. -/
  | spdmRequest (index : Nat)
  /-- MAINT_START (R450): Starts a maintenance activity, queues it, or ends with BUSY_CONFLICT. -/
  | maintStart (act : Fin 16) (tag : Byte) (target : BitVec 16)
  /-- MAINT_CANCEL (R450): Cancels a maintenance activity by tag. -/
  | maintCancel (tag : Byte)
  /-- MAINT_DONE (R450): An activity ends with its RESULT, and queued activities without conflict start. -/
  | maintDone (tag : Byte) (defect : Bool)
  /-- MAINT_WINDOW_DUE (R451): Inside an open window, due activities start on their own. -/
  | maintWindowDue (act : Fin 16) (target : BitVec 16)
  /-- POWER_CONTROL_TICK (R452): Every 1 ms the average power is compared with CAP and the ceiling steps 100 MHz. -/
  | powerControlTick (watts : BitVec 16)
  /-- DVFS_GAP_END (R23): The PLL relocks and the gated tiles resume. -/
  | dvfsGapEnd (grp : Fin 38)
  /-- AVS_COMPLETE (R463): The regulator reports completion and an upward step raises the clocks. -/
  | avsComplete
  /-- AVS_TIMEOUT (R463): No completion within 1 ms keeps the old ceiling, sets AVSFAIL and charges health. -/
  | avsTimeout
  /-- TEMP_WARN (R453): Reaching WARN asserts THERM_ALERT_N. -/
  | tempWarn (temp : Byte)
  /-- TEMP_THROT (R453): Reaching THROT starts lowering the ceiling. -/
  | tempThrot (temp : Byte)
  /-- THROTTLE_TICK (R453): Each ms above THROT - 5 °C lowers the ceiling by 100 MHz. -/
  | throttleTick (temp : Byte)
  /-- TEMP_CRIT (R453): Reaching CRIT stops every tile at a restart point. -/
  | tempCrit (temp : Byte)
  /-- TEMP_BELOW_THROT (R453): Falling below THROT resumes tile issue. -/
  | tempBelowThrot (temp : Byte)
  /-- THERMAL_TRIP (R453): At 125 °C all clocks but always-on stop and THERM_ALERT_N is held low. -/
  | thermalTrip
  /-- REFCLK_LOSS (R459): Loss of the active reference fails over to the other input, or stops the PLL domains. -/
  | refclkLoss (inp : Fin 2)
  /-- REFCLK_RESTORED (R459): A valid input present for 1 ms after a total loss triggers a management reset. -/
  | refclkRestored (inp : Fin 2) (sel : BitVec 2)
  /-- BROWNOUT (R465): A rail below tolerance for more than 5 µs resets the device and sets BROWN. -/
  | brownout (rail : Fin 9) (aonHolds : Bool)
  /-- BROWNOUT_RECOVER (R465): Rails back in tolerance for 10 ms let the device boot as from RESET_N. -/
  | brownoutRecover (sel : BitVec 2)
  /-- TEMP_BELOW_WARN (R453): The highest junction temperature falls below WARN, so THERM_ALERT_N is released and CLKPWR_THERM.ALERT clears. -/
  | tempBelowWarn (temp : Byte)
  /-- CONFIGURATION_REQUEST (R431): A PCIe configuration request from the host is answered, with Configuration Request Retry Status until STAGE reaches READY, NOPROFILE or BOOT_FAIL, and otherwise acted on, for example to enable MSI-X, size BAR2 or enable CXL.cache and CXL.mem. -/
  | configurationRequest (d : LinkNo) (r : CfgReq)
  /-- HOST_LINK_UP (R350): A host link finishes training, LINKUP and the negotiated CXL mode are set, and the link is able to serve its VIs again. -/
  | hostLinkUp (d : LinkNo) (cxl : Bool)
  /-- PPS_OUT (R460): With PPSOUT set, PPS_OUT rises within ±10 ns of each whole second of global time and falls after PPSW ms. -/
  | ppsOut
  /-- PRBS_SYNC (R311): A lane's PRBS checker, fed by received test bits, declares SYNC after 1,024 correct predictions, counts each wrong prediction in ERRORS, and loses SYNC after 64 errors within 1,024 bits. -/
  | prbsSync (p : PhyPort) (l : LaneNo) (bits : List Bool)
  /-- EDGE_PORT_LOCK (R314): An edge port in TRAINING achieves lock and alignment of its 800GBASE-R or 400GBASE-R lanes and enters PSTATE UP, so its metro path can start probing. -/
  | edgePortLock (e : EdgeNo)
  deriving DecidableEq, Repr

end Sys2Proof
end

