-- ==== Sys2Proof/WellFormed.lean ====
section
/-! DEFINITION. Which commands could have been read from outside: the bounds that the types of their operands do not
already give. A command that is not well formed still has the meaning of Dispatch.lean. -/
namespace Sys2Proof

/-- Widths of a register access (00 R7). -/
def wfAccess (off width : Nat) : Bool := (width == 4 || width == 8) && off % width == 0

/-- A DMA_DATA frame: 8 header words and at most 4,096 bytes (06 R179, 11 R321). -/
def wfDmaFrame (f : DmaFrame) : Bool := f.thdr.length == 8 && decide (f.data.length ≤ 4096)

/-- A frame of Divide: 1 to 16 cells and a destination (09 R264). -/
def wfDivFrame (f : DivFrame) : Bool :=
  decide (1 ≤ f.cells) && decide (f.cells ≤ 16) && !f.dests.isEmpty && f.dests.all (fun d => decide (d < 172))

/-- A received link message has 64 bytes (11 R322). -/
def wfMsg (m : LinkMsg) : Bool := m.bytes.length == 64

/-- A submission entry is 8 words (12 R357). -/
def wfEntry : Option (List W64) → Bool
  | none => true
  | some l => l.length == 8

/-- Well-formedness of a command. -/
def wellFormed : Instr → Bool
  | .regWrite _ off width _ => wfAccess off width
  | .regWriteLowerHalf _ off _ => off % 8 == 0
  | .regWriteUpperHalf _ off _ => off % 8 == 4
  | .regReadLowerHalf _ off => off % 8 == 0
  | .regReadUpperHalf _ off => off % 8 == 4
  | .regAccessBadWidth _ off width _ => !wfAccess off width
  | .dmaData _ f => wfDmaFrame f
  | .frameAdmit f => wfDivFrame f
  | .metroData _ _ f => wfDivFrame f
  | .cap _ m => wfMsg m
  | .ident _ m => wfMsg m
  | .probe _ m _ => wfMsg m
  | .probeReply _ m => wfMsg m
  | .sqEntryFetched _ e => wfEntry e
  | .pushWrite _ _ _ off bytes => decide (off + bytes.length ≤ 64)
  | .mereFree _ _ owner _ => decide (owner < 137)
  | _ => true

end Sys2Proof
end

