-- ==== Sys2Proof/Config.lean ====
section
/-! DEFINITION. What an implementation fixes and the spec leaves open: opaque constants, about which nothing can be
proved. Each one is named in a log entry. -/
namespace Sys2Proof.Config

/-- The n-th free value the machine takes (DESIGN CHOICE, log entry 10). -/
opaque freeValue : Nat → W64
/-- The frame that the stage-2 tables, built from the profile, give page `p` of VI `v` (05 R140, DESIGN CHOICE, log entry 5). -/
opaque stage2Frame : Nat → Nat → Nat
/-- The MAC of edge port e, from the fuses (11 R346, DESIGN CHOICE, log entry 9). -/
opaque ownMac : Nat → BitVec 48
/-- The serial number of the device, from the fuses (11 R325, DESIGN CHOICE, log entry 9). -/
opaque serial : W64
/-- The capability set of the device, from the fuses and firmware (07 R202, 11 R324, DESIGN CHOICE, log entry 9). -/
opaque capabilities : Nat
/-- The key hash of the device, from the fuses (11 R324, DESIGN CHOICE, log entry 9). -/
opaque keyHash : BitVec 256
/-- MAJOR and MINOR of the link protocol, and the version of the firmware (11 R322, R324, DESIGN CHOICE, log entry 9). -/
opaque linkMajor : Nat
opaque linkMinor : Nat
opaque firmwareVersion : Nat
/-- SHA-384 (15 R433, DESIGN CHOICE, log entry 13): its result is no subject of the spec. -/
opaque sha384 : List Byte → BitVec 384
/-- Whether a signature over an image is valid under an unrevoked key (15 R433, DESIGN CHOICE, log entry 13). -/
opaque signatureValid : List Byte → Bool
/-- The security version that a firmware image carries (15 R433, DESIGN CHOICE, log entry 13). -/
opaque imageVersion : List Byte → Nat
/-- The version of the boot ROM, and the state of the key revocation fuses (15 R435, DESIGN CHOICE, log entry 9). -/
opaque romVersion : List Byte
opaque revocation : List Byte
/-- The signature of a message by the device key (15 R435, DESIGN CHOICE, log entry 13). -/
opaque sign : List Byte → BitVec 768
/-- Whether infinity times zero plus a quiet NaN sets NV (IEEE 754 leaves it, DESIGN CHOICE, log entry 16). -/
opaque fmaNaNInvalid : Bool

end Sys2Proof.Config
end

