-- ==== Sys2Proof/Machine/Bits.lean ====
section
/-! DEFINITION. Bit fields, sign extension and byte order, over natural numbers (00 R7, 03 R73). -/
namespace Sys2Proof.Machine

/-- Bits hi:lo of n. -/
def bits (n hi lo : Nat) : Nat := (n / 2 ^ lo) % 2 ^ (hi + 1 - lo)

/-- n with bits hi:lo set to v. -/
def setBits (n hi lo v : Nat) : Nat :=
  n - bits n hi lo * 2 ^ lo + (v % 2 ^ (hi + 1 - lo)) * 2 ^ lo

/-- Bit i of n. -/
def bit (n i : Nat) : Bool := n.testBit i

/-- A Bool as a bit. -/
def b2n (b : Bool) : Nat := if b then 1 else 0

/-- The two's-complement value of the low w bits of n. -/
def toI (w n : Nat) : Int :=
  if 2 ^ w ≤ 2 * (n % 2 ^ w) then (n % 2 ^ w : Int) - 2 ^ w else (n % 2 ^ w : Int)

/-- The low w bits of an integer. -/
def ofI (w : Nat) (i : Int) : Nat := (i % (2 ^ w : Int)).toNat

/-- The 64-bit word of an integer. -/
def w64I (i : Int) : W64 := BitVec.ofNat 64 (ofI 64 i)

/-- The least k bytes of n, little-endian (00 R7). -/
def bytesOf : Nat → Nat → List Byte
  | 0, _ => []
  | k + 1, n => BitVec.ofNat 8 n :: bytesOf k (n / 256)

/-- The value of bytes, little-endian. -/
def ofBytes : List Byte → Nat
  | [] => 0
  | b :: l => b.toNat + 256 * ofBytes l

/-- Numbers of w bits each, packed from bit 0. -/
def packW (w : Nat) : List Nat → Nat
  | [] => 0
  | x :: l => x % 2 ^ w + 2 ^ w * packW w l

/-- The first k fields of w bits each of n. -/
def unpackW (w : Nat) : Nat → Nat → List Nat
  | 0, _ => []
  | k + 1, n => n % 2 ^ w :: unpackW w k (n / 2 ^ w)

/-- ceil(a / b). -/
def cdiv (a b : Nat) : Nat := (a + b - 1) / b

/-- 0, 1, …, n - 1. -/
def upto (n : Nat) : List Nat := List.range n

/-- The list cut into pieces of k (k > 0), with fuel. -/
def chunksOf {α : Type} (k : Nat) : Nat → List α → List (List α)
  | 0, _ => []
  | _, [] => []
  | f + 1, l => l.take k :: chunksOf k f (l.drop k)

/-- The list cut into pieces of k. -/
def chunks {α : Type} (k : Nat) (l : List α) : List (List α) := chunksOf k l.length l

/-- Every element of the list with its index, from i. -/
def indexed {α : Type} : Nat → List α → List (Nat × α)
  | _, [] => []
  | i, x :: l => (i, x) :: indexed (i + 1) l

/-- Number of elements that satisfy p. -/
def cnt {α : Type} (p : α → Bool) : List α → Nat
  | [] => 0
  | x :: l => b2n (p x) + cnt p l

/-- Sum of f over the list. -/
def sumOf {α : Type} (f : α → Nat) : List α → Nat
  | [] => 0
  | x :: l => f x + sumOf f l

/-- Whether the list has no repeated element. -/
def distinctB {α : Type} [DecidableEq α] : List α → Bool
  | [] => true
  | x :: l => !l.contains x && distinctB l

/-- One bit of CRC-32C (Castagnoli, reflected). -/
def crcBit (c : Nat) : Nat := if c % 2 = 1 then Nat.xor (c / 2) 0x82F63B78 else c / 2

/-- One byte of CRC-32C. -/
def crcByte (c : Nat) (b : Byte) : Nat :=
  let x := Nat.xor c b.toNat
  crcBit (crcBit (crcBit (crcBit (crcBit (crcBit (crcBit (crcBit x)))))))

/-- CRC-32C of a string of bytes, as used by iSCSI (07 R202). -/
def crc32c (l : List Byte) : Nat := Nat.xor (l.foldl crcByte 0xFFFFFFFF) 0xFFFFFFFF

end Sys2Proof.Machine
end

