-- ==== Sys2Proof/Machine/Numerics.lean ====
section
/-! DEFINITION. Element formats, exact values, rounding and narrowing (02 R32-R36, R57, R59-R61), and the IEEE 754
operations over them. A value is exact until it is narrowed. -/
namespace Sys2Proof.Machine

/-- The floating formats of R32. -/
inductive Fmt where
  | f64 | f32 | f16 | bf16 | e5m2 | e4m3 | d8 | e2m1
  deriving DecidableEq, Repr

/-- Bits of a format (R32). -/
def Fmt.width : Fmt → Nat
  | .f64 => 64 | .f32 => 32 | .f16 => 16 | .bf16 => 16 | .e5m2 => 8 | .e4m3 => 8 | .d8 => 8 | .e2m1 => 4
/-- Mantissa bits (R32). -/
def Fmt.mant : Fmt → Nat
  | .f64 => 52 | .f32 => 23 | .f16 => 10 | .bf16 => 7 | .e5m2 => 2 | .e4m3 => 3 | .d8 => 4 | .e2m1 => 1
/-- Exponent bias (R32). -/
def Fmt.bias : Fmt → Int
  | .f64 => 1023 | .f32 => 127 | .f16 => 15 | .bf16 => 127 | .e5m2 => 15 | .e4m3 => 7 | .d8 => 3 | .e2m1 => 1
/-- Whether the format has infinities (R32). -/
def Fmt.hasInf : Fmt → Bool
  | .f64 | .f32 | .f16 | .bf16 | .e5m2 => true
  | .e4m3 | .d8 | .e2m1 => false
/-- The canonical NaN, +0 in E2M1, which has none (R33, R36). -/
def Fmt.nan : Fmt → Nat
  | .f64 => 0x7FF8000000000000 | .f32 => 0x7FC00000 | .f16 => 0x7E00 | .bf16 => 0x7FC0
  | .e5m2 => 0x7E | .e4m3 => 0x7F | .d8 => 0x80 | .e2m1 => 0
/-- Code of the largest finite magnitude (R32). -/
def Fmt.maxCode : Fmt → Nat
  | .f64 => 0x7FEFFFFFFFFFFFFF | .f32 => 0x7F7FFFFF | .f16 => 0x7BFF | .bf16 => 0x7F7F
  | .e5m2 => 0x7B | .e4m3 => 0x7E | .d8 => 0x7F | .e2m1 => 7
/-- Exponent of the largest finite value: E_fmt of R39 for the short formats. -/
def Fmt.maxExp : Fmt → Int
  | .f64 => 1023 | .f32 => 127 | .f16 => 15 | .bf16 => 127 | .e5m2 => 15 | .e4m3 => 8 | .d8 => 4 | .e2m1 => 2
/-- Exponent of the unit of the smallest subnormal. -/
def Fmt.qmin (f : Fmt) : Int := 1 - f.bias - f.mant

/-- An exact value: a fraction num / den × 2^e with its sign (a zero when num = 0), an infinity or NaN. -/
inductive Ex where
  | nan
  | inf (neg : Bool)
  | fin (neg : Bool) (num den : Nat) (e : Int)
  deriving DecidableEq, Repr

/-- The exact value of a code of a format (R32). -/
def decodeF (f : Fmt) (c : Nat) : Ex :=
  let neg := bit c (f.width - 1)
  let mag := c % 2 ^ (f.width - 1)
  let ef := mag / 2 ^ f.mant
  let mf := mag % 2 ^ f.mant
  if f.hasInf && (ef + 1 == 2 ^ (f.width - 1 - f.mant)) then
    if mf = 0 then .inf neg else .nan
  else if f = .e4m3 ∧ mag = 0x7F then .nan
  else if f = .d8 ∧ c % 256 = 0x80 then .nan
  else if ef = 0 then .fin neg mf 1 f.qmin
  else .fin neg (2 ^ f.mant + mf) 1 (f.qmin + ef - 1)

/-- A signalling NaN of IEEE 754: the leading mantissa bit is clear. -/
def isSNaN (f : Fmt) (c : Nat) : Bool :=
  f.hasInf && (decodeF f c == .nan) && !bit c (f.mant - 1)

/-- floor(log2(num / den × 2^e)) of a nonzero fraction. -/
def ilog2 (num den : Nat) (e : Int) : Int :=
  let l : Int := (num.log2 : Int) - den.log2
  let ge := if 0 ≤ l then den * 2 ^ l.toNat ≤ num else den ≤ num * 2 ^ (-l).toNat
  (if ge then l else l - 1) + e

/-- num / den × 2^e in units of 2^q: whole units, and the rest as a fraction. -/
def unitsAt (num den : Nat) (e q : Int) : Nat × Nat × Nat :=
  let n := num * 2 ^ (e - q).toNat
  let d := den * 2 ^ (q - e).toNat
  (n / d, n % d, d)

/-- Whether the magnitude m + rem / d rounds up (R35, R61). -/
def roundsUp (rnd : Nat) (neg : Bool) (g m rem d : Nat) : Bool :=
  match rnd with
  | 0 => d < 2 * rem || (2 * rem == d && m % 2 == 1)
  | 1 => false
  | 2 => neg && rem != 0
  | 3 => !neg && rem != 0
  | _ => decide (g < rem * 2 ^ 32 / d)

/-- The magnitude rounded to a multiple of 2^q: the count of units, and whether it was inexact. -/
def roundUnits (rnd : Nat) (neg : Bool) (g num den : Nat) (e q : Int) : Nat × Bool :=
  let (m, rem, d) := unitsAt num den e q
  (if roundsUp rnd neg g m rem d then m + 1 else m, rem != 0)

/-- FFLAGS bits (03 R70). -/
def fNV : Nat := 1
def fDZ : Nat := 2
def fOF : Nat := 4
def fUF : Nat := 8
def fNX : Nat := 16
def fSAT : Nat := 32
def fCR : Nat := 64

/-- A narrowed result: its code, the FFLAGS bits of R71, and what the numeric watch counts (R36): saturations,
non-finite inputs that leave no NaN, and flushes. -/
structure Nres where
  code : Nat
  flags : Nat
  sat : Nat := 0
  nonfin : Nat := 0
  flush : Nat := 0
  deriving DecidableEq, Repr

/-- The code with its sign. -/
def signed (f : Fmt) (neg : Bool) (mag : Nat) : Nat := if neg then 2 ^ (f.width - 1) + mag else mag

/-- A zero of the format: no -0 in D8, nor in results of 8 bits or fewer under the OVF code D8 (R32, R36). -/
def zeroCode (f : Fmt) (neg : Bool) (ovf : Nat) : Nat :=
  if f = .d8 ∨ (ovf = 2 ∧ f.width ≤ 8) then 0 else signed f neg 0

/-- An infinity of the format, its NaN where it has none (R36). -/
def infCode (f : Fmt) (neg : Bool) : Nat :=
  if f.hasInf then signed f neg (f.maxCode + 1) else f.nan

/-- A ±∞ input of the table of R36. -/
def narrowInf (f : Fmt) (neg : Bool) (ovf : Nat) : Nres :=
  let sat : Nres := ⟨signed f neg f.maxCode, fOF + fNX, 1, 1, 0⟩
  match ovf with
  | 0 => sat
  | 1 => if f.hasInf then ⟨infCode f neg, 0, 0, 1, 0⟩
         else if f = .e2m1 then sat else ⟨f.nan, fNV, 0, 0, 0⟩
  | _ => if f = .e2m1 then ⟨0, fNV, 0, 1, 0⟩ else if f.width ≤ 8 then ⟨f.nan, fNV, 0, 0, 0⟩ else sat

/-- A finite result beyond the largest finite (R36). -/
def narrowOver (f : Fmt) (rnd : Nat) (neg : Bool) (ovf : Nat) : Nres :=
  let sat : Nres := ⟨signed f neg f.maxCode, fOF + fNX, 1, 0, 0⟩
  if ovf = 1 ∧ f ≠ .e2m1 then
    let toInf := match rnd with | 0 => true | 1 => false | 2 => neg | 3 => !neg | _ => true
    if toInf then ⟨infCode f neg, fOF + fNX, 0, 0, 0⟩
    else ⟨signed f neg f.maxCode, fOF + fNX, 0, 0, 0⟩
  else sat

/-- Tiny after rounding (R71): rounded with the exponent unbounded, below the smallest normal. -/
def tiny (f : Fmt) (rnd : Nat) (neg : Bool) (g num den : Nat) (e : Int) : Bool :=
  let E := ilog2 num den e
  let emin := f.qmin + f.mant
  if E < emin - 1 then true
  else if E = emin - 1 then decide ((roundUnits rnd neg g num den e (E - f.mant)).1 < 2 ^ (f.mant + 1))
  else false

/-- The narrowing of R36 after the rounding of R35, with the flags of R71. `g` is the Spring output under SR. -/
def narrow (f : Fmt) (rnd ovf g : Nat) (x : Ex) : Nres :=
  match x with
  | .nan => if f = .e2m1 then ⟨0, fNV, 0, 1, 0⟩ else ⟨f.nan, 0, 0, 0, 0⟩
  | .inf neg => narrowInf f neg ovf
  | .fin neg num den e =>
    if num = 0 then ⟨zeroCode f neg ovf, 0, 0, 0, 0⟩
    else
      let E := ilog2 num den e
      let q := max (E - f.mant) f.qmin
      let (m, nx) := roundUnits rnd neg g num den e q
      let mag := (q - f.qmin).toNat * 2 ^ f.mant + m
      if f.maxCode < mag then narrowOver f rnd neg ovf
      else
        let uf := nx && tiny f rnd neg g num den e
        let fl := b2n nx * fNX + b2n uf * fUF
        if m = 0 then ⟨zeroCode f neg ovf, fl, 0, 0, 0⟩
        else if ovf = 2 ∧ f.width ≤ 8 ∧ mag < 2 ^ f.mant then ⟨0, fUF + fNX, 0, 0, 1⟩
        else ⟨signed f neg mag, fl, 0, 0, 0⟩

/-- An exact result with the FFLAGS bits of the operation itself (NV, DZ). -/
abbrev ExF := Ex × Nat

/-- Negation. -/
def exNeg : Ex → Ex
  | .nan => .nan
  | .inf n => .inf !n
  | .fin n a b e => .fin (!n) a b e

/-- Absolute value. -/
def exAbs : Ex → Ex
  | .nan => .nan
  | .inf _ => .inf false
  | .fin _ a b e => .fin false a b e

/-- A signed numerator. -/
def sgnI (neg : Bool) (n : Nat) : Int := if neg then -(n : Int) else n

/-- The IEEE 754 sum; an exact zero of unlike signs is +0, -0 under RDN. -/
def exAdd (rnd : Nat) (x y : Ex) : ExF :=
  match x, y with
  | .nan, _ => (.nan, 0)
  | _, .nan => (.nan, 0)
  | .inf a, .inf b => if a = b then (.inf a, 0) else (.nan, fNV)
  | .inf a, .fin .. => (.inf a, 0)
  | .fin .., .inf b => (.inf b, 0)
  | .fin a n1 d1 e1, .fin b n2 d2 e2 =>
    let e := min e1 e2
    let s := sgnI a (n1 * d2 * 2 ^ (e1 - e).toNat) + sgnI b (n2 * d1 * 2 ^ (e2 - e).toNat)
    if s = 0 then
      (.fin (if a = b ∧ n1 = 0 ∧ n2 = 0 then a else rnd == 2) 0 1 0, 0)
    else (.fin (decide (s < 0)) s.natAbs (d1 * d2) e, 0)

/-- The IEEE 754 product. -/
def exMul (x y : Ex) : ExF :=
  match x, y with
  | .nan, _ => (.nan, 0)
  | _, .nan => (.nan, 0)
  | .inf a, .inf b => (.inf (a != b), 0)
  | .inf a, .fin b n _ _ => if n = 0 then (.nan, fNV) else (.inf (a != b), 0)
  | .fin a n _ _, .inf b => if n = 0 then (.nan, fNV) else (.inf (a != b), 0)
  | .fin a n1 d1 e1, .fin b n2 d2 e2 => (.fin (a != b) (n1 * n2) (d1 * d2) (e1 + e2), 0)

/-- The IEEE 754 quotient. -/
def exDiv (x y : Ex) : ExF :=
  match x, y with
  | .nan, _ => (.nan, 0)
  | _, .nan => (.nan, 0)
  | .inf _, .inf _ => (.nan, fNV)
  | .inf a, .fin b .. => (.inf (a != b), 0)
  | .fin a .., .inf b => (.fin (a != b) 0 1 0, 0)
  | .fin a n1 d1 e1, .fin b n2 d2 e2 =>
    if n2 = 0 then (if n1 = 0 then (.nan, fNV) else (.inf (a != b), fDZ))
    else (.fin (a != b) (n1 * d2) (d1 * n2) (e1 - e2), 0)

/-- Integer square root, bit by bit from bit k - 1. -/
def isqrtGo (n : Nat) : Nat → Nat → Nat
  | 0, r => r
  | k + 1, r => isqrtGo n k (if (r + 2 ^ k) * (r + 2 ^ k) ≤ n then r + 2 ^ k else r)

/-- floor(√n). -/
def isqrt (n : Nat) : Nat := isqrtGo n (n.log2 / 2 + 1) 0

/-- The square root of an exact value whose denominator is 1. An irrational root stands as its leading bits and a half
of the next, which rounds as the root does in every mode of R35. -/
def exSqrt (x : Ex) : ExF :=
  match x with
  | .nan => (.nan, 0)
  | .inf a => if a then (.nan, fNV) else (.inf false, 0)
  | .fin a n d e =>
    if n = 0 then (.fin a 0 1 0, 0)
    else if a then (.nan, fNV)
    else
      let odd := e % 2
      let k : Nat := 256
      let big := n * d * 2 ^ odd.toNat * 2 ^ (2 * k)
      let r := isqrt big
      let h := (e - odd) / 2
      if r * r = big then (.fin false r d (h - (k : Int)), 0)
      else (.fin false (2 * r + 1) d (h - (k : Int) - 1), 0)

/-- x × y + z exactly. Infinity times zero plus a quiet NaN is invalid or not as Config.fmaNaNInvalid says (DESIGN CHOICE, log entry 16). -/
def exFma (rnd : Nat) (x y z : Ex) : ExF :=
  let (p, f1) := exMul x y
  match z with
  | .nan => (.nan, if f1 = 0 then 0 else b2n Config.fmaNaNInvalid)
  | _ => let (r, f2) := exAdd rnd p z
         (r, Nat.lor f1 f2)

/-- The order of two values: none for a NaN. -/
def exCmp (x y : Ex) : Option Ordering :=
  match x, y with
  | .nan, _ => none
  | _, .nan => none
  | .inf a, .inf b => some (compare (b2n b) (b2n a))
  | .inf a, .fin .. => some (if a then .lt else .gt)
  | .fin .., .inf b => some (if b then .gt else .lt)
  | .fin a n1 d1 e1, .fin b n2 d2 e2 =>
    let e := min e1 e2
    some (compare (sgnI a (n1 * d2 * 2 ^ (e1 - e).toNat)) (sgnI b (n2 * d1 * 2 ^ (e2 - e).toNat)))

/-- Whether a value is a zero. -/
def exIsZero : Ex → Bool
  | .fin _ n _ _ => n == 0
  | _ => false

/-- Minimum (maximum with `mx`): NaN for a NaN operand, and -0 below +0 (03 R81). -/
def exMin (mx : Bool) (x y : Ex) : Ex :=
  match exCmp x y with
  | none => .nan
  | some .lt => if mx then y else x
  | some .gt => if mx then x else y
  | some .eq =>
    match x with
    | .fin a .. => if a = mx then y else x
    | _ => x

/-- An integer as an exact value. -/
def exOfInt (i : Int) : Ex := .fin (decide (i < 0)) i.natAbs 1 0

/-- A value times 2^k. -/
def exScale (k : Int) : Ex → Ex
  | .fin a n d e => .fin a n d (e + k)
  | x => x

/-- A finite value rounded to an integer, and whether it was inexact. -/
def roundInt (rnd : Nat) (neg : Bool) (g num den : Nat) (e : Int) : Int × Bool :=
  let (m, nx) := roundUnits rnd neg g num den e 0
  (sgnI neg m, nx)

/-- v clamped to lo … hi, and whether it was clamped. -/
def clampI (lo hi v : Int) : Int × Bool :=
  if v < lo then (lo, true) else if hi < v then (hi, true) else (v, false)

/-- The element types of 03 R76 by code: width in bits. -/
def etWidth (et : Nat) : Nat :=
  match et with
  | 0 | 4 | 12 | 13 | 14 => 8
  | 1 | 5 | 10 | 11 => 16
  | 2 | 6 | 9 => 32
  | 3 | 7 | 8 => 64
  | _ => 4

/-- Bytes of an element type. -/
def etBytes (et : Nat) : Nat := etWidth et / 8

/-- The floating format of an element type, none for the integer types. -/
def etFmt (et : Nat) : Option Fmt :=
  match et with
  | 8 => some .f64 | 9 => some .f32 | 10 => some .f16 | 11 => some .bf16
  | 12 => some .e4m3 | 13 => some .e5m2 | 14 => some .d8 | 15 => some .e2m1
  | _ => none

/-- I8 … U64. -/
def etInt (et : Nat) : Bool := et < 8
/-- I8 … I64. -/
def etSigned (et : Nat) : Bool := et < 4
/-- F64, F32, F16, BF16: the types of floating arithmetic (R76). -/
def etArith (et : Nat) : Bool := 8 ≤ et && et ≤ 11
/-- VLMAX of the type (R76). -/
def vlmax (et : Nat) : Nat := min 2048 (8192 / etWidth et)

/-- Least and greatest integer of an integer type. -/
def etRange (et : Nat) : Int × Int :=
  if etSigned et then (-(2 ^ (etWidth et - 1) : Int), 2 ^ (etWidth et - 1) - 1) else (0, 2 ^ etWidth et - 1)

/-- The integer value of a code of an integer type. -/
def etToInt (et c : Nat) : Int := if etSigned et then toI (etWidth et) c else (c % 2 ^ etWidth et : Nat)

/-- The exact value of a code of any element type. -/
def etVal (et c : Nat) : Ex :=
  match etFmt et with
  | some f => decodeF f c
  | none => exOfInt (etToInt et c)

/-- An exact value to an integer type: NaN gives 0, out of range the nearest, NV in each case (R84). -/
def toIntTy (et rnd g : Nat) (x : Ex) : Nres :=
  let (lo, hi) := etRange et
  let w := etWidth et
  match x with
  | .nan => ⟨0, fNV, 0, 1, 0⟩
  | .inf neg => ⟨ofI w (if neg then lo else hi), fNV, 1, 1, 0⟩
  | .fin neg num den e =>
    let (i, nx) := roundInt rnd neg g num den e
    let (v, c) := clampI lo hi i
    if c then ⟨ofI w v, fNV, 1, 0, 0⟩ else ⟨ofI w v, b2n nx * fNX, 0, 0, 0⟩

/-- An exact value to any element type (R36, R84). -/
def toTy (et rnd ovf g : Nat) (x : Ex) : Nres :=
  match etFmt et with
  | some f => narrow f rnd ovf g x
  | none => toIntTy et rnd g x

/-- NV for a signalling NaN operand (R71, DEDUCED, log entry 17). -/
def snanFlag (et c : Nat) : Nat :=
  match etFmt et with
  | some f => b2n (isSNaN f c) * fNV
  | none => 0

/-- The conversion of one element (R84): integer to integer saturates with SAT, the others narrow. -/
def convert (src dst rnd ovf g c : Nat) : Nres :=
  if etInt src ∧ etInt dst then
    let (lo, hi) := etRange dst
    let (v, cl) := clampI lo hi (etToInt src c)
    ⟨ofI (etWidth dst) v, b2n cl * fSAT, b2n cl, 0, 0⟩
  else
    let r := toTy dst rnd ovf g (etVal src c)
    { r with flags := Nat.lor r.flags (snanFlag src c) }

/-- Rotation left of 32 bits. -/
def rotl32 (x r : Nat) : Nat := (x * 2 ^ r) % 2 ^ 32 + (x % 2 ^ 32) / 2 ^ (32 - r)

/-- The rounds of Spring (R59, R60), over the rotation amounts that are left. -/
def springGo (key : List Nat) : List (Nat × Nat) → Nat → Nat → Nat → Nat → Nat → Nat
  | [], _, x0, _, x2, _ => Nat.xor x0 x2
  | (ra, rb) :: l, n, x0, x1, x2, x3 =>
    let y0 := (x0 + key.getD (n % 4) 0 + n) % 2 ^ 32
    let y1 := rotl32 (Nat.xor x1 y0) ra
    let y2 := (x2 + y1) % 2 ^ 32
    let y3 := rotl32 (Nat.xor x3 y2) rb
    springGo key l (n + 1) y1 y2 y3 y0

/-- The rotation amounts of R60. -/
def springRot : List (Nat × Nat) :=
  [(13, 19), (15, 5), (26, 12), (6, 23), (17, 9), (29, 21), (16, 3), (24, 14), (7, 27), (11, 8)]

/-- The Spring generator (R59): seed words k0-k3, stream s, tensor t, index i. -/
def spring (seed : List Nat) (s t i : Nat) : Nat :=
  let k := fun n => seed.getD n 0 % 2 ^ 32
  springGo [k 0, k 1, k 2, Nat.xor (k 3) (s % 2 ^ 32)] springRot 0
    (i % 2 ^ 32) (i / 2 ^ 32 % 2 ^ 32) (t % 2 ^ 32) (t / 2 ^ 32 % 2 ^ 32)

/-- One level of the tree of R57: neighbours added, an odd last one carried up. -/
def pairUp {α : Type} (add : α → α → α) : List α → List α
  | a :: b :: l => add a b :: pairUp add l
  | l => l

/-- The levels of the tree of R57. -/
def treeGo {α : Type} (add : α → α → α) : Nat → List α → List α
  | 0, l => l
  | f + 1, l => treeGo add f (pairUp add l)

/-- The canonical sum of R57 with an addition; none for no term. -/
def treeSum {α : Type} (add : α → α → α) (l : List α) : Option α := (treeGo add l.length l).head?

/-- One addition of R57: rounded to the format with RNE, no OVF code (overflow gives ±∞). -/
def canonAdd (f : Fmt) (a b : Nat) : Nat :=
  (narrow f 0 1 0 (exAdd 0 (decodeF f a) (decodeF f b)).1).code

/-- `canonical_sum` of R57 over codes of the format. -/
def canonicalSum (f : Fmt) (l : List Nat) : Nat := (treeSum (canonAdd f) l).getD 0

/-- The exact sum of values with its NV flag: infinities of both signs give NaN (R55, 04 R112). -/
def exSum (l : List Ex) : ExF :=
  l.foldl (fun acc x => let (r, f) := exAdd 0 acc.1 x; (r, Nat.lor acc.2 f)) (.fin true 0 1 0, 0)

/-- BF16 parts of an F32 value (R44): high and low. -/
def splitBf16 (c : Nat) : Ex × Ex :=
  match decodeF .f32 c with
  | .fin neg n d e =>
    let hi := decodeF .bf16 (narrow .bf16 0 0 0 (.fin neg n d e)).code
    (hi, decodeF .bf16 (narrow .bf16 0 0 0 (exAdd 0 (.fin neg n d e) (exNeg hi)).1).code)
  | x => (x, .fin false 0 1 0)

end Sys2Proof.Machine
end

