-- ==== Sys2Proof/Machine/Ledger.lean ====
section
/-! DEFINITION. Ledger words (02 R47-R50), the packed ledger (R51-R53) and deep accumulators (R54-R56). -/
namespace Sys2Proof.Machine

/-- POISON of a ledger width (R48). -/
def poison (width : Nat) : Int := -(2 ^ (width - 1))
/-- The clip limit of a ledger width (R48). -/
def ledgerLim (width : Nat) : Int := 2 ^ (width - 16) - 1

/-- A ledger word with the watch counts of R48: saturations, non-finite inputs, grid flushes. -/
structure LedgerRes where
  word : Int
  sat : Nat := 0
  nonfin : Nat := 0
  gridflush : Nat := 0
  deriving DecidableEq, Repr

/-- `to_ledger` of R48; `g` is the Spring output under SR. -/
def toLedger (x : Ex) (grid : Int) (width rnd ovf g : Nat) : LedgerRes :=
  match x with
  | .nan => ⟨poison width, 0, 1, 0⟩
  | .inf neg => if ovf = 0 then ⟨sgnI neg (ledgerLim width).toNat, 1, 1, 0⟩ else ⟨poison width, 0, 1, 0⟩
  | .fin neg num den e =>
    let (i, _) := roundInt rnd neg g num den (e - grid)
    let (v, c) := clampI (-(ledgerLim width)) (ledgerLim width) i
    ⟨v, b2n c, 0, b2n (num != 0 && i == 0)⟩

/-- Addition of ledger words: POISON absorbs, the others wrap at the width (R49). -/
def ledgerAdd (width : Nat) (a b : Int) : Int :=
  if a = poison width ∨ b = poison width then poison width else toI width (ofI width (a + b))

/-- The value of a ledger sum for output (R50): POISON is NaN, 0 is +0. -/
def ledgerVal (width : Nat) (grid : Int) (n : Int) : Ex :=
  if n = poison width then .nan else .fin (decide (n < 0)) n.natAbs 1 grid

/-- The automatic grid exponent of R47 from the exact maximum M. -/
def autoGrid (width : Nat) (m : Ex) : Int :=
  match m with
  | .fin _ n d e => if n = 0 then 0 else ilog2 n d e - (if width = 64 then 46 else 110)
  | _ => 0

/-- Width in bits of a width code (R51). -/
def ledgerWidth (width code : Nat) : Nat :=
  if code = 0 then 0 else if code = 63 then width else if width = 64 then code else 2 * code + 2

/-- Whether every word fits w bits (R52). -/
def fitsW (w : Nat) (l : List Int) : Bool :=
  l.all (fun v => if w = 0 then v == 0 else decide (-(2 ^ (w - 1) : Int) ≤ v ∧ v ≤ 2 ^ (w - 1) - 1))

/-- The least width code that holds the words (R52). -/
def widthCode (width : Nat) (l : List Int) : Nat :=
  ((upto 63).find? (fun c => fitsW (ledgerWidth width c) l)).getD 63

/-- A packed block of 32 words, padded with zero words (R51-R53). -/
def packBlock (width : Nat) (l : List Int) : List Byte :=
  let l := (l ++ List.replicate 32 0).take 32
  let c := widthCode width l
  let w := ledgerWidth width c
  BitVec.ofNat 8 c :: bytesOf (4 * w) (packW w (l.map (ofI w)))

/-- A packed block read from the front of bytes: its words and the bytes after it; none if malformed (R52). -/
def unpackBlock (width : Nat) : List Byte → Option (List Int × List Byte)
  | [] => none
  | h :: rest =>
    let c := h.toNat % 64
    let w := ledgerWidth width c
    if 64 ≤ h.toNat ∨ rest.length < 4 * w then none
    else
      let ws := if w = 0 then List.replicate 32 (0 : Int)
        else (unpackW w 32 (ofBytes (rest.take (4 * w)))).map (toI w)
      if widthCode width ws = c then some (ws, rest.drop (4 * w)) else none

/-- A deep accumulator (R54): its integer and the sticky flags. -/
structure Deep where
  acc : Int := 0
  pinf : Bool := false
  ninf : Bool := false
  nan : Bool := false
  deriving DecidableEq, Repr

/-- Scale of the accumulator: A × 2^-149, or 2^-1074 for F64 (R54). -/
def deepScale (f64 : Bool) : Int := if f64 then -1074 else -149

/-- An exact value added to a deep accumulator (R55). -/
def Deep.add (f64 : Bool) (d : Deep) (x : Ex) : Deep :=
  match x with
  | .nan => { d with nan := true }
  | .inf neg => if neg then { d with ninf := true } else { d with pinf := true }
  | .fin neg n _ e => { d with acc := d.acc + sgnI neg (n * 2 ^ (e - deepScale f64).toNat) }

/-- The sum of two partial deep accumulators. -/
def Deep.join (a b : Deep) : Deep := ⟨a.acc + b.acc, a.pinf || b.pinf, a.ninf || b.ninf, a.nan || b.nan⟩

/-- The value of a deep accumulator (R55). -/
def Deep.val (f64 : Bool) (d : Deep) : Ex :=
  if d.nan || (d.pinf && d.ninf) then .nan
  else if d.pinf then .inf false
  else if d.ninf then .inf true
  else .fin (decide (d.acc < 0)) d.acc.natAbs 1 (deepScale f64)

end Sys2Proof.Machine
end

