-- ==== Sys2Proof/Machine/Operands.lean ====
section
/-! DEFINITION. The fields of an instruction word (03 R73, 04 R104, R111) and which words are ILLEGAL by their encoding
alone (03 R74, R76, R83, R87-R89, 04 R106, R119, R125, 06 R170, R186, 07 R220). -/
namespace Sys2Proof.Machine

/-- Bits hi:lo of a word. -/
def wf (w : W64) (hi lo : Nat) : Nat := bits w.toNat hi lo

/-! Formats S, I, B, L and E. -/
def oOP (w : W64) : Nat := wf w 63 56
def oSD (w : W64) : Nat := wf w 55 50
def oSA (w : W64) : Nat := wf w 49 44
def oSB (w : W64) : Nat := wf w 43 38
def oSC (w : W64) : Nat := wf w 37 32
def oFN (w : W64) : Nat := wf w 31 26
def oRnd (w : W64) : Nat := wf w 37 35
def oOvf (w : W64) : Nat := wf w 34 33
/-- IMM32 or OFF32, sign-extended. -/
def oImm (w : W64) : Int := toI 32 (wf w 31 0)
def oImm16 (w : W64) : Nat := wf w 31 16
/-- SA and SB of format B. -/
def bSA (w : W64) : Nat := wf w 55 50
def bSB (w : W64) : Nat := wf w 49 44

/-! Format V. -/
def vVD (w : W64) : Nat := wf w 55 51
def vVA (w : W64) : Nat := wf w 50 46
def vVB (w : W64) : Nat := wf w 45 41
def vVC (w : W64) : Nat := wf w 40 36
def vET (w : W64) : Nat := wf w 35 32
def vPG (w : W64) : Nat := wf w 31 29
def vZM (w : W64) : Bool := bit w.toNat 28
def vRnd (w : W64) : Nat := wf w 27 25
def vOvf (w : W64) : Nat := wf w 24 23
def vSC (w : W64) : Bool := bit w.toNat 22
def vSS (w : W64) : Nat := wf w 21 16
def vET2 (w : W64) : Nat := wf w 15 12
def vImm (w : W64) : Nat := wf w 11 0

/-! Format M: VD and OFF32 stand where V and L have them. -/
def mSA (w : W64) : Nat := wf w 50 45
def mPG (w : W64) : Nat := wf w 44 42
def mZM (w : W64) : Bool := bit w.toNat 41
def mET (w : W64) : Nat := wf w 40 37

/-! Format X (04 R104). -/
def xACD (w : W64) : Nat := wf w 55 54
def xSA (w : W64) : Nat := wf w 53 48
def xSB (w : W64) : Nat := wf w 47 42
def xSM (w : W64) : Nat := wf w 41 36
def xETA (w : W64) : Nat := wf w 35 32
def xETB (w : W64) : Nat := wf w 31 28
def xPASS (w : W64) : Nat := wf w 27 26
def xRnd (w : W64) : Nat := wf w 25 23
def xOvf (w : W64) : Nat := wf w 22 21
def xSC (w : W64) : Bool := bit w.toNat 20
def xSS (w : W64) : Nat := wf w 19 14
/-- The vector register and the row of MROW (04 R111). -/
def xVR (w : W64) : Nat := wf w 53 49
def xRow (w : W64) : Nat := wf w 13 7

/-! Codes. -/

/-- Unreserved codes of RND and OVF (02 R35, R36). -/
def rndOk (r : Nat) : Bool := r ≤ 4
def ovfOk (o : Nat) : Bool := o ≤ 2

/-- The 8-bit floating types and the short types of 03 R76. -/
def etF8 (et : Nat) : Bool := 12 ≤ et && et ≤ 14
def etShort (et : Nat) : Bool := 12 ≤ et && et ≤ 15
/-- Integer or float types of R83. -/
def etNum (et : Nat) : Bool := et ≤ 11
/-- Every type but E2M1. -/
def etMove (et : Nat) : Bool := et ≤ 14
/-- Tangent types (04 R119). -/
def etTangent (et : Nat) : Bool := et == 8 || et == 9 || et == 11

def legalS (w : W64) : Bool :=
  wf w 32 32 == 0 && wf w 25 0 == 0 && rndOk (oRnd w) && ovfOk (oOvf w) &&
  (match oOP w with
   | 0 => oFN w ≤ 0x10
   | 1 => oFN w ≤ 0x0A
   | 2 => oFN w ≤ 0x0A
   | 3 => oFN w ≤ 0x05
   | _ => false)

def legalI (w : W64) : Bool := wf w 43 32 == 0 && (oOP w ≤ 0x19 || (0x40 ≤ oOP w && oOP w ≤ 0x49))
def legalB (w : W64) : Bool := wf w 43 32 == 0 && oOP w ≤ 0x27
def legalL (w : W64) : Bool :=
  wf w 43 32 == 0 && (oOP w ≤ 0x36 || (0x38 ≤ oOP w && oOP w ≤ 0x3B))

/-- RND and OVF of format V. -/
def vRndOk (w : W64) : Bool := rndOk (vRnd w) && ovfOk (vOvf w)

def legalV5 (w : W64) : Bool :=
  vRndOk w &&
  (let op := oOP w
   let et := vET w
   if op ≤ 0x56 then etNum et
   else if op ≤ 0x59 then etArith et
   else if op ≤ 0x5E then etInt et
   else etMove et)

def legalM (w : W64) : Bool := wf w 36 32 == 0 && oOP w ≤ 0x64

/-- VSCALE.Q and VSCALE.DQ (03 R83, R87). -/
def legalScale (q : Bool) (w : W64) : Bool :=
  vPG w == 0 &&
  (if q then etShort (vET w) && (9 ≤ vET2 w && vET2 w ≤ 11) else etShort (vET2 w) && etArith (vET w))

def legalV7 (w : W64) : Bool :=
  vRndOk w &&
  (let op := oOP w
   let et := vET w
   if op ≤ 0x72 then etMove et
   else if op = 0x73 then etMove et && etMove (vET2 w)
   else if op = 0x74 then legalScale true w
   else if op = 0x75 then legalScale false w
   else if op ≤ 0x78 then etNum et
   else if op ≤ 0x7A then etMove et
   else if op ≤ 0x7C then etInt et
   else if op = 0x7D then etSigned et
   else if op = 0x7E then etInt et
   else etInt et && etInt (vET2 w) && etWidth (vET2 w) == 2 * etWidth et && vVA w % 2 == 0 &&
     (etSigned (vET2 w) || !etSigned et))

def legalV8 (w : W64) : Bool :=
  vRndOk w &&
  (let op := oOP w
   if op ≤ 0x83 then vVD w ≤ 7 && etNum (vET w)
   else if op ≤ 0x87 then vVD w ≤ 7 && vVA w ≤ 7 && vVB w ≤ 7 && etNum (vET w)
   else if op = 0x88 then vVD w ≤ 7 && etNum (vET w)
   else op ≤ 0x8A && etNum (vET w))

/-- The pairs of 04 R102 with PASS and SC (R106). -/
def mmaPair (w : W64) : Bool :=
  ((etF8 (xETA w) && etF8 (xETB w)) ||
   (xETA w == xETB w && (xETA w == 8 || xETA w == 9 || xETA w == 10 || xETA w == 11))) &&
  xPASS w ≤ 2 && (xPASS w == 0 || xETA w == 9) && (!xSC w || (etF8 (xETA w) && xSS w ≤ 62))

def legalX (w : W64) : Bool :=
  let op := oOP w
  if op = 0x97 ∨ op = 0x98 then wf w 48 14 == 0 && wf w 6 0 == 0
  else
    wf w 13 0 == 0 && rndOk (xRnd w) && ovfOk (xOvf w) &&
    (if op ≤ 0x93 then mmaPair w
     else if op ≤ 0x95 then xETA w == 8 || xETA w == 9
     else op = 0x96 && 8 ≤ xETA w && xETA w ≤ 14 && xRnd w != 4)

/-- The pair registers of a tangent instruction are even (04 R119). -/
def evenRegs (w : W64) : Bool := vVD w % 2 == 0 && vVA w % 2 == 0 && vVB w % 2 == 0 && vVC w % 2 == 0

def legalA (w : W64) : Bool :=
  vRndOk w &&
  (let op := oOP w
   if op ≤ 0xA5 then evenRegs w && etArith (vET w) && etTangent (vET2 w)
   else if op = 0xA6 then evenRegs w && etArith (vET w) && etMove (vET2 w) && etTangent (vImm w / 256)
   else if op = 0xA7 then
     evenRegs w && legalScale true w && etTangent (vImm w / 256) && vImm w % 2 == 0
   else if op = 0xA8 then evenRegs w && legalScale false w && etTangent (vImm w / 256)
   else if op ≤ 0xAA then vPG w == 0
   else if op = 0xAC ∨ op = 0xAD ∨ op = 0xAE then etArith (vET w)
   else true)

def legalE (w : W64) : Bool :=
  wf w 15 0 == 0 &&
  (let op := oOP w
   if op ≤ 0xB4 then oSC w == 0 && oImm16 w == 0
   else if op ≤ 0xB6 then oImm16 w ≤ 1
   else 0xB8 ≤ op && oSC w == 0 && oImm16 w == 0)

/-- Whether a word is not ILLEGAL by its encoding (03 R74). -/
def legalWord (w : W64) : Bool :=
  match wf w 63 60 with
  | 0 => legalS w
  | 1 => legalI w
  | 2 => legalB w
  | 3 => legalL w
  | 4 => legalI w
  | 5 => legalV5 w
  | 6 => legalM w
  | 7 => legalV7 w
  | 8 => legalV8 w
  | 9 => legalX w
  | 10 => legalA w
  | 11 => legalE w
  | _ => false

/-- Opcode of a word other than class 0x0. -/
def opIs (op : Nat) (w : W64) : Bool := oOP w == op

/-- Opcode and function of class 0x0. -/
def fnIs (op fn : Nat) (w : W64) : Bool := oOP w == op && oFN w == fn

end Sys2Proof.Machine
end

