-- ==== Sys2Proof/Machine/RegMap.lean ====
section
/-! DEFINITION. The register map (00 R4-R8, 01 R25 and the register tables of each section): every register with its
offset, width, reset value, owner and fields; `D.NAME` describes a register, `R.NAME i j` is an instance of it and
`F.NAME_FIELD i j` a field of that. -/
namespace Sys2Proof.Machine

/-- Access types of 00 R4. -/
inductive AccType where
  | ro | rw | rw1c | wo | rwp | rwx
  deriving DecidableEq, Repr

/-- Which VI owns an instance of a register (01 R16): none, the VI of the first index, of the tile, of the descriptor
queue, of the group context, of Divide owner v, or of Mere owner 8 v + c. -/
inductive RegOwner where
  | none | vi | tile | dmaQ | grp | divOwn | mereOwn
  deriving DecidableEq, Repr

/-- A register or an array of registers: offset of instance 0 and the (count, stride) of each index. `shift` moves its
place in the model's store where two registers share an offset (DESIGN CHOICE, log entry 6). -/
structure RegDesc where
  base : Nat
  dims : List (Nat × Nat)
  width : Nat
  owner : RegOwner
  rst : List Nat → W64
  shift : Nat := 0
  fields : List (Nat × Nat × AccType)

/-- An instance of a register: where the model keeps it, and its reset value. -/
structure RegRef where
  off : Nat
  rst : W64
  deriving DecidableEq, Repr

/-- Bits hi:lo of a register. -/
structure FieldRef where
  r : RegRef
  hi : Nat
  lo : Nat
  deriving DecidableEq, Repr

/-- Sum of index times stride. -/
def dotDims : List Nat → List (Nat × Nat) → Nat
  | i :: l, (_, st) :: m => i * st + dotDims l m
  | _, _ => 0

/-- The instance of a register at the given indices. -/
def regRef (d : RegDesc) (ix : List Nat) : RegRef := ⟨d.base + dotDims ix d.dims + d.shift, d.rst ix⟩

/-- The first index. -/
def ix0 (l : List Nat) : Nat := l.headD 0

/-- GLOBAL_TILE_MAP at reset (01 R28). -/
def tileMapReset (l : List Nat) : W64 := BitVec.ofNat 64 (if ix0 l < 72 then ix0 l else ix0 l + 4)
/-- PORT_LANE_MAP at reset (10 R317). -/
def laneMapReset (l : List Nat) : W64 := BitVec.ofNat 64 (0x03020100 + ix0 l % 8 * 0x04040404)
/-- CLKPWR_VF at reset (16 R462), in mV. -/
def vfReset (l : List Nat) : W64 :=
  BitVec.ofNat 64 ([620, 630, 645, 660, 675, 690, 710, 730, 750, 775, 800].getD (ix0 l) 0)
/-- EDGE_METRO_OWN (11 R349): the fused MAC (DESIGN CHOICE, log entry 9). -/
def metroOwnReset (l : List Nat) : W64 := (Config.ownMac (ix0 l)).setWidth 64

/-- GLOBAL_DEV_ID (R28). -/
def D.GLOBAL_DEV_ID : RegDesc :=
  { base := 0x0, dims := [], width := 32, owner := .none, rst := fun _ => 0x71000000#64,
    fields := [(31, 16, .ro), (15, 8, .ro)] }
/-- GLOBAL_TILE_COUNT (R28). -/
def D.GLOBAL_TILE_COUNT : RegDesc :=
  { base := 0x4, dims := [], width := 32, owner := .none, rst := fun _ => 0x980890#64,
    fields := [(31, 24, .ro), (23, 16, .ro), (15, 8, .ro), (7, 0, .ro)] }
/-- GLOBAL_TILE_MAP (R28). -/
def D.GLOBAL_TILE_MAP : RegDesc :=
  { base := 0x100, dims := [(144, 0x1)], width := 8, owner := .none, rst := tileMapReset,
    fields := [(7, 0, .ro)] }
/-- GLOBAL_TOPO_ACT (R348). -/
def D.GLOBAL_TOPO_ACT : RegDesc :=
  { base := 0x2000, dims := [], width := 64, owner := .none, rst := fun _ => 0x7fff00000000#64,
    fields := [(46, 32, .ro), (19, 17, .ro), (16, 16, .ro), (15, 0, .ro)] }
/-- GLOBAL_TOPO_CAND (R348). -/
def D.GLOBAL_TOPO_CAND : RegDesc :=
  { base := 0x2008, dims := [], width := 64, owner := .none, rst := fun _ => 0x0#64,
    fields := [(38, 12, .rw)] }
/-- GLOBAL_TOPO_TACT (R348). -/
def D.GLOBAL_TOPO_TACT : RegDesc :=
  { base := 0x2010, dims := [], width := 64, owner := .none, rst := fun _ => 0x0#64,
    fields := [(63, 0, .rw)] }
/-- GLOBAL_TOPO_CMD (R348). -/
def D.GLOBAL_TOPO_CMD : RegDesc :=
  { base := 0x2018, dims := [], width := 32, owner := .none, rst := fun _ => 0x0#64,
    fields := [(3, 0, .wo)] }
/-- GLOBAL_TOPO_SWEEP (R348). -/
def D.GLOBAL_TOPO_SWEEP : RegDesc :=
  { base := 0x2020, dims := [], width := 32, owner := .none, rst := fun _ => 0x0#64,
    fields := [(31, 16, .ro), (3, 3, .ro), (2, 0, .ro)] }
/-- MGMT_BOOT_STAT (R454). -/
def D.MGMT_BOOT_STAT : RegDesc :=
  { base := 0x100000, dims := [], width := 32, owner := .none, rst := fun _ => 0x0#64,
    fields := [(23, 16, .ro), (8, 8, .ro), (3, 0, .ro)] }
/-- MGMT_RST (R454). -/
def D.MGMT_RST : RegDesc :=
  { base := 0x100008, dims := [], width := 32, owner := .none, rst := fun _ => 0x0#64,
    fields := [(3, 0, .wo)] }
/-- MGMT_PROF_CTL (R454). -/
def D.MGMT_PROF_CTL : RegDesc :=
  { base := 0x100010, dims := [], width := 32, owner := .none, rst := fun _ => 0x0#64,
    fields := [(5, 4, .wo), (3, 0, .wo)] }
/-- MGMT_PROF_STAT (R454). -/
def D.MGMT_PROF_STAT : RegDesc :=
  { base := 0x100014, dims := [], width := 32, owner := .none, rst := fun _ => 0x0#64,
    fields := [(31, 16, .ro), (15, 8, .ro), (3, 3, .ro), (2, 2, .ro), (1, 0, .ro)] }
/-- MGMT_EXPERT (R454). -/
def D.MGMT_EXPERT : RegDesc :=
  { base := 0x100020, dims := [], width := 32, owner := .none, rst := fun _ => 0x0#64,
    fields := [(31, 31, .rw), (30, 30, .rwp), (15, 0, .rw)] }
/-- MGMT_SPI_STAT (R454). -/
def D.MGMT_SPI_STAT : RegDesc :=
  { base := 0x100040, dims := [], width := 32, owner := .none, rst := fun _ => 0x0#64,
    fields := [(31, 24, .ro), (23, 16, .ro), (15, 0, .ro)] }
/-- MGMT_VI_CTL_v (R454). -/
def D.MGMT_VI_CTL : RegDesc :=
  { base := 0x100100, dims := [(16, 0x40)], width := 32, owner := .vi, rst := fun _ => 0x0#64,
    fields := [(23, 16, .ro), (9, 9, .ro), (8, 8, .ro), (3, 0, .wo)] }
/-- MGMT_VI_CFG_v (R454). -/
def D.MGMT_VI_CFG : RegDesc :=
  { base := 0x100108, dims := [(16, 0x40)], width := 64, owner := .vi, rst := fun _ => 0x0#64,
    fields := [(30, 18, .rwp), (17, 0, .rwp)] }
/-- MGMT_VI_MANIFEST_v (R454). -/
def D.MGMT_VI_MANIFEST : RegDesc :=
  { base := 0x100110, dims := [(16, 0x40)], width := 64, owner := .vi, rst := fun _ => 0x0#64,
    fields := [(38, 12, .rw)] }
/-- MGMT_VI_TILES_v_j (R454). -/
def D.MGMT_VI_TILES : RegDesc :=
  { base := 0x100118, dims := [(16, 0x40), (3, 0x8)], width := 64, owner := .vi, rst := fun _ => 0x0#64,
    fields := [(63, 0, .rwp)] }
/-- CLKPWR_PCAP (R455). -/
def D.CLKPWR_PCAP : RegDesc :=
  { base := 0x200000, dims := [], width := 32, owner := .none, rst := fun _ => 0x76c#64,
    fields := [(15, 0, .rw)] }
/-- CLKPWR_PWR (R455). -/
def D.CLKPWR_PWR : RegDesc :=
  { base := 0x200008, dims := [], width := 32, owner := .none, rst := fun _ => 0x6a40000#64,
    fields := [(31, 16, .ro), (15, 0, .ro)] }
/-- CLKPWR_TCLK_v (R455). -/
def D.CLKPWR_TCLK : RegDesc :=
  { base := 0x200100, dims := [(16, 0x4)], width := 32, owner := .vi, rst := fun _ => 0x6a4#64,
    fields := [(15, 0, .rwp)] }
/-- CLKPWR_THERM (R455). -/
def D.CLKPWR_THERM : RegDesc :=
  { base := 0x200200, dims := [], width := 64, owner := .none, rst := fun _ => 0x73695f#64,
    fields := [(63, 56, .ro), (50, 50, .rw1c), (49, 49, .rw1c), (48, 48, .ro), (23, 16, .rwp), (15, 8, .rwp), (7, 0, .rwp)] }
/-- CLKPWR_REF (R457). -/
def D.CLKPWR_REF : RegDesc :=
  { base := 0x200300, dims := [], width := 32, owner := .none, rst := fun _ => 0x6408#64,
    fields := [(15, 8, .rwp), (4, 4, .ro), (3, 3, .rwp), (2, 2, .ro), (1, 1, .ro), (0, 0, .rwp)] }
/-- CLKPWR_VF_k (R462). -/
def D.CLKPWR_VF : RegDesc :=
  { base := 0x200400, dims := [(11, 0x4)], width := 32, owner := .none, rst := vfReset,
    fields := [(9, 0, .rwp)] }
/-- CLKPWR_RAIL_STAT (R465). -/
def D.CLKPWR_RAIL_STAT : RegDesc :=
  { base := 0x200500, dims := [], width := 32, owner := .none, rst := fun _ => 0x0#64,
    fields := [(23, 16, .ro), (11, 11, .rw1c), (10, 10, .rw1c), (8, 0, .rw1c)] }
/-- CLKPWR_GPIO (R468). -/
def D.CLKPWR_GPIO : RegDesc :=
  { base := 0x200600, dims := [], width := 32, owner := .none, rst := fun _ => 0x0#64,
    fields := [(15, 8, .rw), (7, 0, .rw)] }
/-- TELEM_TIME (R428). -/
def D.TELEM_TIME : RegDesc :=
  { base := 0x400000, dims := [], width := 64, owner := .none, rst := fun _ => 0x0#64,
    fields := [(63, 0, .ro)] }
/-- TELEM_TIME_CTL (R428). -/
def D.TELEM_TIME_CTL : RegDesc :=
  { base := 0x400008, dims := [], width := 32, owner := .none, rst := fun _ => 0x0#64,
    fields := [(31, 31, .ro), (30, 30, .ro), (29, 28, .rwp), (27, 27, .rwp), (1, 1, .rw1c), (0, 0, .rw1c)] }
/-- TELEM_TIME_SET (R428). -/
def D.TELEM_TIME_SET : RegDesc :=
  { base := 0x400010, dims := [], width := 64, owner := .none, rst := fun _ => 0x0#64,
    fields := [(63, 0, .wo)] }
/-- TELEM_TIME_OFS (R428). -/
def D.TELEM_TIME_OFS : RegDesc :=
  { base := 0x400018, dims := [], width := 32, owner := .none, rst := fun _ => 0x0#64,
    fields := [(31, 0, .ro)] }
/-- TELEM_SNAP_CTL (R428). -/
def D.TELEM_SNAP_CTL : RegDesc :=
  { base := 0x400100, dims := [], width := 32, owner := .none, rst := fun _ => 0x0#64,
    fields := [(31, 31, .rw), (16, 16, .wo), (4, 0, .rw)] }
/-- TELEM_SNAP_AT (R428). -/
def D.TELEM_SNAP_AT : RegDesc :=
  { base := 0x400108, dims := [], width := 64, owner := .none, rst := fun _ => 0x0#64,
    fields := [(63, 0, .rw)] }
/-- TELEM_SNAP_STAT (R428). -/
def D.TELEM_SNAP_STAT : RegDesc :=
  { base := 0x400110, dims := [], width := 64, owner := .none, rst := fun _ => 0x0#64,
    fields := [(63, 32, .ro), (31, 20, .ro), (19, 8, .ro), (2, 2, .rw1c), (1, 1, .ro), (0, 0, .ro)] }
/-- TELEM_SNAP_RBASE (R428). -/
def D.TELEM_SNAP_RBASE : RegDesc :=
  { base := 0x400118, dims := [], width := 64, owner := .none, rst := fun _ => 0x0#64,
    fields := [(38, 12, .rwp), (3, 0, .rwp)] }
/-- TELEM_SNAP_RHEAD (R428). -/
def D.TELEM_SNAP_RHEAD : RegDesc :=
  { base := 0x400120, dims := [], width := 32, owner := .none, rst := fun _ => 0x0#64,
    fields := [(31, 0, .ro)] }
/-- TELEM_SNAP_RTAIL (R428). -/
def D.TELEM_SNAP_RTAIL : RegDesc :=
  { base := 0x400124, dims := [], width := 32, owner := .none, rst := fun _ => 0x0#64,
    fields := [(31, 0, .rw)] }
/-- TELEM_CTR_CFG_i (R428). -/
def D.TELEM_CTR_CFG : RegDesc :=
  { base := 0x401000, dims := [(256, 0x10)], width := 64, owner := .none, rst := fun _ => 0xfff0000000#64,
    fields := [(63, 40, .rw), (39, 28, .rw), (27, 24, .rw), (23, 23, .rw), (22, 22, .rw), (21, 21, .rw), (20, 20, .rw), (15, 8, .rw), (7, 0, .rw)] }
/-- TELEM_CTR_i (R428). -/
def D.TELEM_CTR : RegDesc :=
  { base := 0x401008, dims := [(256, 0x10)], width := 64, owner := .none, rst := fun _ => 0x0#64,
    fields := [(48, 48, .rw1c), (47, 0, .rw)] }
/-- TELEM_PHASE_t (R428). -/
def D.TELEM_PHASE : RegDesc :=
  { base := 0x402000, dims := [(152, 0x10)], width := 64, owner := .none, rst := fun _ => 0x0#64,
    fields := [(63, 48, .ro), (47, 0, .ro)] }
/-- TELEM_VI_REC_CTL (R428). -/
def D.TELEM_VI_REC_CTL : RegDesc :=
  { base := 0x403000, dims := [(16, 0x40)], width := 32, owner := .vi, rst := fun _ => 0x0#64,
    fields := [(31, 30, .rwp), (29, 29, .rw), (28, 28, .rw), (27, 27, .rw), (26, 26, .rwx), (2, 2, .rw1c), (1, 1, .rw1c), (0, 0, .ro)] }
/-- TELEM_VI_REC_BASE (R428). -/
def D.TELEM_VI_REC_BASE : RegDesc :=
  { base := 0x403008, dims := [(16, 0x40)], width := 64, owner := .vi, rst := fun _ => 0x0#64,
    fields := [(38, 12, .rwp), (3, 0, .rwp)] }
/-- TELEM_VI_REC_HEAD (R428). -/
def D.TELEM_VI_REC_HEAD : RegDesc :=
  { base := 0x403010, dims := [(16, 0x40)], width := 32, owner := .vi, rst := fun _ => 0x0#64,
    fields := [(31, 0, .ro)] }
/-- TELEM_VI_REC_TAIL (R428). -/
def D.TELEM_VI_REC_TAIL : RegDesc :=
  { base := 0x403014, dims := [(16, 0x40)], width := 32, owner := .vi, rst := fun _ => 0x0#64,
    fields := [(31, 0, .rw)] }
/-- FAULT_DEV_STAT (R409). -/
def D.FAULT_DEV_STAT : RegDesc :=
  { base := 0x800000, dims := [], width := 32, owner := .none, rst := fun _ => 0x0#64,
    fields := [(23, 16, .ro), (3, 3, .rw1c), (2, 2, .rw1c), (1, 1, .ro)] }
/-- FAULT_DEV_NOTE (R409). -/
def D.FAULT_DEV_NOTE : RegDesc :=
  { base := 0x800008, dims := [], width := 32, owner := .none, rst := fun _ => 0x0#64,
    fields := [(31, 31, .rw), (10, 0, .rw)] }
/-- FAULT_EQ_BASE (R409). -/
def D.FAULT_EQ_BASE : RegDesc :=
  { base := 0x800010, dims := [], width := 64, owner := .none, rst := fun _ => 0x0#64,
    fields := [(38, 12, .rwp), (3, 0, .rwp)] }
/-- FAULT_EQ_HEAD (R409). -/
def D.FAULT_EQ_HEAD : RegDesc :=
  { base := 0x800018, dims := [], width := 32, owner := .none, rst := fun _ => 0x0#64,
    fields := [(20, 0, .ro)] }
/-- FAULT_EQ_TAIL (R409). -/
def D.FAULT_EQ_TAIL : RegDesc :=
  { base := 0x80001c, dims := [], width := 32, owner := .none, rst := fun _ => 0x0#64,
    fields := [(20, 0, .rw)] }
/-- FAULT_EQ_DROP (R409). -/
def D.FAULT_EQ_DROP : RegDesc :=
  { base := 0x800020, dims := [], width := 32, owner := .none, rst := fun _ => 0x0#64,
    fields := [(31, 0, .ro)] }
/-- FAULT_VI_CTL_v (R409). -/
def D.FAULT_VI_CTL : RegDesc :=
  { base := 0x800100, dims := [(16, 0x10)], width := 64, owner := .vi, rst := fun _ => 0x0#64,
    fields := [(63, 48, .ro), (47, 32, .ro), (31, 24, .ro), (23, 16, .ro), (9, 8, .ro), (3, 0, .wo)] }
/-- FAULT_HEALTH_CFG (R409). -/
def D.FAULT_HEALTH_CFG : RegDesc :=
  { base := 0x800200, dims := [], width := 32, owner := .none, rst := fun _ => 0x6#64,
    fields := [(3, 0, .rw)] }
/-- FAULT_TILE_MIG (R409). -/
def D.FAULT_TILE_MIG : RegDesc :=
  { base := 0x800300, dims := [], width := 32, owner := .none, rst := fun _ => 0x0#64,
    fields := [(18, 16, .ro), (15, 8, .rw), (3, 0, .wo)] }
/-- TALUS_CFG_d (R409). -/
def D.TALUS_CFG : RegDesc :=
  { base := 0x800400, dims := [(2, 0x10)], width := 64, owner := .none, rst := fun _ => 0xc0000000000000#64,
    fields := [(63, 40, .rwp), (38, 12, .rwp)] }
/-- TALUS_STAT_d (R409). -/
def D.TALUS_STAT : RegDesc :=
  { base := 0x800408, dims := [(2, 0x10)], width := 64, owner := .none, rst := fun _ => 0x0#64,
    fields := [(63, 32, .ro), (31, 0, .ro)] }
/-- FAULT_HEALTH_n (R409). -/
def D.FAULT_HEALTH : RegDesc :=
  { base := 0x810000, dims := [(921, 0x4)], width := 32, owner := .none, rst := fun _ => 0x20000#64,
    fields := [(17, 17, .ro), (16, 16, .rw1c), (9, 0, .ro)] }
/-- HOST_LINK_d (R372). -/
def D.HOST_LINK : RegDesc :=
  { base := 0x1000000, dims := [(2, 0x8)], width := 64, owner := .none, rst := fun _ => 0x0#64,
    fields := [(63, 32, .ro), (31, 31, .ro), (30, 30, .ro), (29, 29, .ro), (28, 28, .ro), (16, 16, .rwp), (15, 0, .ro)] }
/-- HOST_VI_CFG_v (R372). -/
def D.HOST_VI_CFG : RegDesc :=
  { base := 0x1000100, dims := [(16, 0x8)], width := 64, owner := .vi, rst := fun _ => 0x0#64,
    fields := [(50, 50, .rwp), (49, 41, .rwp), (40, 34, .rwp), (33, 23, .rwp), (22, 11, .rwp)] }
/-- HOST_AP_n (R372). -/
def D.HOST_AP : RegDesc :=
  { base := 0x1000200, dims := [(16, 0x10)], width := 64, owner := .none, rst := fun _ => 0x0#64,
    fields := [(63, 63, .rw), (62, 59, .rw), (58, 41, .rw), (40, 23, .rw), (22, 5, .rw)] }
/-- HOST_CXLMEM_s (R372). -/
def D.HOST_CXLMEM : RegDesc :=
  { base := 0x1000300, dims := [(8, 0x8)], width := 32, owner := .none, rst := fun _ => 0x0#64,
    fields := [(15, 8, .rwp), (7, 0, .rwp)] }
/-- HOST_Q_SQ (R372). -/
def D.HOST_Q_SQ : RegDesc :=
  { base := 0x1010000, dims := [(512, 0x40)], width := 64, owner := .none, rst := fun _ => 0x0#64,
    fields := [(63, 12, .rw), (3, 0, .rw)] }
/-- HOST_Q_CQ (R372). -/
def D.HOST_Q_CQ : RegDesc :=
  { base := 0x1010008, dims := [(512, 0x40)], width := 64, owner := .none, rst := fun _ => 0x0#64,
    fields := [(63, 12, .rw), (3, 0, .rw)] }
/-- HOST_Q_CFG (R372). -/
def D.HOST_Q_CFG : RegDesc :=
  { base := 0x1010010, dims := [(512, 0x40)], width := 32, owner := .none, rst := fun _ => 0x1000#64,
    fields := [(31, 31, .rw), (30, 29, .rw), (28, 28, .rw), (27, 27, .rw), (26, 16, .rw), (15, 12, .rw)] }
/-- HOST_Q_STAT (R372). -/
def D.HOST_Q_STAT : RegDesc :=
  { base := 0x1010018, dims := [(512, 0x40)], width := 64, owner := .none, rst := fun _ => 0x0#64,
    fields := [(63, 48, .ro), (47, 44, .ro), (43, 43, .ro), (37, 19, .ro), (18, 0, .ro)] }
/-- HOST_SL_ADDR (R372). -/
def D.HOST_SL_ADDR : RegDesc :=
  { base := 0x1020000, dims := [(256, 0x10)], width := 64, owner := .none, rst := fun _ => 0x0#64,
    fields := [(63, 6, .rw)] }
/-- HOST_SL_BIND (R372). -/
def D.HOST_SL_BIND : RegDesc :=
  { base := 0x1020008, dims := [(256, 0x10)], width := 64, owner := .none, rst := fun _ => 0x0#64,
    fields := [(63, 63, .rw), (62, 59, .rw), (58, 44, .rw)] }
/-- MMU_VI_S1ROOT (R163). -/
def D.MMU_VI_S1ROOT : RegDesc :=
  { base := 0x1400000, dims := [(16, 0x1000)], width := 64, owner := .vi, rst := fun _ => 0x0#64,
    fields := [(38, 12, .rw), (0, 0, .rw)] }
/-- MMU_VI_FQ_BASE (R163). -/
def D.MMU_VI_FQ_BASE : RegDesc :=
  { base := 0x1400008, dims := [(16, 0x1000)], width := 64, owner := .vi, rst := fun _ => 0x0#64,
    fields := [(38, 12, .rwp), (3, 0, .rwp)] }
/-- MMU_VI_FQ_HEAD (R163). -/
def D.MMU_VI_FQ_HEAD : RegDesc :=
  { base := 0x1400010, dims := [(16, 0x1000)], width := 32, owner := .vi, rst := fun _ => 0x0#64,
    fields := [(18, 0, .ro)] }
/-- MMU_VI_FQ_TAIL (R163). -/
def D.MMU_VI_FQ_TAIL : RegDesc :=
  { base := 0x1400018, dims := [(16, 0x1000)], width := 32, owner := .vi, rst := fun _ => 0x0#64,
    fields := [(18, 0, .rw)] }
/-- MMU_VI_FQ_NOTE (R163). -/
def D.MMU_VI_FQ_NOTE : RegDesc :=
  { base := 0x1400020, dims := [(16, 0x1000)], width := 32, owner := .vi, rst := fun _ => 0x0#64,
    fields := [(31, 31, .rw), (26, 16, .rw), (15, 15, .rw), (14, 0, .rw)] }
/-- MMU_VI_RESUME (R163). -/
def D.MMU_VI_RESUME : RegDesc :=
  { base := 0x1400028, dims := [(16, 0x1000)], width := 64, owner := .vi, rst := fun _ => 0x0#64,
    fields := [(47, 40, .wo), (33, 32, .wo), (31, 0, .wo)] }
/-- MMU_VI_FSTAT (R163). -/
def D.MMU_VI_FSTAT : RegDesc :=
  { base := 0x1400030, dims := [(16, 0x1000)], width := 32, owner := .vi, rst := fun _ => 0x0#64,
    fields := [(31, 16, .ro), (4, 4, .rw1c), (3, 3, .rw1c), (2, 2, .rw1c), (1, 1, .ro), (0, 0, .rw1c)] }
/-- MMU_VI_INVAL (R163). -/
def D.MMU_VI_INVAL : RegDesc :=
  { base := 0x1400038, dims := [(16, 0x1000)], width := 64, owner := .vi, rst := fun _ => 0x0#64,
    fields := [(47, 12, .wo), (0, 0, .wo)] }
/-- MMU_VI_INVAL_STAT (R163). -/
def D.MMU_VI_INVAL_STAT : RegDesc :=
  { base := 0x1400040, dims := [(16, 0x1000)], width := 32, owner := .vi, rst := fun _ => 0x0#64,
    fields := [(0, 0, .ro)] }
/-- MMU_SVC_LIMIT (R163). -/
def D.MMU_SVC_LIMIT : RegDesc :=
  { base := 0x1410000, dims := [], width := 32, owner := .none, rst := fun _ => 0x2710#64,
    fields := [(13, 0, .rwx)] }
/-- DMA_Q_CFG (R194). -/
def D.DMA_Q_CFG : RegDesc :=
  { base := 0x1800000, dims := [(1024, 0x40)], width := 64, owner := .dmaQ, rst := fun _ => 0x400400#64,
    fields := [(31, 31, .rwp), (27, 24, .rwp), (23, 20, .rwp), (19, 14, .rwp), (13, 10, .rwp), (9, 0, .rwp)] }
/-- DMA_Q_STAT (R194). -/
def D.DMA_Q_STAT : RegDesc :=
  { base := 0x1800008, dims := [(1024, 0x40)], width := 64, owner := .dmaQ, rst := fun _ => 0x0#64,
    fields := [(44, 32, .ro), (31, 0, .ro)] }
/-- DMA_Q_ERR (R194). -/
def D.DMA_Q_ERR : RegDesc :=
  { base := 0x1800010, dims := [(1024, 0x40)], width := 64, owner := .dmaQ, rst := fun _ => 0x0#64,
    fields := [(63, 48, .ro), (47, 40, .ro), (37, 37, .rw1c), (36, 36, .rw1c), (35, 32, .ro), (31, 0, .ro)] }
/-- DMA_VI_SRSEEDj (R194). -/
def D.DMA_VI_SRSEED : RegDesc :=
  { base := 0x1810000, dims := [(16, 0x40), (4, 0x8)], width := 64, owner := .vi, rst := fun _ => 0x0#64,
    fields := [(31, 0, .rw)] }
/-- SIG_CTR (R195). -/
def D.SIG_CTR : RegDesc :=
  { base := 0x1c00000, dims := [(32768, 0x8)], width := 64, owner := .none, rst := fun _ => 0x0#64,
    fields := [(34, 34, .rw1c), (33, 33, .rw1c), (32, 32, .rw1c), (31, 0, .rw)] }
/-- SIG_ARR (R195). -/
def D.SIG_ARR : RegDesc :=
  { base := 0x1c40000, dims := [(32768, 0x4)], width := 32, owner := .none, rst := fun _ => 0x0#64,
    fields := [(31, 0, .ro)] }
/-- SIG_VI_CFG (R195). -/
def D.SIG_VI_CFG : RegDesc :=
  { base := 0x1c60000, dims := [(16, 0x20)], width := 32, owner := .vi, rst := fun _ => 0x0#64,
    fields := [(31, 16, .rwp), (14, 0, .rwp)] }
/-- SIG_VI_STAT (R195). -/
def D.SIG_VI_STAT : RegDesc :=
  { base := 0x1c60008, dims := [(16, 0x20)], width := 64, owner := .vi, rst := fun _ => 0x0#64,
    fields := [(48, 48, .rw1c), (47, 32, .ro)] }
/-- SIG_VI_DROP (R195). -/
def D.SIG_VI_DROP : RegDesc :=
  { base := 0x1c60010, dims := [(16, 0x20)], width := 32, owner := .vi, rst := fun _ => 0x0#64,
    fields := [(31, 0, .ro)] }
/-- COL_GRP_CTL (R236). -/
def D.COL_GRP_CTL : RegDesc :=
  { base := 0x2000000, dims := [(1024, 0x100)], width := 32, owner := .grp, rst := fun _ => 0x0#64,
    fields := [(11, 8, .ro), (3, 0, .wo)] }
/-- COL_GRP_ID (R236). -/
def D.COL_GRP_ID : RegDesc :=
  { base := 0x2000004, dims := [(1024, 0x100)], width := 32, owner := .grp, rst := fun _ => 0x0#64,
    fields := [(31, 0, .rw)] }
/-- COL_GRP_CFG (R236). -/
def D.COL_GRP_CFG : RegDesc :=
  { base := 0x2000008, dims := [(1024, 0x100)], width := 64, owner := .grp, rst := fun _ => 0xc800028400000#64,
    fields := [(57, 57, .rwx), (56, 56, .rwx), (55, 46, .rw), (45, 30, .rw), (29, 26, .rw), (25, 22, .rw), (21, 20, .rw), (19, 17, .rw), (16, 14, .rw)] }
/-- COL_GRP_MEMB (R236). -/
def D.COL_GRP_MEMB : RegDesc :=
  { base := 0x2000010, dims := [(1024, 0x100)], width := 64, owner := .grp, rst := fun _ => 0x0#64,
    fields := [(38, 12, .rw)] }
/-- COL_GRP_RANK (R236). -/
def D.COL_GRP_RANK : RegDesc :=
  { base := 0x2000018, dims := [(1024, 0x100)], width := 32, owner := .grp, rst := fun _ => 0x0#64,
    fields := [(31, 16, .rw), (14, 0, .rw)] }
/-- COL_GRP_SEED0 (R236). -/
def D.COL_GRP_SEED0 : RegDesc :=
  { base := 0x2000020, dims := [(1024, 0x100)], width := 64, owner := .grp, rst := fun _ => 0x0#64,
    fields := [(63, 32, .rw), (31, 0, .rw)] }
/-- COL_GRP_SEED1 (R236). -/
def D.COL_GRP_SEED1 : RegDesc :=
  { base := 0x2000028, dims := [(1024, 0x100)], width := 64, owner := .grp, rst := fun _ => 0x0#64,
    fields := [(63, 32, .rw), (31, 0, .rw)] }
/-- COL_GRP_SEQ (R236). -/
def D.COL_GRP_SEQ : RegDesc :=
  { base := 0x2000030, dims := [(1024, 0x100)], width := 32, owner := .grp, rst := fun _ => 0x0#64,
    fields := [(24, 0, .rw)] }
/-- COL_GRP_GEN (R236). -/
def D.COL_GRP_GEN : RegDesc :=
  { base := 0x2000038, dims := [(1024, 0x100)], width := 64, owner := .grp, rst := fun _ => 0x0#64,
    fields := [(36, 32, .ro), (31, 0, .ro)] }
/-- COL_GRP_G (R236). -/
def D.COL_GRP_G : RegDesc :=
  { base := 0x2000040, dims := [(1024, 0x100)], width := 32, owner := .grp, rst := fun _ => 0x0#64,
    fields := [(12, 12, .ro), (11, 0, .ro)] }
/-- COL_GRP_STAT (R236). -/
def D.COL_GRP_STAT : RegDesc :=
  { base := 0x2000048, dims := [(1024, 0x100)], width := 64, owner := .grp, rst := fun _ => 0x0#64,
    fields := [(63, 48, .ro), (47, 32, .ro), (30, 16, .ro), (10, 10, .rw1c), (9, 9, .rw1c), (8, 8, .rw1c), (7, 0, .ro)] }
/-- COL_VI_CFG (R236). -/
def D.COL_VI_CFG : RegDesc :=
  { base := 0x2100000, dims := [(16, 0x10)], width := 32, owner := .vi, rst := fun _ => 0x0#64,
    fields := [(26, 16, .rwp), (9, 0, .rwp)] }
/-- COL_JOIN_TMO (R236). -/
def D.COL_JOIN_TMO : RegDesc :=
  { base := 0x2100100, dims := [], width := 32, owner := .none, rst := fun _ => 0x64#64,
    fields := [(15, 0, .rw)] }
/-- TARN_UNIT_CFG (R261). -/
def D.TARN_UNIT_CFG : RegDesc :=
  { base := 0x2400000, dims := [(96, 0x100)], width := 32, owner := .none, rst := fun _ => 0x1#64,
    fields := [(0, 0, .rwp)] }
/-- TARN_UNIT_STAT (R261). -/
def D.TARN_UNIT_STAT : RegDesc :=
  { base := 0x2400004, dims := [(96, 0x100)], width := 32, owner := .none, rst := fun _ => 0x0#64,
    fields := [(16, 11, .ro), (10, 6, .ro), (1, 1, .ro), (0, 0, .ro)] }
/-- TARN_UNIT_WORDS (R261). -/
def D.TARN_UNIT_WORDS : RegDesc :=
  { base := 0x2400008, dims := [(96, 0x100)], width := 64, owner := .none, rst := fun _ => 0x0#64,
    fields := [(63, 0, .ro)] }
/-- TARN_UNIT_ERR (R261). -/
def D.TARN_UNIT_ERR : RegDesc :=
  { base := 0x2400010, dims := [(96, 0x100)], width := 64, owner := .none, rst := fun _ => 0x0#64,
    fields := [(63, 48, .ro), (47, 40, .ro), (39, 36, .ro), (33, 33, .rw1c), (32, 32, .rw1c), (7, 0, .ro)] }
/-- TARN_VI_WATCH_n (R261). -/
def D.TARN_VI_WATCH : RegDesc :=
  { base := 0x2410000, dims := [(16, 0x100), (9, 0x4)], width := 32, owner := .vi, rst := fun _ => 0x0#64,
    fields := [(31, 0, .ro)] }
/-- TARN_VI_WATCH_CTL (R261). -/
def D.TARN_VI_WATCH_CTL : RegDesc :=
  { base := 0x2410040, dims := [(16, 0x100)], width := 32, owner := .vi, rst := fun _ => 0x1ff#64,
    fields := [(31, 31, .wo), (8, 0, .rw)] }
/-- TARN_VI_WATCH_SUM (R261). -/
def D.TARN_VI_WATCH_SUM : RegDesc :=
  { base := 0x2410044, dims := [(16, 0x100)], width := 32, owner := .vi, rst := fun _ => 0x0#64,
    fields := [(8, 0, .rw1c)] }
/-- TARN_VI_WATCH_NOTE (R261). -/
def D.TARN_VI_WATCH_NOTE : RegDesc :=
  { base := 0x2410048, dims := [(16, 0x100)], width := 32, owner := .vi, rst := fun _ => 0x0#64,
    fields := [(31, 31, .rw), (26, 16, .rw), (15, 15, .rw), (14, 0, .rw)] }
/-- TARN_VI_CMP_CFG (R261). -/
def D.TARN_VI_CMP_CFG : RegDesc :=
  { base := 0x2420000, dims := [(16, 0x100), (4, 0x40)], width := 64, owner := .vi, rst := fun _ => 0x82000000#64,
    fields := [(42, 27, .rw), (26, 23, .rw), (22, 11, .rw), (10, 1, .rw), (0, 0, .rw)] }
/-- TARN_VI_CMP_FACTOR (R261). -/
def D.TARN_VI_CMP_FACTOR : RegDesc :=
  { base := 0x2420008, dims := [(16, 0x100), (4, 0x40)], width := 32, owner := .vi, rst := fun _ => 0x40000000#64,
    fields := [(31, 0, .rw)] }
/-- TARN_VI_CMP_REF (R261). -/
def D.TARN_VI_CMP_REF : RegDesc :=
  { base := 0x2420010, dims := [(16, 0x100), (4, 0x40)], width := 64, owner := .vi, rst := fun _ => 0x0#64,
    fields := [(63, 0, .rw)] }
/-- TARN_VI_CMP_LAST (R261). -/
def D.TARN_VI_CMP_LAST : RegDesc :=
  { base := 0x2420018, dims := [(16, 0x100), (4, 0x40)], width := 64, owner := .vi, rst := fun _ => 0x0#64,
    fields := [(63, 0, .ro)] }
/-- TARN_VI_CMP_STAT (R261). -/
def D.TARN_VI_CMP_STAT : RegDesc :=
  { base := 0x2420020, dims := [(16, 0x100), (4, 0x40)], width := 32, owner := .vi, rst := fun _ => 0x0#64,
    fields := [(31, 16, .ro), (15, 8, .ro), (1, 1, .rw1c), (0, 0, .rw1c)] }
/-- DIVIDE_OWN_CFG (R290). -/
def D.DIVIDE_OWN_CFG : RegDesc :=
  { base := 0x2800000, dims := [(19, 0x40), (8, 0x8)], width := 64, owner := .divOwn, rst := fun _ => 0x6000000000000#64,
    fields := [(51, 32, .rwp), (19, 0, .rwp)] }
/-- DIVIDE_OWN_USE (R290). -/
def D.DIVIDE_OWN_USE : RegDesc :=
  { base := 0x2800800, dims := [(19, 0x40), (8, 0x8)], width := 64, owner := .none, rst := fun _ => 0x0#64,
    fields := [(51, 32, .ro), (19, 0, .ro)] }
/-- DIVIDE_BUF_STAT (R290). -/
def D.DIVIDE_BUF_STAT : RegDesc :=
  { base := 0x2801000, dims := [(2, 0x8)], width := 64, owner := .none, rst := fun _ => 0x6000000000000#64,
    fields := [(51, 32, .ro), (19, 0, .ro)] }
/-- DIVIDE_DROP (R290). -/
def D.DIVIDE_DROP : RegDesc :=
  { base := 0x2801020, dims := [(2, 0x8)], width := 64, owner := .none, rst := fun _ => 0x0#64,
    fields := [(63, 32, .ro), (31, 0, .ro)] }
/-- DIVIDE_ERR (R290). -/
def D.DIVIDE_ERR : RegDesc :=
  { base := 0x2801040, dims := [], width := 64, owner := .none, rst := fun _ => 0x0#64,
    fields := [(63, 48, .ro), (40, 40, .ro), (33, 33, .rw1c), (32, 32, .rw1c), (7, 0, .ro)] }
/-- DIVIDE_ARB_REQ (R290). -/
def D.DIVIDE_ARB_REQ : RegDesc :=
  { base := 0x2820000, dims := [(5, 0x100), (16, 0x8)], width := 32, owner := .none, rst := fun _ => 0x400102#64,
    fields := [(25, 16, .rwp), (11, 8, .rwp), (1, 0, .rwp)] }
/-- DIVIDE_ARB_CLS (R290). -/
def D.DIVIDE_ARB_CLS : RegDesc :=
  { base := 0x2820080, dims := [(5, 0x100)], width := 32, owner := .none, rst := fun _ => 0x14000100#64,
    fields := [(28, 24, .rwp), (15, 0, .rwp)] }
/-- DIVIDE_ARB_EVT (R290). -/
def D.DIVIDE_ARB_EVT : RegDesc :=
  { base := 0x2820088, dims := [(5, 0x100)], width := 64, owner := .none, rst := fun _ => 0x0#64,
    fields := [(63, 48, .ro), (47, 32, .ro), (31, 31, .rw1c), (30, 30, .rw1c), (29, 26, .ro), (12, 0, .ro)] }
/-- DIVIDE_ARB_NOTE (R290). -/
def D.DIVIDE_ARB_NOTE : RegDesc :=
  { base := 0x2820800, dims := [], width := 32, owner := .none, rst := fun _ => 0x0#64,
    fields := [(31, 31, .rw), (10, 0, .rw)] }
/-- DIVIDE_MIR_CFG (R290). -/
def D.DIVIDE_MIR_CFG : RegDesc :=
  { base := 0x2830000, dims := [(16, 0x20)], width := 64, owner := .none, rst := fun _ => 0x100000000#64,
    fields := [(63, 63, .rw), (62, 62, .rw), (61, 60, .rw), (59, 58, .rw), (57, 55, .rw), (53, 48, .rw), (47, 32, .rw), (31, 0, .rw)] }
/-- DIVIDE_MIR_STAT (R290). -/
def D.DIVIDE_MIR_STAT : RegDesc :=
  { base := 0x2830008, dims := [(16, 0x20)], width := 64, owner := .none, rst := fun _ => 0x0#64,
    fields := [(63, 32, .ro), (31, 0, .ro)] }
/-- DIVIDE_MIR_RBASE (R290). -/
def D.DIVIDE_MIR_RBASE : RegDesc :=
  { base := 0x2830400, dims := [], width := 64, owner := .none, rst := fun _ => 0x0#64,
    fields := [(38, 12, .rwp), (3, 0, .rwp)] }
/-- DIVIDE_MIR_RHEAD (R290). -/
def D.DIVIDE_MIR_RHEAD : RegDesc :=
  { base := 0x2830408, dims := [], width := 32, owner := .none, rst := fun _ => 0x0#64,
    fields := [(31, 0, .ro)] }
/-- DIVIDE_MIR_RTAIL (R290). -/
def D.DIVIDE_MIR_RTAIL : RegDesc :=
  { base := 0x283040c, dims := [], width := 32, owner := .none, rst := fun _ => 0x0#64,
    fields := [(31, 0, .rw)] }
/-- MERE_POOL_CFG (R291). -/
def D.MERE_POOL_CFG : RegDesc :=
  { base := 0x2c00000, dims := [(5, 0x20), (2, 0x8)], width := 64, owner := .none, rst := fun _ => 0x0#64,
    fields := [(62, 36, .rwp), (23, 0, .rwp)] }
/-- MERE_POOL_FREE (R291). -/
def D.MERE_POOL_FREE : RegDesc :=
  { base := 0x2c00010, dims := [(5, 0x20)], width := 32, owner := .none, rst := fun _ => 0x0#64,
    fields := [(23, 0, .ro)] }
/-- MERE_ERR (R291). -/
def D.MERE_ERR : RegDesc :=
  { base := 0x2c00400, dims := [], width := 64, owner := .none, rst := fun _ => 0x0#64,
    fields := [(63, 48, .ro), (47, 45, .ro), (44, 21, .ro), (20, 13, .ro), (9, 9, .rw1c), (8, 8, .rw1c), (7, 0, .ro)] }
/-- MERE_REFUSE (R291). -/
def D.MERE_REFUSE : RegDesc :=
  { base := 0x2c00408, dims := [], width := 64, owner := .none, rst := fun _ => 0x0#64,
    fields := [(63, 32, .ro), (31, 0, .ro)] }
/-- MERE_OWN_MIN (R291). -/
def D.MERE_OWN_MIN : RegDesc :=
  { base := 0x2c10000, dims := [(137, 0x40), (5, 0x8)], width := 64, owner := .mereOwn, rst := fun _ => 0x0#64,
    fields := [(63, 40, .ro), (23, 0, .rwp)] }
/-- MERE_OWN_MAX (R291). -/
def D.MERE_OWN_MAX : RegDesc :=
  { base := 0x2c10030, dims := [(137, 0x40)], width := 32, owner := .mereOwn, rst := fun _ => 0xffffff#64,
    fields := [(23, 0, .rwp)] }
/-- PORT_CTL (R317). -/
def D.PORT_CTL : RegDesc :=
  { base := 0x3000000, dims := [(64, 0x10000)], width := 32, owner := .none, rst := fun _ => 0x100#64,
    fields := [(8, 8, .rwp), (3, 0, .wo)] }
/-- PORT_STAT (R317). -/
def D.PORT_STAT : RegDesc :=
  { base := 0x3000004, dims := [(64, 0x10000)], width := 32, owner := .none, rst := fun _ => 0x0#64,
    fields := [(31, 24, .ro), (23, 20, .ro), (19, 16, .ro), (5, 5, .rw1c), (4, 4, .rw1c), (3, 0, .ro)] }
/-- PORT_LANE_MAP (R317). -/
def D.PORT_LANE_MAP : RegDesc :=
  { base := 0x3000008, dims := [(64, 0x10000)], width := 32, owner := .none, rst := laneMapReset,
    fields := [(31, 24, .ro), (23, 16, .ro), (15, 8, .ro), (7, 0, .ro)] }
/-- PORT_LANE_STAT_l (R317). -/
def D.PORT_LANE_STAT : RegDesc :=
  { base := 0x3000020, dims := [(64, 0x10000), (4, 0x10)], width := 64, owner := .none, rst := fun _ => 0x0#64,
    fields := [(63, 32, .ro), (31, 16, .ro), (4, 4, .ro), (3, 3, .rw1c), (2, 2, .ro), (1, 1, .ro), (0, 0, .ro)] }
/-- PORT_PRBS_CTL (R317). -/
def D.PORT_PRBS_CTL : RegDesc :=
  { base := 0x3000080, dims := [(64, 0x10000)], width := 64, owner := .none, rst := fun _ => 0x7fffffff05000000#64,
    fields := [(62, 32, .rw), (31, 31, .rw), (30, 30, .rw), (29, 28, .rw), (27, 23, .rw), (22, 21, .rw)] }
/-- PORT_PRBS_ERR_l (R317). -/
def D.PORT_PRBS_ERR : RegDesc :=
  { base := 0x3000090, dims := [(64, 0x10000), (4, 0x8)], width := 64, owner := .none, rst := fun _ => 0x0#64,
    fields := [(63, 63, .ro), (47, 0, .ro)] }
/-- PORT_PRBS_BITS (R317). -/
def D.PORT_PRBS_BITS : RegDesc :=
  { base := 0x30000b0, dims := [(64, 0x10000)], width := 64, owner := .none, rst := fun _ => 0x0#64,
    fields := [(63, 0, .ro)] }
/-- PORT_FEC_INJ (R317). -/
def D.PORT_FEC_INJ : RegDesc :=
  { base := 0x30000c0, dims := [(64, 0x10000)], width := 32, owner := .none, rst := fun _ => 0x0#64,
    fields := [(31, 31, .rwx), (30, 26, .rwx), (25, 22, .rwx), (17, 16, .rwx), (15, 0, .ro)] }
/-- PORT_SWAP_THR (R317). -/
def D.PORT_SWAP_THR : RegDesc :=
  { base := 0x30000c8, dims := [(64, 0x10000)], width := 32, owner := .none, rst := fun _ => 0x1000#64,
    fields := [(15, 0, .rwx)] }
/-- PORT_LINK_CFG (R347). -/
def D.PORT_LINK_CFG : RegDesc :=
  { base := 0x3000100, dims := [(64, 0x10000)], width := 32, owner := .none, rst := fun _ => 0x802#64,
    fields := [(11, 8, .rwp), (1, 1, .rwp), (0, 0, .rw)] }
/-- PORT_LINK_STAT (R347). -/
def D.PORT_LINK_STAT : RegDesc :=
  { base := 0x3000104, dims := [(64, 0x10000)], width := 32, owner := .none, rst := fun _ => 0x0#64,
    fields := [(31, 24, .ro), (23, 16, .ro), (8, 8, .ro), (7, 7, .ro), (6, 6, .ro), (5, 5, .rw1c), (3, 0, .ro)] }
/-- PORT_LINK_NBR (R347). -/
def D.PORT_LINK_NBR : RegDesc :=
  { base := 0x3000108, dims := [(64, 0x10000)], width := 64, owner := .none, rst := fun _ => 0x7fff#64,
    fields := [(63, 48, .ro), (37, 32, .ro), (14, 0, .ro)] }
/-- PORT_LINK_SER (R347). -/
def D.PORT_LINK_SER : RegDesc :=
  { base := 0x3000110, dims := [(64, 0x10000)], width := 64, owner := .none, rst := fun _ => 0x0#64,
    fields := [(63, 0, .ro)] }
/-- PORT_LINK_RTT (R347). -/
def D.PORT_LINK_RTT : RegDesc :=
  { base := 0x3000118, dims := [(64, 0x10000)], width := 32, owner := .none, rst := fun _ => 0x0#64,
    fields := [(31, 0, .ro)] }
/-- PORT_LINK_CNT (R347). -/
def D.PORT_LINK_CNT : RegDesc :=
  { base := 0x3000120, dims := [(64, 0x10000)], width := 64, owner := .none, rst := fun _ => 0x0#64,
    fields := [(63, 48, .ro), (47, 32, .ro), (31, 16, .ro), (15, 0, .ro)] }
/-- PORT_LINK_REPLAYED (R347). -/
def D.PORT_LINK_REPLAYED : RegDesc :=
  { base := 0x3000128, dims := [(64, 0x10000)], width := 32, owner := .none, rst := fun _ => 0x0#64,
    fields := [(31, 0, .ro)] }
/-- PORT_LINK_CRED_c (R347). -/
def D.PORT_LINK_CRED : RegDesc :=
  { base := 0x3000140, dims := [(64, 0x10000), (8, 0x8)], width := 64, owner := .none, rst := fun _ => 0x10#64,
    fields := [(55, 32, .ro), (23, 0, .rwp)] }
/-- PORT_ENG_STAT (R317). -/
def D.PORT_ENG_STAT : RegDesc :=
  { base := 0x3008000, dims := [(8, 0x80000)], width := 32, owner := .none, rst := fun _ => 0x20#64,
    fields := [(15, 8, .ro), (5, 4, .ro), (1, 0, .ro)] }
/-- EDGE_CTL (R318). -/
def D.EDGE_CTL : RegDesc :=
  { base := 0x3400000, dims := [(8, 0x10000)], width := 32, owner := .none, rst := fun _ => 0x100#64,
    fields := [(27, 24, .rwp), (20, 20, .rwp), (19, 19, .rwp), (18, 16, .rwp), (8, 8, .rwp), (3, 0, .wo)] }
/-- EDGE_STAT (R318). -/
def D.EDGE_STAT : RegDesc :=
  { base := 0x3400004, dims := [(8, 0x10000)], width := 32, owner := .none, rst := fun _ => 0x0#64,
    fields := [(31, 24, .ro), (8, 8, .ro), (7, 7, .ro), (6, 6, .ro), (5, 5, .rw1c), (4, 4, .rw1c), (3, 0, .ro)] }
/-- EDGE_FEC (R318). -/
def D.EDGE_FEC : RegDesc :=
  { base := 0x3400008, dims := [(8, 0x10000)], width := 64, owner := .none, rst := fun _ => 0x0#64,
    fields := [(63, 32, .ro), (31, 0, .ro)] }
/-- EDGE_CNT (R318). -/
def D.EDGE_CNT : RegDesc :=
  { base := 0x3400010, dims := [(8, 0x10000)], width := 64, owner := .none, rst := fun _ => 0x0#64,
    fields := [(63, 32, .ro), (31, 0, .ro)] }
/-- EDGE_PRBS_CTL (R317). -/
def D.EDGE_PRBS_CTL : RegDesc :=
  { base := 0x3400080, dims := [(8, 0x10000)], width := 64, owner := .none, rst := fun _ => 0x7fffffff05000000#64,
    fields := [(62, 32, .rw), (31, 31, .rw), (30, 30, .rw), (29, 28, .rw), (27, 23, .rw), (22, 21, .rw)] }
/-- EDGE_PRBS_ERR_l (R317). -/
def D.EDGE_PRBS_ERR : RegDesc :=
  { base := 0x3400090, dims := [(8, 0x10000), (4, 0x8)], width := 64, owner := .none, rst := fun _ => 0x0#64,
    fields := [(63, 63, .ro), (47, 0, .ro)] }
/-- EDGE_PRBS_BITS (R317). -/
def D.EDGE_PRBS_BITS : RegDesc :=
  { base := 0x34000b0, dims := [(8, 0x10000)], width := 64, owner := .none, rst := fun _ => 0x0#64,
    fields := [(63, 0, .ro)] }
/-- EDGE_METRO_PEER (R349). -/
def D.EDGE_METRO_PEER : RegDesc :=
  { base := 0x3400100, dims := [(8, 0x10000)], width := 64, owner := .none, rst := fun _ => 0x0#64,
    fields := [(63, 48, .rwp), (47, 0, .rwp)] }
/-- EDGE_METRO_CFG (R349). -/
def D.EDGE_METRO_CFG : RegDesc :=
  { base := 0x3400108, dims := [(8, 0x10000)], width := 32, owner := .none, rst := fun _ => 0x100007d0#64,
    fields := [(31, 24, .rwp), (10, 0, .rwp)] }
/-- EDGE_METRO_STAT (R349). -/
def D.EDGE_METRO_STAT : RegDesc :=
  { base := 0x3400110, dims := [(8, 0x10000)], width := 64, owner := .none, rst := fun _ => 0x0#64,
    fields := [(63, 32, .ro), (27, 12, .ro), (3, 3, .ro), (2, 2, .rw1c), (1, 0, .ro)] }
/-- EDGE_METRO_CNT (R349). -/
def D.EDGE_METRO_CNT : RegDesc :=
  { base := 0x3400118, dims := [(8, 0x10000)], width := 64, owner := .none, rst := fun _ => 0x0#64,
    fields := [(63, 32, .ro), (31, 16, .ro)] }
/-- EDGE_METRO_OWN (R349). -/
def D.EDGE_METRO_OWN : RegDesc :=
  { base := 0x3400120, dims := [(8, 0x10000)], width := 64, owner := .none, rst := metroOwnReset,
    fields := [(47, 0, .ro)] }
/-- TILE_STATUS (R101). -/
def D.TILE_STATUS : RegDesc :=
  { base := 0x3c00000, dims := [(152, 0x4000)], width := 32, owner := .tile, rst := fun _ => 0x0#64,
    fields := [(31, 24, .ro), (23, 20, .ro), (11, 4, .ro), (3, 3, .ro), (2, 0, .ro)] }
/-- TILE_PC (R101). -/
def D.TILE_PC : RegDesc :=
  { base := 0x3c00008, dims := [(152, 0x4000)], width := 64, owner := .tile, rst := fun _ => 0x0#64,
    fields := [(47, 0, .ro)] }
/-- TILE_BRK (R101). -/
def D.TILE_BRK : RegDesc :=
  { base := 0x3c00010, dims := [(152, 0x4000)], width := 64, owner := .tile, rst := fun _ => 0x0#64,
    fields := [(63, 63, .rwx), (47, 3, .rwx)] }
/-- TILE_TAPE_BASE (R123). -/
def D.TILE_TAPE_BASE : RegDesc :=
  { base := 0x3c00020, dims := [(152, 0x4000)], width := 64, owner := .tile, rst := fun _ => 0x0#64,
    fields := [(47, 12, .rwp)] }
/-- TILE_TAPE_SIZE (R123). -/
def D.TILE_TAPE_SIZE : RegDesc :=
  { base := 0x3c00028, dims := [(152, 0x4000)], width := 64, owner := .tile, rst := fun _ => 0x0#64,
    fields := [(39, 12, .rwp)] }
/-- TILE_TAPE_HEAD (R123). -/
def D.TILE_TAPE_HEAD : RegDesc :=
  { base := 0x3c00030, dims := [(152, 0x4000)], width := 64, owner := .tile, rst := fun _ => 0x0#64,
    fields := [(39, 3, .ro)] }
/-- TILE_TAPE_TAIL (R123). -/
def D.TILE_TAPE_TAIL : RegDesc :=
  { base := 0x3c00038, dims := [(152, 0x4000)], width := 64, owner := .tile, rst := fun _ => 0x0#64,
    fields := [(39, 3, .ro)] }
/-- TILE_CTL (R164). -/
def D.TILE_CTL : RegDesc :=
  { base := 0x3c00040, dims := [(152, 0x4000)], width := 32, owner := .tile, rst := fun _ => 0x0#64,
    fields := [(1, 0, .wo)] }
/-- TILE_SAVE (R164). -/
def D.TILE_SAVE : RegDesc :=
  { base := 0x3c00048, dims := [(152, 0x4000)], width := 64, owner := .tile, rst := fun _ => 0x0#64,
    fields := [(38, 12, .rw), (3, 2, .ro), (1, 1, .ro)] }
/-- MGMT_MAINT_CMD (R454). -/
def D.MGMT_MAINT_CMD : RegDesc :=
  { base := 0x100200, dims := [], width := 32, owner := .none, rst := fun _ => 0x0#64, shift := 0x4000000,
    fields := [(31, 28, .wo), (27, 24, .wo), (23, 16, .wo), (15, 0, .wo)] }
/-- MGMT_MAINT_SRC (R454). -/
def D.MGMT_MAINT_SRC : RegDesc :=
  { base := 0x100208, dims := [], width := 64, owner := .none, rst := fun _ => 0x0#64, shift := 0x4000000,
    fields := [(38, 12, .rw)] }
/-- MGMT_MAINT_STAT (R454). -/
def D.MGMT_MAINT_STAT : RegDesc :=
  { base := 0x100210, dims := [], width := 64, owner := .none, rst := fun _ => 0x0#64, shift := 0x4000000,
    fields := [(63, 56, .ro), (55, 48, .ro), (47, 44, .ro), (39, 32, .ro), (31, 0, .ro)] }
/-- MGMT_MAINT_WIN_k (R454). -/
def D.MGMT_MAINT_WIN : RegDesc :=
  { base := 0x100240, dims := [(8, 0x8)], width := 64, owner := .none, rst := fun _ => 0x0#64, shift := 0x4000000,
    fields := [(63, 63, .rwp), (37, 32, .rwp), (21, 11, .rwp), (10, 0, .rwp)] }

def R.GLOBAL_DEV_ID : RegRef := regRef D.GLOBAL_DEV_ID []
def R.GLOBAL_TILE_COUNT : RegRef := regRef D.GLOBAL_TILE_COUNT []
def R.GLOBAL_TILE_MAP (i : Nat) : RegRef := regRef D.GLOBAL_TILE_MAP [i]
def R.GLOBAL_TOPO_ACT : RegRef := regRef D.GLOBAL_TOPO_ACT []
def R.GLOBAL_TOPO_CAND : RegRef := regRef D.GLOBAL_TOPO_CAND []
def R.GLOBAL_TOPO_TACT : RegRef := regRef D.GLOBAL_TOPO_TACT []
def R.GLOBAL_TOPO_CMD : RegRef := regRef D.GLOBAL_TOPO_CMD []
def R.GLOBAL_TOPO_SWEEP : RegRef := regRef D.GLOBAL_TOPO_SWEEP []
def R.MGMT_BOOT_STAT : RegRef := regRef D.MGMT_BOOT_STAT []
def R.MGMT_RST : RegRef := regRef D.MGMT_RST []
def R.MGMT_PROF_CTL : RegRef := regRef D.MGMT_PROF_CTL []
def R.MGMT_PROF_STAT : RegRef := regRef D.MGMT_PROF_STAT []
def R.MGMT_EXPERT : RegRef := regRef D.MGMT_EXPERT []
def R.MGMT_SPI_STAT : RegRef := regRef D.MGMT_SPI_STAT []
def R.MGMT_VI_CTL (i : Nat) : RegRef := regRef D.MGMT_VI_CTL [i]
def R.MGMT_VI_CFG (i : Nat) : RegRef := regRef D.MGMT_VI_CFG [i]
def R.MGMT_VI_MANIFEST (i : Nat) : RegRef := regRef D.MGMT_VI_MANIFEST [i]
def R.MGMT_VI_TILES (i j : Nat) : RegRef := regRef D.MGMT_VI_TILES [i, j]
def R.CLKPWR_PCAP : RegRef := regRef D.CLKPWR_PCAP []
def R.CLKPWR_PWR : RegRef := regRef D.CLKPWR_PWR []
def R.CLKPWR_TCLK (i : Nat) : RegRef := regRef D.CLKPWR_TCLK [i]
def R.CLKPWR_THERM : RegRef := regRef D.CLKPWR_THERM []
def R.CLKPWR_REF : RegRef := regRef D.CLKPWR_REF []
def R.CLKPWR_VF (i : Nat) : RegRef := regRef D.CLKPWR_VF [i]
def R.CLKPWR_RAIL_STAT : RegRef := regRef D.CLKPWR_RAIL_STAT []
def R.CLKPWR_GPIO : RegRef := regRef D.CLKPWR_GPIO []
def R.TELEM_TIME : RegRef := regRef D.TELEM_TIME []
def R.TELEM_TIME_CTL : RegRef := regRef D.TELEM_TIME_CTL []
def R.TELEM_TIME_SET : RegRef := regRef D.TELEM_TIME_SET []
def R.TELEM_TIME_OFS : RegRef := regRef D.TELEM_TIME_OFS []
def R.TELEM_SNAP_CTL : RegRef := regRef D.TELEM_SNAP_CTL []
def R.TELEM_SNAP_AT : RegRef := regRef D.TELEM_SNAP_AT []
def R.TELEM_SNAP_STAT : RegRef := regRef D.TELEM_SNAP_STAT []
def R.TELEM_SNAP_RBASE : RegRef := regRef D.TELEM_SNAP_RBASE []
def R.TELEM_SNAP_RHEAD : RegRef := regRef D.TELEM_SNAP_RHEAD []
def R.TELEM_SNAP_RTAIL : RegRef := regRef D.TELEM_SNAP_RTAIL []
def R.TELEM_CTR_CFG (i : Nat) : RegRef := regRef D.TELEM_CTR_CFG [i]
def R.TELEM_CTR (i : Nat) : RegRef := regRef D.TELEM_CTR [i]
def R.TELEM_PHASE (i : Nat) : RegRef := regRef D.TELEM_PHASE [i]
def R.TELEM_VI_REC_CTL (i : Nat) : RegRef := regRef D.TELEM_VI_REC_CTL [i]
def R.TELEM_VI_REC_BASE (i : Nat) : RegRef := regRef D.TELEM_VI_REC_BASE [i]
def R.TELEM_VI_REC_HEAD (i : Nat) : RegRef := regRef D.TELEM_VI_REC_HEAD [i]
def R.TELEM_VI_REC_TAIL (i : Nat) : RegRef := regRef D.TELEM_VI_REC_TAIL [i]
def R.FAULT_DEV_STAT : RegRef := regRef D.FAULT_DEV_STAT []
def R.FAULT_DEV_NOTE : RegRef := regRef D.FAULT_DEV_NOTE []
def R.FAULT_EQ_BASE : RegRef := regRef D.FAULT_EQ_BASE []
def R.FAULT_EQ_HEAD : RegRef := regRef D.FAULT_EQ_HEAD []
def R.FAULT_EQ_TAIL : RegRef := regRef D.FAULT_EQ_TAIL []
def R.FAULT_EQ_DROP : RegRef := regRef D.FAULT_EQ_DROP []
def R.FAULT_VI_CTL (i : Nat) : RegRef := regRef D.FAULT_VI_CTL [i]
def R.FAULT_HEALTH_CFG : RegRef := regRef D.FAULT_HEALTH_CFG []
def R.FAULT_TILE_MIG : RegRef := regRef D.FAULT_TILE_MIG []
def R.TALUS_CFG (i : Nat) : RegRef := regRef D.TALUS_CFG [i]
def R.TALUS_STAT (i : Nat) : RegRef := regRef D.TALUS_STAT [i]
def R.FAULT_HEALTH (i : Nat) : RegRef := regRef D.FAULT_HEALTH [i]
def R.HOST_LINK (i : Nat) : RegRef := regRef D.HOST_LINK [i]
def R.HOST_VI_CFG (i : Nat) : RegRef := regRef D.HOST_VI_CFG [i]
def R.HOST_AP (i : Nat) : RegRef := regRef D.HOST_AP [i]
def R.HOST_CXLMEM (i : Nat) : RegRef := regRef D.HOST_CXLMEM [i]
def R.HOST_Q_SQ (i : Nat) : RegRef := regRef D.HOST_Q_SQ [i]
def R.HOST_Q_CQ (i : Nat) : RegRef := regRef D.HOST_Q_CQ [i]
def R.HOST_Q_CFG (i : Nat) : RegRef := regRef D.HOST_Q_CFG [i]
def R.HOST_Q_STAT (i : Nat) : RegRef := regRef D.HOST_Q_STAT [i]
def R.HOST_SL_ADDR (i : Nat) : RegRef := regRef D.HOST_SL_ADDR [i]
def R.HOST_SL_BIND (i : Nat) : RegRef := regRef D.HOST_SL_BIND [i]
def R.MMU_VI_S1ROOT (i : Nat) : RegRef := regRef D.MMU_VI_S1ROOT [i]
def R.MMU_VI_FQ_BASE (i : Nat) : RegRef := regRef D.MMU_VI_FQ_BASE [i]
def R.MMU_VI_FQ_HEAD (i : Nat) : RegRef := regRef D.MMU_VI_FQ_HEAD [i]
def R.MMU_VI_FQ_TAIL (i : Nat) : RegRef := regRef D.MMU_VI_FQ_TAIL [i]
def R.MMU_VI_FQ_NOTE (i : Nat) : RegRef := regRef D.MMU_VI_FQ_NOTE [i]
def R.MMU_VI_RESUME (i : Nat) : RegRef := regRef D.MMU_VI_RESUME [i]
def R.MMU_VI_FSTAT (i : Nat) : RegRef := regRef D.MMU_VI_FSTAT [i]
def R.MMU_VI_INVAL (i : Nat) : RegRef := regRef D.MMU_VI_INVAL [i]
def R.MMU_VI_INVAL_STAT (i : Nat) : RegRef := regRef D.MMU_VI_INVAL_STAT [i]
def R.MMU_SVC_LIMIT : RegRef := regRef D.MMU_SVC_LIMIT []
def R.DMA_Q_CFG (i : Nat) : RegRef := regRef D.DMA_Q_CFG [i]
def R.DMA_Q_STAT (i : Nat) : RegRef := regRef D.DMA_Q_STAT [i]
def R.DMA_Q_ERR (i : Nat) : RegRef := regRef D.DMA_Q_ERR [i]
def R.DMA_VI_SRSEED (i j : Nat) : RegRef := regRef D.DMA_VI_SRSEED [i, j]
def R.SIG_CTR (i : Nat) : RegRef := regRef D.SIG_CTR [i]
def R.SIG_ARR (i : Nat) : RegRef := regRef D.SIG_ARR [i]
def R.SIG_VI_CFG (i : Nat) : RegRef := regRef D.SIG_VI_CFG [i]
def R.SIG_VI_STAT (i : Nat) : RegRef := regRef D.SIG_VI_STAT [i]
def R.SIG_VI_DROP (i : Nat) : RegRef := regRef D.SIG_VI_DROP [i]
def R.COL_GRP_CTL (i : Nat) : RegRef := regRef D.COL_GRP_CTL [i]
def R.COL_GRP_ID (i : Nat) : RegRef := regRef D.COL_GRP_ID [i]
def R.COL_GRP_CFG (i : Nat) : RegRef := regRef D.COL_GRP_CFG [i]
def R.COL_GRP_MEMB (i : Nat) : RegRef := regRef D.COL_GRP_MEMB [i]
def R.COL_GRP_RANK (i : Nat) : RegRef := regRef D.COL_GRP_RANK [i]
def R.COL_GRP_SEED0 (i : Nat) : RegRef := regRef D.COL_GRP_SEED0 [i]
def R.COL_GRP_SEED1 (i : Nat) : RegRef := regRef D.COL_GRP_SEED1 [i]
def R.COL_GRP_SEQ (i : Nat) : RegRef := regRef D.COL_GRP_SEQ [i]
def R.COL_GRP_GEN (i : Nat) : RegRef := regRef D.COL_GRP_GEN [i]
def R.COL_GRP_G (i : Nat) : RegRef := regRef D.COL_GRP_G [i]
def R.COL_GRP_STAT (i : Nat) : RegRef := regRef D.COL_GRP_STAT [i]
def R.COL_VI_CFG (i : Nat) : RegRef := regRef D.COL_VI_CFG [i]
def R.COL_JOIN_TMO : RegRef := regRef D.COL_JOIN_TMO []
def R.TARN_UNIT_CFG (i : Nat) : RegRef := regRef D.TARN_UNIT_CFG [i]
def R.TARN_UNIT_STAT (i : Nat) : RegRef := regRef D.TARN_UNIT_STAT [i]
def R.TARN_UNIT_WORDS (i : Nat) : RegRef := regRef D.TARN_UNIT_WORDS [i]
def R.TARN_UNIT_ERR (i : Nat) : RegRef := regRef D.TARN_UNIT_ERR [i]
def R.TARN_VI_WATCH (i j : Nat) : RegRef := regRef D.TARN_VI_WATCH [i, j]
def R.TARN_VI_WATCH_CTL (i : Nat) : RegRef := regRef D.TARN_VI_WATCH_CTL [i]
def R.TARN_VI_WATCH_SUM (i : Nat) : RegRef := regRef D.TARN_VI_WATCH_SUM [i]
def R.TARN_VI_WATCH_NOTE (i : Nat) : RegRef := regRef D.TARN_VI_WATCH_NOTE [i]
def R.TARN_VI_CMP_CFG (i j : Nat) : RegRef := regRef D.TARN_VI_CMP_CFG [i, j]
def R.TARN_VI_CMP_FACTOR (i j : Nat) : RegRef := regRef D.TARN_VI_CMP_FACTOR [i, j]
def R.TARN_VI_CMP_REF (i j : Nat) : RegRef := regRef D.TARN_VI_CMP_REF [i, j]
def R.TARN_VI_CMP_LAST (i j : Nat) : RegRef := regRef D.TARN_VI_CMP_LAST [i, j]
def R.TARN_VI_CMP_STAT (i j : Nat) : RegRef := regRef D.TARN_VI_CMP_STAT [i, j]
def R.DIVIDE_OWN_CFG (i j : Nat) : RegRef := regRef D.DIVIDE_OWN_CFG [i, j]
def R.DIVIDE_OWN_USE (i j : Nat) : RegRef := regRef D.DIVIDE_OWN_USE [i, j]
def R.DIVIDE_BUF_STAT (i : Nat) : RegRef := regRef D.DIVIDE_BUF_STAT [i]
def R.DIVIDE_DROP (i : Nat) : RegRef := regRef D.DIVIDE_DROP [i]
def R.DIVIDE_ERR : RegRef := regRef D.DIVIDE_ERR []
def R.DIVIDE_ARB_REQ (i j : Nat) : RegRef := regRef D.DIVIDE_ARB_REQ [i, j]
def R.DIVIDE_ARB_CLS (i : Nat) : RegRef := regRef D.DIVIDE_ARB_CLS [i]
def R.DIVIDE_ARB_EVT (i : Nat) : RegRef := regRef D.DIVIDE_ARB_EVT [i]
def R.DIVIDE_ARB_NOTE : RegRef := regRef D.DIVIDE_ARB_NOTE []
def R.DIVIDE_MIR_CFG (i : Nat) : RegRef := regRef D.DIVIDE_MIR_CFG [i]
def R.DIVIDE_MIR_STAT (i : Nat) : RegRef := regRef D.DIVIDE_MIR_STAT [i]
def R.DIVIDE_MIR_RBASE : RegRef := regRef D.DIVIDE_MIR_RBASE []
def R.DIVIDE_MIR_RHEAD : RegRef := regRef D.DIVIDE_MIR_RHEAD []
def R.DIVIDE_MIR_RTAIL : RegRef := regRef D.DIVIDE_MIR_RTAIL []
def R.MERE_POOL_CFG (i j : Nat) : RegRef := regRef D.MERE_POOL_CFG [i, j]
def R.MERE_POOL_FREE (i : Nat) : RegRef := regRef D.MERE_POOL_FREE [i]
def R.MERE_ERR : RegRef := regRef D.MERE_ERR []
def R.MERE_REFUSE : RegRef := regRef D.MERE_REFUSE []
def R.MERE_OWN_MIN (i j : Nat) : RegRef := regRef D.MERE_OWN_MIN [i, j]
def R.MERE_OWN_MAX (i : Nat) : RegRef := regRef D.MERE_OWN_MAX [i]
def R.PORT_CTL (i : Nat) : RegRef := regRef D.PORT_CTL [i]
def R.PORT_STAT (i : Nat) : RegRef := regRef D.PORT_STAT [i]
def R.PORT_LANE_MAP (i : Nat) : RegRef := regRef D.PORT_LANE_MAP [i]
def R.PORT_LANE_STAT (i j : Nat) : RegRef := regRef D.PORT_LANE_STAT [i, j]
def R.PORT_PRBS_CTL (i : Nat) : RegRef := regRef D.PORT_PRBS_CTL [i]
def R.PORT_PRBS_ERR (i j : Nat) : RegRef := regRef D.PORT_PRBS_ERR [i, j]
def R.PORT_PRBS_BITS (i : Nat) : RegRef := regRef D.PORT_PRBS_BITS [i]
def R.PORT_FEC_INJ (i : Nat) : RegRef := regRef D.PORT_FEC_INJ [i]
def R.PORT_SWAP_THR (i : Nat) : RegRef := regRef D.PORT_SWAP_THR [i]
def R.PORT_LINK_CFG (i : Nat) : RegRef := regRef D.PORT_LINK_CFG [i]
def R.PORT_LINK_STAT (i : Nat) : RegRef := regRef D.PORT_LINK_STAT [i]
def R.PORT_LINK_NBR (i : Nat) : RegRef := regRef D.PORT_LINK_NBR [i]
def R.PORT_LINK_SER (i : Nat) : RegRef := regRef D.PORT_LINK_SER [i]
def R.PORT_LINK_RTT (i : Nat) : RegRef := regRef D.PORT_LINK_RTT [i]
def R.PORT_LINK_CNT (i : Nat) : RegRef := regRef D.PORT_LINK_CNT [i]
def R.PORT_LINK_REPLAYED (i : Nat) : RegRef := regRef D.PORT_LINK_REPLAYED [i]
def R.PORT_LINK_CRED (i j : Nat) : RegRef := regRef D.PORT_LINK_CRED [i, j]
def R.PORT_ENG_STAT (i : Nat) : RegRef := regRef D.PORT_ENG_STAT [i]
def R.EDGE_CTL (i : Nat) : RegRef := regRef D.EDGE_CTL [i]
def R.EDGE_STAT (i : Nat) : RegRef := regRef D.EDGE_STAT [i]
def R.EDGE_FEC (i : Nat) : RegRef := regRef D.EDGE_FEC [i]
def R.EDGE_CNT (i : Nat) : RegRef := regRef D.EDGE_CNT [i]
def R.EDGE_PRBS_CTL (i : Nat) : RegRef := regRef D.EDGE_PRBS_CTL [i]
def R.EDGE_PRBS_ERR (i j : Nat) : RegRef := regRef D.EDGE_PRBS_ERR [i, j]
def R.EDGE_PRBS_BITS (i : Nat) : RegRef := regRef D.EDGE_PRBS_BITS [i]
def R.EDGE_METRO_PEER (i : Nat) : RegRef := regRef D.EDGE_METRO_PEER [i]
def R.EDGE_METRO_CFG (i : Nat) : RegRef := regRef D.EDGE_METRO_CFG [i]
def R.EDGE_METRO_STAT (i : Nat) : RegRef := regRef D.EDGE_METRO_STAT [i]
def R.EDGE_METRO_CNT (i : Nat) : RegRef := regRef D.EDGE_METRO_CNT [i]
def R.EDGE_METRO_OWN (i : Nat) : RegRef := regRef D.EDGE_METRO_OWN [i]
def R.TILE_STATUS (i : Nat) : RegRef := regRef D.TILE_STATUS [i]
def R.TILE_PC (i : Nat) : RegRef := regRef D.TILE_PC [i]
def R.TILE_BRK (i : Nat) : RegRef := regRef D.TILE_BRK [i]
def R.TILE_TAPE_BASE (i : Nat) : RegRef := regRef D.TILE_TAPE_BASE [i]
def R.TILE_TAPE_SIZE (i : Nat) : RegRef := regRef D.TILE_TAPE_SIZE [i]
def R.TILE_TAPE_HEAD (i : Nat) : RegRef := regRef D.TILE_TAPE_HEAD [i]
def R.TILE_TAPE_TAIL (i : Nat) : RegRef := regRef D.TILE_TAPE_TAIL [i]
def R.TILE_CTL (i : Nat) : RegRef := regRef D.TILE_CTL [i]
def R.TILE_SAVE (i : Nat) : RegRef := regRef D.TILE_SAVE [i]
def R.MGMT_MAINT_CMD : RegRef := regRef D.MGMT_MAINT_CMD []
def R.MGMT_MAINT_SRC : RegRef := regRef D.MGMT_MAINT_SRC []
def R.MGMT_MAINT_STAT : RegRef := regRef D.MGMT_MAINT_STAT []
def R.MGMT_MAINT_WIN (i : Nat) : RegRef := regRef D.MGMT_MAINT_WIN [i]

def F.GLOBAL_DEV_ID_PART : FieldRef := ⟨R.GLOBAL_DEV_ID, 31, 16⟩
def F.GLOBAL_DEV_ID_STEP : FieldRef := ⟨R.GLOBAL_DEV_ID, 15, 8⟩
def F.GLOBAL_TILE_COUNT_FENCED : FieldRef := ⟨R.GLOBAL_TILE_COUNT, 31, 24⟩
def F.GLOBAL_TILE_COUNT_PHYSICAL : FieldRef := ⟨R.GLOBAL_TILE_COUNT, 23, 16⟩
def F.GLOBAL_TILE_COUNT_SPARE : FieldRef := ⟨R.GLOBAL_TILE_COUNT, 15, 8⟩
def F.GLOBAL_TILE_COUNT_LOGICAL : FieldRef := ⟨R.GLOBAL_TILE_COUNT, 7, 0⟩
def F.GLOBAL_TILE_MAP_PTILE (i : Nat) : FieldRef := ⟨R.GLOBAL_TILE_MAP i, 7, 0⟩
def F.GLOBAL_TOPO_ACT_DEV : FieldRef := ⟨R.GLOBAL_TOPO_ACT, 46, 32⟩
def F.GLOBAL_TOPO_ACT_SHAPE : FieldRef := ⟨R.GLOBAL_TOPO_ACT, 19, 17⟩
def F.GLOBAL_TOPO_ACT_VALID : FieldRef := ⟨R.GLOBAL_TOPO_ACT, 16, 16⟩
def F.GLOBAL_TOPO_ACT_EPOCH : FieldRef := ⟨R.GLOBAL_TOPO_ACT, 15, 0⟩
def F.GLOBAL_TOPO_CAND_BASE : FieldRef := ⟨R.GLOBAL_TOPO_CAND, 38, 12⟩
def F.GLOBAL_TOPO_TACT_TACT : FieldRef := ⟨R.GLOBAL_TOPO_TACT, 63, 0⟩
def F.GLOBAL_TOPO_CMD_CMD : FieldRef := ⟨R.GLOBAL_TOPO_CMD, 3, 0⟩
def F.GLOBAL_TOPO_SWEEP_SWEEPS : FieldRef := ⟨R.GLOBAL_TOPO_SWEEP, 31, 16⟩
def F.GLOBAL_TOPO_SWEEP_LEADER : FieldRef := ⟨R.GLOBAL_TOPO_SWEEP, 3, 3⟩
def F.GLOBAL_TOPO_SWEEP_RESULT : FieldRef := ⟨R.GLOBAL_TOPO_SWEEP, 2, 0⟩
def F.MGMT_BOOT_STAT_CODE : FieldRef := ⟨R.MGMT_BOOT_STAT, 23, 16⟩
def F.MGMT_BOOT_STAT_SLOT : FieldRef := ⟨R.MGMT_BOOT_STAT, 8, 8⟩
def F.MGMT_BOOT_STAT_STAGE : FieldRef := ⟨R.MGMT_BOOT_STAT, 3, 0⟩
def F.MGMT_RST_CMD : FieldRef := ⟨R.MGMT_RST, 3, 0⟩
def F.MGMT_PROF_CTL_SLOT : FieldRef := ⟨R.MGMT_PROF_CTL, 5, 4⟩
def F.MGMT_PROF_CTL_CMD : FieldRef := ⟨R.MGMT_PROF_CTL, 3, 0⟩
def F.MGMT_PROF_STAT_ENTRY : FieldRef := ⟨R.MGMT_PROF_STAT, 31, 16⟩
def F.MGMT_PROF_STAT_CODE : FieldRef := ⟨R.MGMT_PROF_STAT, 15, 8⟩
def F.MGMT_PROF_STAT_BUSY : FieldRef := ⟨R.MGMT_PROF_STAT, 3, 3⟩
def F.MGMT_PROF_STAT_VALID : FieldRef := ⟨R.MGMT_PROF_STAT, 2, 2⟩
def F.MGMT_PROF_STAT_ACTIVE : FieldRef := ⟨R.MGMT_PROF_STAT, 1, 0⟩
def F.MGMT_EXPERT_GLOBAL : FieldRef := ⟨R.MGMT_EXPERT, 31, 31⟩
def F.MGMT_EXPERT_LOCK : FieldRef := ⟨R.MGMT_EXPERT, 30, 30⟩
def F.MGMT_EXPERT_VI : FieldRef := ⟨R.MGMT_EXPERT, 15, 0⟩
def F.MGMT_SPI_STAT_OVERCLK : FieldRef := ⟨R.MGMT_SPI_STAT, 31, 24⟩
def F.MGMT_SPI_STAT_CRC_ERR : FieldRef := ⟨R.MGMT_SPI_STAT, 23, 16⟩
def F.MGMT_SPI_STAT_FRAME_ERR : FieldRef := ⟨R.MGMT_SPI_STAT, 15, 0⟩
def F.MGMT_VI_CTL_CODE (i : Nat) : FieldRef := ⟨R.MGMT_VI_CTL i, 23, 16⟩
def F.MGMT_VI_CTL_LOADED (i : Nat) : FieldRef := ⟨R.MGMT_VI_CTL i, 9, 9⟩
def F.MGMT_VI_CTL_PRESENT (i : Nat) : FieldRef := ⟨R.MGMT_VI_CTL i, 8, 8⟩
def F.MGMT_VI_CTL_CMD (i : Nat) : FieldRef := ⟨R.MGMT_VI_CTL i, 3, 0⟩
def F.MGMT_VI_CFG_DESC (i : Nat) : FieldRef := ⟨R.MGMT_VI_CFG i, 30, 18⟩
def F.MGMT_VI_CFG_HBM (i : Nat) : FieldRef := ⟨R.MGMT_VI_CFG i, 17, 0⟩
def F.MGMT_VI_MANIFEST_IPA (i : Nat) : FieldRef := ⟨R.MGMT_VI_MANIFEST i, 38, 12⟩
def F.MGMT_VI_TILES_MASK (i j : Nat) : FieldRef := ⟨R.MGMT_VI_TILES i j, 63, 0⟩
def F.CLKPWR_PCAP_CAP : FieldRef := ⟨R.CLKPWR_PCAP, 15, 0⟩
def F.CLKPWR_PWR_CEIL : FieldRef := ⟨R.CLKPWR_PWR, 31, 16⟩
def F.CLKPWR_PWR_PWR : FieldRef := ⟨R.CLKPWR_PWR, 15, 0⟩
def F.CLKPWR_TCLK_MAX (i : Nat) : FieldRef := ⟨R.CLKPWR_TCLK i, 15, 0⟩
def F.CLKPWR_THERM_TMAX : FieldRef := ⟨R.CLKPWR_THERM, 63, 56⟩
def F.CLKPWR_THERM_CRITSEEN : FieldRef := ⟨R.CLKPWR_THERM, 50, 50⟩
def F.CLKPWR_THERM_THROTSEEN : FieldRef := ⟨R.CLKPWR_THERM, 49, 49⟩
def F.CLKPWR_THERM_ALERT : FieldRef := ⟨R.CLKPWR_THERM, 48, 48⟩
def F.CLKPWR_THERM_CRIT : FieldRef := ⟨R.CLKPWR_THERM, 23, 16⟩
def F.CLKPWR_THERM_THROT : FieldRef := ⟨R.CLKPWR_THERM, 15, 8⟩
def F.CLKPWR_THERM_WARN : FieldRef := ⟨R.CLKPWR_THERM, 7, 0⟩
def F.CLKPWR_REF_PPSW : FieldRef := ⟨R.CLKPWR_REF, 15, 8⟩
def F.CLKPWR_REF_ACTIVE : FieldRef := ⟨R.CLKPWR_REF, 4, 4⟩
def F.CLKPWR_REF_FAILOVER : FieldRef := ⟨R.CLKPWR_REF, 3, 3⟩
def F.CLKPWR_REF_LOS1 : FieldRef := ⟨R.CLKPWR_REF, 2, 2⟩
def F.CLKPWR_REF_LOS0 : FieldRef := ⟨R.CLKPWR_REF, 1, 1⟩
def F.CLKPWR_REF_SEL : FieldRef := ⟨R.CLKPWR_REF, 0, 0⟩
def F.CLKPWR_VF_MV (i : Nat) : FieldRef := ⟨R.CLKPWR_VF i, 9, 0⟩
def F.CLKPWR_RAIL_STAT_FAILOVERS : FieldRef := ⟨R.CLKPWR_RAIL_STAT, 23, 16⟩
def F.CLKPWR_RAIL_STAT_REFLOSS : FieldRef := ⟨R.CLKPWR_RAIL_STAT, 11, 11⟩
def F.CLKPWR_RAIL_STAT_AVSFAIL : FieldRef := ⟨R.CLKPWR_RAIL_STAT, 10, 10⟩
def F.CLKPWR_RAIL_STAT_BROWN : FieldRef := ⟨R.CLKPWR_RAIL_STAT, 8, 0⟩
def F.CLKPWR_GPIO_OE : FieldRef := ⟨R.CLKPWR_GPIO, 15, 8⟩
def F.CLKPWR_GPIO_VAL : FieldRef := ⟨R.CLKPWR_GPIO, 7, 0⟩
def F.TELEM_TIME_NS : FieldRef := ⟨R.TELEM_TIME, 63, 0⟩
def F.TELEM_TIME_CTL_LOCKED : FieldRef := ⟨R.TELEM_TIME_CTL, 31, 31⟩
def F.TELEM_TIME_CTL_HOLD : FieldRef := ⟨R.TELEM_TIME_CTL, 30, 30⟩
def F.TELEM_TIME_CTL_SRC : FieldRef := ⟨R.TELEM_TIME_CTL, 29, 28⟩
def F.TELEM_TIME_CTL_PPSOUT : FieldRef := ⟨R.TELEM_TIME_CTL, 27, 27⟩
def F.TELEM_TIME_CTL_SETERR : FieldRef := ⟨R.TELEM_TIME_CTL, 1, 1⟩
def F.TELEM_TIME_CTL_STEPPED : FieldRef := ⟨R.TELEM_TIME_CTL, 0, 0⟩
def F.TELEM_TIME_SET_NS : FieldRef := ⟨R.TELEM_TIME_SET, 63, 0⟩
def F.TELEM_TIME_OFS_OFS : FieldRef := ⟨R.TELEM_TIME_OFS, 31, 0⟩
def F.TELEM_SNAP_CTL_TRIGOUT : FieldRef := ⟨R.TELEM_SNAP_CTL, 31, 31⟩
def F.TELEM_SNAP_CTL_CMD : FieldRef := ⟨R.TELEM_SNAP_CTL, 16, 16⟩
def F.TELEM_SNAP_CTL_EN : FieldRef := ⟨R.TELEM_SNAP_CTL, 4, 0⟩
def F.TELEM_SNAP_AT_AT : FieldRef := ⟨R.TELEM_SNAP_AT, 63, 0⟩
def F.TELEM_SNAP_STAT_SEQ : FieldRef := ⟨R.TELEM_SNAP_STAT, 63, 32⟩
def F.TELEM_SNAP_STAT_MISSED : FieldRef := ⟨R.TELEM_SNAP_STAT, 31, 20⟩
def F.TELEM_SNAP_STAT_DROPPED : FieldRef := ⟨R.TELEM_SNAP_STAT, 19, 8⟩
def F.TELEM_SNAP_STAT_LATE : FieldRef := ⟨R.TELEM_SNAP_STAT, 2, 2⟩
def F.TELEM_SNAP_STAT_ARMED : FieldRef := ⟨R.TELEM_SNAP_STAT, 1, 1⟩
def F.TELEM_SNAP_STAT_BUSY : FieldRef := ⟨R.TELEM_SNAP_STAT, 0, 0⟩
def F.TELEM_SNAP_RBASE_BASE : FieldRef := ⟨R.TELEM_SNAP_RBASE, 38, 12⟩
def F.TELEM_SNAP_RBASE_SIZE : FieldRef := ⟨R.TELEM_SNAP_RBASE, 3, 0⟩
def F.TELEM_SNAP_RHEAD_HEAD : FieldRef := ⟨R.TELEM_SNAP_RHEAD, 31, 0⟩
def F.TELEM_SNAP_RTAIL_TAIL : FieldRef := ⟨R.TELEM_SNAP_RTAIL, 31, 0⟩
def F.TELEM_CTR_CFG_THR (i : Nat) : FieldRef := ⟨R.TELEM_CTR_CFG i, 63, 40⟩
def F.TELEM_CTR_CFG_INST (i : Nat) : FieldRef := ⟨R.TELEM_CTR_CFG i, 39, 28⟩
def F.TELEM_CTR_CFG_VI (i : Nat) : FieldRef := ⟨R.TELEM_CTR_CFG i, 27, 24⟩
def F.TELEM_CTR_CFG_VIEN (i : Nat) : FieldRef := ⟨R.TELEM_CTR_CFG i, 23, 23⟩
def F.TELEM_CTR_CFG_MODE (i : Nat) : FieldRef := ⟨R.TELEM_CTR_CFG i, 22, 22⟩
def F.TELEM_CTR_CFG_THREN (i : Nat) : FieldRef := ⟨R.TELEM_CTR_CFG i, 21, 21⟩
def F.TELEM_CTR_CFG_EN (i : Nat) : FieldRef := ⟨R.TELEM_CTR_CFG i, 20, 20⟩
def F.TELEM_CTR_CFG_BLOCK (i : Nat) : FieldRef := ⟨R.TELEM_CTR_CFG i, 15, 8⟩
def F.TELEM_CTR_CFG_EVENT (i : Nat) : FieldRef := ⟨R.TELEM_CTR_CFG i, 7, 0⟩
def F.TELEM_CTR_OVF (i : Nat) : FieldRef := ⟨R.TELEM_CTR i, 48, 48⟩
def F.TELEM_CTR_VALUE (i : Nat) : FieldRef := ⟨R.TELEM_CTR i, 47, 0⟩
def F.TELEM_PHASE_PHASE (i : Nat) : FieldRef := ⟨R.TELEM_PHASE i, 63, 48⟩
def F.TELEM_PHASE_START (i : Nat) : FieldRef := ⟨R.TELEM_PHASE i, 47, 0⟩
def F.TELEM_VI_REC_CTL_MODE (i : Nat) : FieldRef := ⟨R.TELEM_VI_REC_CTL i, 31, 30⟩
def F.TELEM_VI_REC_CTL_PHASEEN (i : Nat) : FieldRef := ⟨R.TELEM_VI_REC_CTL i, 29, 29⟩
def F.TELEM_VI_REC_CTL_SNAPEN (i : Nat) : FieldRef := ⟨R.TELEM_VI_REC_CTL i, 28, 28⟩
def F.TELEM_VI_REC_CTL_INPUTEN (i : Nat) : FieldRef := ⟨R.TELEM_VI_REC_CTL i, 27, 27⟩
def F.TELEM_VI_REC_CTL_LIVETIME (i : Nat) : FieldRef := ⟨R.TELEM_VI_REC_CTL i, 26, 26⟩
def F.TELEM_VI_REC_CTL_GAPS (i : Nat) : FieldRef := ⟨R.TELEM_VI_REC_CTL i, 2, 2⟩
def F.TELEM_VI_REC_CTL_DIVERGE (i : Nat) : FieldRef := ⟨R.TELEM_VI_REC_CTL i, 1, 1⟩
def F.TELEM_VI_REC_CTL_END (i : Nat) : FieldRef := ⟨R.TELEM_VI_REC_CTL i, 0, 0⟩
def F.TELEM_VI_REC_BASE_BASE (i : Nat) : FieldRef := ⟨R.TELEM_VI_REC_BASE i, 38, 12⟩
def F.TELEM_VI_REC_BASE_SIZE (i : Nat) : FieldRef := ⟨R.TELEM_VI_REC_BASE i, 3, 0⟩
def F.TELEM_VI_REC_HEAD_HEAD (i : Nat) : FieldRef := ⟨R.TELEM_VI_REC_HEAD i, 31, 0⟩
def F.TELEM_VI_REC_TAIL_TAIL (i : Nat) : FieldRef := ⟨R.TELEM_VI_REC_TAIL i, 31, 0⟩
def F.FAULT_DEV_STAT_CUNIT : FieldRef := ⟨R.FAULT_DEV_STAT, 23, 16⟩
def F.FAULT_DEV_STAT_EQOVF : FieldRef := ⟨R.FAULT_DEV_STAT, 3, 3⟩
def F.FAULT_DEV_STAT_PRED : FieldRef := ⟨R.FAULT_DEV_STAT, 2, 2⟩
def F.FAULT_DEV_STAT_DEVICE_FAULT : FieldRef := ⟨R.FAULT_DEV_STAT, 1, 1⟩
def F.FAULT_DEV_NOTE_MSIEN : FieldRef := ⟨R.FAULT_DEV_NOTE, 31, 31⟩
def F.FAULT_DEV_NOTE_VEC : FieldRef := ⟨R.FAULT_DEV_NOTE, 10, 0⟩
def F.FAULT_EQ_BASE_BASE : FieldRef := ⟨R.FAULT_EQ_BASE, 38, 12⟩
def F.FAULT_EQ_BASE_SIZE : FieldRef := ⟨R.FAULT_EQ_BASE, 3, 0⟩
def F.FAULT_EQ_HEAD_HEAD : FieldRef := ⟨R.FAULT_EQ_HEAD, 20, 0⟩
def F.FAULT_EQ_TAIL_TAIL : FieldRef := ⟨R.FAULT_EQ_TAIL, 20, 0⟩
def F.FAULT_EQ_DROP_DROP : FieldRef := ⟨R.FAULT_EQ_DROP, 31, 0⟩
def F.FAULT_VI_CTL_RESETS (i : Nat) : FieldRef := ⟨R.FAULT_VI_CTL i, 63, 48⟩
def F.FAULT_VI_CTL_QUIESCE (i : Nat) : FieldRef := ⟨R.FAULT_VI_CTL i, 47, 32⟩
def F.FAULT_VI_CTL_INC (i : Nat) : FieldRef := ⟨R.FAULT_VI_CTL i, 31, 24⟩
def F.FAULT_VI_CTL_CAUSE (i : Nat) : FieldRef := ⟨R.FAULT_VI_CTL i, 23, 16⟩
def F.FAULT_VI_CTL_STATE (i : Nat) : FieldRef := ⟨R.FAULT_VI_CTL i, 9, 8⟩
def F.FAULT_VI_CTL_CMD (i : Nat) : FieldRef := ⟨R.FAULT_VI_CTL i, 3, 0⟩
def F.FAULT_HEALTH_CFG_DECAY : FieldRef := ⟨R.FAULT_HEALTH_CFG, 3, 0⟩
def F.FAULT_TILE_MIG_STATUS : FieldRef := ⟨R.FAULT_TILE_MIG, 18, 16⟩
def F.FAULT_TILE_MIG_PTILE : FieldRef := ⟨R.FAULT_TILE_MIG, 15, 8⟩
def F.FAULT_TILE_MIG_CMD : FieldRef := ⟨R.FAULT_TILE_MIG, 3, 0⟩
def F.TALUS_CFG_COUNT (i : Nat) : FieldRef := ⟨R.TALUS_CFG i, 63, 40⟩
def F.TALUS_CFG_BASE (i : Nat) : FieldRef := ⟨R.TALUS_CFG i, 38, 12⟩
def F.TALUS_STAT_RECORDS (i : Nat) : FieldRef := ⟨R.TALUS_STAT i, 63, 32⟩
def F.TALUS_STAT_REPLAYS (i : Nat) : FieldRef := ⟨R.TALUS_STAT i, 31, 0⟩
def F.FAULT_HEALTH_ARMED (i : Nat) : FieldRef := ⟨R.FAULT_HEALTH i, 17, 17⟩
def F.FAULT_HEALTH_PRED (i : Nat) : FieldRef := ⟨R.FAULT_HEALTH i, 16, 16⟩
def F.FAULT_HEALTH_SCORE (i : Nat) : FieldRef := ⟨R.FAULT_HEALTH i, 9, 0⟩
def F.HOST_LINK_UNMAPPED (i : Nat) : FieldRef := ⟨R.HOST_LINK i, 63, 32⟩
def F.HOST_LINK_LINKUP (i : Nat) : FieldRef := ⟨R.HOST_LINK i, 31, 31⟩
def F.HOST_LINK_CXL (i : Nat) : FieldRef := ⟨R.HOST_LINK i, 30, 30⟩
def F.HOST_LINK_CACHEEN (i : Nat) : FieldRef := ⟨R.HOST_LINK i, 29, 29⟩
def F.HOST_LINK_MEMEN (i : Nat) : FieldRef := ⟨R.HOST_LINK i, 28, 28⟩
def F.HOST_LINK_MODE (i : Nat) : FieldRef := ⟨R.HOST_LINK i, 16, 16⟩
def F.HOST_LINK_BADVEC (i : Nat) : FieldRef := ⟨R.HOST_LINK i, 15, 0⟩
def F.HOST_VI_CFG_LINK (i : Nat) : FieldRef := ⟨R.HOST_VI_CFG i, 50, 50⟩
def F.HOST_VI_CFG_QBASE (i : Nat) : FieldRef := ⟨R.HOST_VI_CFG i, 49, 41⟩
def F.HOST_VI_CFG_QCOUNT (i : Nat) : FieldRef := ⟨R.HOST_VI_CFG i, 40, 34⟩
def F.HOST_VI_CFG_VBASE (i : Nat) : FieldRef := ⟨R.HOST_VI_CFG i, 33, 23⟩
def F.HOST_VI_CFG_VCOUNT (i : Nat) : FieldRef := ⟨R.HOST_VI_CFG i, 22, 11⟩
def F.HOST_AP_EN (i : Nat) : FieldRef := ⟨R.HOST_AP i, 63, 63⟩
def F.HOST_AP_VI (i : Nat) : FieldRef := ⟨R.HOST_AP i, 62, 59⟩
def F.HOST_AP_OFF (i : Nat) : FieldRef := ⟨R.HOST_AP i, 58, 41⟩
def F.HOST_AP_SIZE (i : Nat) : FieldRef := ⟨R.HOST_AP i, 40, 23⟩
def F.HOST_AP_IPABASE (i : Nat) : FieldRef := ⟨R.HOST_AP i, 22, 5⟩
def F.HOST_CXLMEM_SIZE (i : Nat) : FieldRef := ⟨R.HOST_CXLMEM i, 15, 8⟩
def F.HOST_CXLMEM_BASE (i : Nat) : FieldRef := ⟨R.HOST_CXLMEM i, 7, 0⟩
def F.HOST_Q_SQ_BASE (i : Nat) : FieldRef := ⟨R.HOST_Q_SQ i, 63, 12⟩
def F.HOST_Q_SQ_SIZE (i : Nat) : FieldRef := ⟨R.HOST_Q_SQ i, 3, 0⟩
def F.HOST_Q_CQ_BASE (i : Nat) : FieldRef := ⟨R.HOST_Q_CQ i, 63, 12⟩
def F.HOST_Q_CQ_SIZE (i : Nat) : FieldRef := ⟨R.HOST_Q_CQ i, 3, 0⟩
def F.HOST_Q_CFG_EN (i : Nat) : FieldRef := ⟨R.HOST_Q_CFG i, 31, 31⟩
def F.HOST_Q_CFG_MODE (i : Nat) : FieldRef := ⟨R.HOST_Q_CFG i, 30, 29⟩
def F.HOST_Q_CFG_CC (i : Nat) : FieldRef := ⟨R.HOST_Q_CFG i, 28, 28⟩
def F.HOST_Q_CFG_IEN (i : Nat) : FieldRef := ⟨R.HOST_Q_CFG i, 27, 27⟩
def F.HOST_Q_CFG_VEC (i : Nat) : FieldRef := ⟨R.HOST_Q_CFG i, 26, 16⟩
def F.HOST_Q_CFG_WEIGHT (i : Nat) : FieldRef := ⟨R.HOST_Q_CFG i, 15, 12⟩
def F.HOST_Q_STAT_OUT (i : Nat) : FieldRef := ⟨R.HOST_Q_STAT i, 63, 48⟩
def F.HOST_Q_STAT_ERR (i : Nat) : FieldRef := ⟨R.HOST_Q_STAT i, 47, 44⟩
def F.HOST_Q_STAT_STOP (i : Nat) : FieldRef := ⟨R.HOST_Q_STAT i, 43, 43⟩
def F.HOST_Q_STAT_CQTAIL (i : Nat) : FieldRef := ⟨R.HOST_Q_STAT i, 37, 19⟩
def F.HOST_Q_STAT_SQHEAD (i : Nat) : FieldRef := ⟨R.HOST_Q_STAT i, 18, 0⟩
def F.HOST_SL_ADDR_ADDR (i : Nat) : FieldRef := ⟨R.HOST_SL_ADDR i, 63, 6⟩
def F.HOST_SL_BIND_EN (i : Nat) : FieldRef := ⟨R.HOST_SL_BIND i, 63, 63⟩
def F.HOST_SL_BIND_VI (i : Nat) : FieldRef := ⟨R.HOST_SL_BIND i, 62, 59⟩
def F.HOST_SL_BIND_FIRST (i : Nat) : FieldRef := ⟨R.HOST_SL_BIND i, 58, 44⟩
def F.MMU_VI_S1ROOT_ROOT (i : Nat) : FieldRef := ⟨R.MMU_VI_S1ROOT i, 38, 12⟩
def F.MMU_VI_S1ROOT_EN (i : Nat) : FieldRef := ⟨R.MMU_VI_S1ROOT i, 0, 0⟩
def F.MMU_VI_FQ_BASE_BASE (i : Nat) : FieldRef := ⟨R.MMU_VI_FQ_BASE i, 38, 12⟩
def F.MMU_VI_FQ_BASE_SIZE (i : Nat) : FieldRef := ⟨R.MMU_VI_FQ_BASE i, 3, 0⟩
def F.MMU_VI_FQ_HEAD_HEAD (i : Nat) : FieldRef := ⟨R.MMU_VI_FQ_HEAD i, 18, 0⟩
def F.MMU_VI_FQ_TAIL_TAIL (i : Nat) : FieldRef := ⟨R.MMU_VI_FQ_TAIL i, 18, 0⟩
def F.MMU_VI_FQ_NOTE_MSIEN (i : Nat) : FieldRef := ⟨R.MMU_VI_FQ_NOTE i, 31, 31⟩
def F.MMU_VI_FQ_NOTE_VEC (i : Nat) : FieldRef := ⟨R.MMU_VI_FQ_NOTE i, 26, 16⟩
def F.MMU_VI_FQ_NOTE_SIGEN (i : Nat) : FieldRef := ⟨R.MMU_VI_FQ_NOTE i, 15, 15⟩
def F.MMU_VI_FQ_NOTE_SIGCTR (i : Nat) : FieldRef := ⟨R.MMU_VI_FQ_NOTE i, 14, 0⟩
def F.MMU_VI_RESUME_INC (i : Nat) : FieldRef := ⟨R.MMU_VI_RESUME i, 47, 40⟩
def F.MMU_VI_RESUME_ACTION (i : Nat) : FieldRef := ⟨R.MMU_VI_RESUME i, 33, 32⟩
def F.MMU_VI_RESUME_FAULT_ID (i : Nat) : FieldRef := ⟨R.MMU_VI_RESUME i, 31, 0⟩
def F.MMU_VI_FSTAT_PEND (i : Nat) : FieldRef := ⟨R.MMU_VI_FSTAT i, 31, 16⟩
def F.MMU_VI_FSTAT_RLOST (i : Nat) : FieldRef := ⟨R.MMU_VI_FSTAT i, 4, 4⟩
def F.MMU_VI_FSTAT_BADRES (i : Nat) : FieldRef := ⟨R.MMU_VI_FSTAT i, 3, 3⟩
def F.MMU_VI_FSTAT_HELD (i : Nat) : FieldRef := ⟨R.MMU_VI_FSTAT i, 2, 2⟩
def F.MMU_VI_FSTAT_QFULL (i : Nat) : FieldRef := ⟨R.MMU_VI_FSTAT i, 1, 1⟩
def F.MMU_VI_FSTAT_IOVF (i : Nat) : FieldRef := ⟨R.MMU_VI_FSTAT i, 0, 0⟩
def F.MMU_VI_INVAL_VPN (i : Nat) : FieldRef := ⟨R.MMU_VI_INVAL i, 47, 12⟩
def F.MMU_VI_INVAL_ALL (i : Nat) : FieldRef := ⟨R.MMU_VI_INVAL i, 0, 0⟩
def F.MMU_VI_INVAL_STAT_BUSY (i : Nat) : FieldRef := ⟨R.MMU_VI_INVAL_STAT i, 0, 0⟩
def F.MMU_SVC_LIMIT_LIMIT : FieldRef := ⟨R.MMU_SVC_LIMIT, 13, 0⟩
def F.DMA_Q_CFG_EN (i : Nat) : FieldRef := ⟨R.DMA_Q_CFG i, 31, 31⟩
def F.DMA_Q_CFG_VI (i : Nat) : FieldRef := ⟨R.DMA_Q_CFG i, 27, 24⟩
def F.DMA_Q_CFG_DEPTH (i : Nat) : FieldRef := ⟨R.DMA_Q_CFG i, 23, 20⟩
def F.DMA_Q_CFG_ENGINE (i : Nat) : FieldRef := ⟨R.DMA_Q_CFG i, 19, 14⟩
def F.DMA_Q_CFG_WEIGHT (i : Nat) : FieldRef := ⟨R.DMA_Q_CFG i, 13, 10⟩
def F.DMA_Q_CFG_LQ (i : Nat) : FieldRef := ⟨R.DMA_Q_CFG i, 9, 0⟩
def F.DMA_Q_STAT_OUT (i : Nat) : FieldRef := ⟨R.DMA_Q_STAT i, 44, 32⟩
def F.DMA_Q_STAT_DONE (i : Nat) : FieldRef := ⟨R.DMA_Q_STAT i, 31, 0⟩
def F.DMA_Q_ERR_ERRCNT (i : Nat) : FieldRef := ⟨R.DMA_Q_ERR i, 63, 48⟩
def F.DMA_Q_ERR_INC (i : Nat) : FieldRef := ⟨R.DMA_Q_ERR i, 47, 40⟩
def F.DMA_Q_ERR_OVERLAP (i : Nat) : FieldRef := ⟨R.DMA_Q_ERR i, 37, 37⟩
def F.DMA_Q_ERR_VALID (i : Nat) : FieldRef := ⟨R.DMA_Q_ERR i, 36, 36⟩
def F.DMA_Q_ERR_STATUS (i : Nat) : FieldRef := ⟨R.DMA_Q_ERR i, 35, 32⟩
def F.DMA_Q_ERR_SEQ (i : Nat) : FieldRef := ⟨R.DMA_Q_ERR i, 31, 0⟩
def F.DMA_VI_SRSEED_K (i j : Nat) : FieldRef := ⟨R.DMA_VI_SRSEED i j, 31, 0⟩
def F.SIG_CTR_DRIFT (i : Nat) : FieldRef := ⟨R.SIG_CTR i, 34, 34⟩
def F.SIG_CTR_UNF (i : Nat) : FieldRef := ⟨R.SIG_CTR i, 33, 33⟩
def F.SIG_CTR_OVF (i : Nat) : FieldRef := ⟨R.SIG_CTR i, 32, 32⟩
def F.SIG_CTR_VALUE (i : Nat) : FieldRef := ⟨R.SIG_CTR i, 31, 0⟩
def F.SIG_ARR_ARRIVED (i : Nat) : FieldRef := ⟨R.SIG_ARR i, 31, 0⟩
def F.SIG_VI_CFG_COUNT (i : Nat) : FieldRef := ⟨R.SIG_VI_CFG i, 31, 16⟩
def F.SIG_VI_CFG_BASE (i : Nat) : FieldRef := ⟨R.SIG_VI_CFG i, 14, 0⟩
def F.SIG_VI_STAT_EVT (i : Nat) : FieldRef := ⟨R.SIG_VI_STAT i, 48, 48⟩
def F.SIG_VI_STAT_NACK (i : Nat) : FieldRef := ⟨R.SIG_VI_STAT i, 47, 32⟩
def F.SIG_VI_DROP_DROP (i : Nat) : FieldRef := ⟨R.SIG_VI_DROP i, 31, 0⟩
def F.COL_GRP_CTL_STATE (i : Nat) : FieldRef := ⟨R.COL_GRP_CTL i, 11, 8⟩
def F.COL_GRP_CTL_CMD (i : Nat) : FieldRef := ⟨R.COL_GRP_CTL i, 3, 0⟩
def F.COL_GRP_ID_GID (i : Nat) : FieldRef := ⟨R.COL_GRP_ID i, 31, 0⟩
def F.COL_GRP_CFG_REPORT_ONLY (i : Nat) : FieldRef := ⟨R.COL_GRP_CFG i, 57, 57⟩
def F.COL_GRP_CFG_STALLPOL (i : Nat) : FieldRef := ⟨R.COL_GRP_CFG i, 56, 56⟩
def F.COL_GRP_CFG_STALL (i : Nat) : FieldRef := ⟨R.COL_GRP_CFG i, 55, 46⟩
def F.COL_GRP_CFG_FEAT (i : Nat) : FieldRef := ⟨R.COL_GRP_CFG i, 45, 30⟩
def F.COL_GRP_CFG_REALIGN (i : Nat) : FieldRef := ⟨R.COL_GRP_CFG i, 29, 26⟩
def F.COL_GRP_CFG_WEIGHT (i : Nat) : FieldRef := ⟨R.COL_GRP_CFG i, 25, 22⟩
def F.COL_GRP_CFG_WIDTH (i : Nat) : FieldRef := ⟨R.COL_GRP_CFG i, 21, 20⟩
def F.COL_GRP_CFG_MODE (i : Nat) : FieldRef := ⟨R.COL_GRP_CFG i, 19, 17⟩
def F.COL_GRP_CFG_CUT (i : Nat) : FieldRef := ⟨R.COL_GRP_CFG i, 16, 14⟩
def F.COL_GRP_MEMB_TBL (i : Nat) : FieldRef := ⟨R.COL_GRP_MEMB i, 38, 12⟩
def F.COL_GRP_RANK_N (i : Nat) : FieldRef := ⟨R.COL_GRP_RANK i, 31, 16⟩
def F.COL_GRP_RANK_RANK (i : Nat) : FieldRef := ⟨R.COL_GRP_RANK i, 14, 0⟩
def F.COL_GRP_SEED0_K1 (i : Nat) : FieldRef := ⟨R.COL_GRP_SEED0 i, 63, 32⟩
def F.COL_GRP_SEED0_K0 (i : Nat) : FieldRef := ⟨R.COL_GRP_SEED0 i, 31, 0⟩
def F.COL_GRP_SEED1_K3 (i : Nat) : FieldRef := ⟨R.COL_GRP_SEED1 i, 63, 32⟩
def F.COL_GRP_SEED1_K2 (i : Nat) : FieldRef := ⟨R.COL_GRP_SEED1 i, 31, 0⟩
def F.COL_GRP_SEQ_SEQPOS (i : Nat) : FieldRef := ⟨R.COL_GRP_SEQ i, 24, 0⟩
def F.COL_GRP_GEN_LIVE (i : Nat) : FieldRef := ⟨R.COL_GRP_GEN i, 36, 32⟩
def F.COL_GRP_GEN_NEXT (i : Nat) : FieldRef := ⟨R.COL_GRP_GEN i, 31, 0⟩
def F.COL_GRP_G_GV (i : Nat) : FieldRef := ⟨R.COL_GRP_G i, 12, 12⟩
def F.COL_GRP_G_G (i : Nat) : FieldRef := ⟨R.COL_GRP_G i, 11, 0⟩
def F.COL_GRP_STAT_REPLAYS (i : Nat) : FieldRef := ⟨R.COL_GRP_STAT i, 63, 48⟩
def F.COL_GRP_STAT_ABORTS (i : Nat) : FieldRef := ⟨R.COL_GRP_STAT i, 47, 32⟩
def F.COL_GRP_STAT_EXRANK (i : Nat) : FieldRef := ⟨R.COL_GRP_STAT i, 30, 16⟩
def F.COL_GRP_STAT_NOSTAT (i : Nat) : FieldRef := ⟨R.COL_GRP_STAT i, 10, 10⟩
def F.COL_GRP_STAT_EXCL (i : Nat) : FieldRef := ⟨R.COL_GRP_STAT i, 9, 9⟩
def F.COL_GRP_STAT_STALL (i : Nat) : FieldRef := ⟨R.COL_GRP_STAT i, 8, 8⟩
def F.COL_GRP_STAT_CODE (i : Nat) : FieldRef := ⟨R.COL_GRP_STAT i, 7, 0⟩
def F.COL_VI_CFG_COUNT (i : Nat) : FieldRef := ⟨R.COL_VI_CFG i, 26, 16⟩
def F.COL_VI_CFG_BASE (i : Nat) : FieldRef := ⟨R.COL_VI_CFG i, 9, 0⟩
def F.COL_JOIN_TMO_MS : FieldRef := ⟨R.COL_JOIN_TMO, 15, 0⟩
def F.TARN_UNIT_CFG_EN (i : Nat) : FieldRef := ⟨R.TARN_UNIT_CFG i, 0, 0⟩
def F.TARN_UNIT_STAT_DEEP (i : Nat) : FieldRef := ⟨R.TARN_UNIT_STAT i, 16, 11⟩
def F.TARN_UNIT_STAT_WIN (i : Nat) : FieldRef := ⟨R.TARN_UNIT_STAT i, 10, 6⟩
def F.TARN_UNIT_STAT_SPILL (i : Nat) : FieldRef := ⟨R.TARN_UNIT_STAT i, 1, 1⟩
def F.TARN_UNIT_STAT_FENCED (i : Nat) : FieldRef := ⟨R.TARN_UNIT_STAT i, 0, 0⟩
def F.TARN_UNIT_WORDS_WORDS (i : Nat) : FieldRef := ⟨R.TARN_UNIT_WORDS i, 63, 0⟩
def F.TARN_UNIT_ERR_OVFCNT (i : Nat) : FieldRef := ⟨R.TARN_UNIT_ERR i, 63, 48⟩
def F.TARN_UNIT_ERR_INC (i : Nat) : FieldRef := ⟨R.TARN_UNIT_ERR i, 47, 40⟩
def F.TARN_UNIT_ERR_VI (i : Nat) : FieldRef := ⟨R.TARN_UNIT_ERR i, 39, 36⟩
def F.TARN_UNIT_ERR_OVERLAP (i : Nat) : FieldRef := ⟨R.TARN_UNIT_ERR i, 33, 33⟩
def F.TARN_UNIT_ERR_VALID (i : Nat) : FieldRef := ⟨R.TARN_UNIT_ERR i, 32, 32⟩
def F.TARN_UNIT_ERR_CODE (i : Nat) : FieldRef := ⟨R.TARN_UNIT_ERR i, 7, 0⟩
def F.TARN_VI_WATCH_COUNT (i j : Nat) : FieldRef := ⟨R.TARN_VI_WATCH i j, 31, 0⟩
def F.TARN_VI_WATCH_CTL_CLR (i : Nat) : FieldRef := ⟨R.TARN_VI_WATCH_CTL i, 31, 31⟩
def F.TARN_VI_WATCH_CTL_EVEN (i : Nat) : FieldRef := ⟨R.TARN_VI_WATCH_CTL i, 8, 0⟩
def F.TARN_VI_WATCH_SUM_SUM (i : Nat) : FieldRef := ⟨R.TARN_VI_WATCH_SUM i, 8, 0⟩
def F.TARN_VI_WATCH_NOTE_MSIEN (i : Nat) : FieldRef := ⟨R.TARN_VI_WATCH_NOTE i, 31, 31⟩
def F.TARN_VI_WATCH_NOTE_VEC (i : Nat) : FieldRef := ⟨R.TARN_VI_WATCH_NOTE i, 26, 16⟩
def F.TARN_VI_WATCH_NOTE_SIGEN (i : Nat) : FieldRef := ⟨R.TARN_VI_WATCH_NOTE i, 15, 15⟩
def F.TARN_VI_WATCH_NOTE_SIGCTR (i : Nat) : FieldRef := ⟨R.TARN_VI_WATCH_NOTE i, 14, 0⟩
def F.TARN_VI_CMP_CFG_WARM (i j : Nat) : FieldRef := ⟨R.TARN_VI_CMP_CFG i j, 42, 27⟩
def F.TARN_VI_CMP_CFG_ALPHA (i j : Nat) : FieldRef := ⟨R.TARN_VI_CMP_CFG i j, 26, 23⟩
def F.TARN_VI_CMP_CFG_ELEM (i j : Nat) : FieldRef := ⟨R.TARN_VI_CMP_CFG i j, 22, 11⟩
def F.TARN_VI_CMP_CFG_GRP (i j : Nat) : FieldRef := ⟨R.TARN_VI_CMP_CFG i j, 10, 1⟩
def F.TARN_VI_CMP_CFG_EN (i j : Nat) : FieldRef := ⟨R.TARN_VI_CMP_CFG i j, 0, 0⟩
def F.TARN_VI_CMP_FACTOR_FACTOR (i j : Nat) : FieldRef := ⟨R.TARN_VI_CMP_FACTOR i j, 31, 0⟩
def F.TARN_VI_CMP_REF_REF (i j : Nat) : FieldRef := ⟨R.TARN_VI_CMP_REF i j, 63, 0⟩
def F.TARN_VI_CMP_LAST_LAST (i j : Nat) : FieldRef := ⟨R.TARN_VI_CMP_LAST i j, 63, 0⟩
def F.TARN_VI_CMP_STAT_SEEN (i j : Nat) : FieldRef := ⟨R.TARN_VI_CMP_STAT i j, 31, 16⟩
def F.TARN_VI_CMP_STAT_SPIKES (i j : Nat) : FieldRef := ⟨R.TARN_VI_CMP_STAT i j, 15, 8⟩
def F.TARN_VI_CMP_STAT_NONFIN (i j : Nat) : FieldRef := ⟨R.TARN_VI_CMP_STAT i j, 1, 1⟩
def F.TARN_VI_CMP_STAT_SPIKE (i j : Nat) : FieldRef := ⟨R.TARN_VI_CMP_STAT i j, 0, 0⟩
def F.DIVIDE_OWN_CFG_MAX (i j : Nat) : FieldRef := ⟨R.DIVIDE_OWN_CFG i j, 51, 32⟩
def F.DIVIDE_OWN_CFG_MIN (i j : Nat) : FieldRef := ⟨R.DIVIDE_OWN_CFG i j, 19, 0⟩
def F.DIVIDE_OWN_USE_USE1 (i j : Nat) : FieldRef := ⟨R.DIVIDE_OWN_USE i j, 51, 32⟩
def F.DIVIDE_OWN_USE_USE0 (i j : Nat) : FieldRef := ⟨R.DIVIDE_OWN_USE i j, 19, 0⟩
def F.DIVIDE_BUF_STAT_SHFREE (i : Nat) : FieldRef := ⟨R.DIVIDE_BUF_STAT i, 51, 32⟩
def F.DIVIDE_BUF_STAT_USED (i : Nat) : FieldRef := ⟨R.DIVIDE_BUF_STAT i, 19, 0⟩
def F.DIVIDE_DROP_PURGE (i : Nat) : FieldRef := ⟨R.DIVIDE_DROP i, 63, 32⟩
def F.DIVIDE_DROP_STALE (i : Nat) : FieldRef := ⟨R.DIVIDE_DROP i, 31, 0⟩
def F.DIVIDE_ERR_OVFCNT : FieldRef := ⟨R.DIVIDE_ERR, 63, 48⟩
def F.DIVIDE_ERR_DIE : FieldRef := ⟨R.DIVIDE_ERR, 40, 40⟩
def F.DIVIDE_ERR_OVERLAP : FieldRef := ⟨R.DIVIDE_ERR, 33, 33⟩
def F.DIVIDE_ERR_VALID : FieldRef := ⟨R.DIVIDE_ERR, 32, 32⟩
def F.DIVIDE_ERR_CODE : FieldRef := ⟨R.DIVIDE_ERR, 7, 0⟩
def F.DIVIDE_ARB_REQ_LIMIT (i j : Nat) : FieldRef := ⟨R.DIVIDE_ARB_REQ i j, 25, 16⟩
def F.DIVIDE_ARB_REQ_WEIGHT (i j : Nat) : FieldRef := ⟨R.DIVIDE_ARB_REQ i j, 11, 8⟩
def F.DIVIDE_ARB_REQ_PRIO (i j : Nat) : FieldRef := ⟨R.DIVIDE_ARB_REQ i j, 1, 0⟩
def F.DIVIDE_ARB_CLS_WINDOW (i : Nat) : FieldRef := ⟨R.DIVIDE_ARB_CLS i, 28, 24⟩
def F.DIVIDE_ARB_CLS_WDOG (i : Nat) : FieldRef := ⟨R.DIVIDE_ARB_CLS i, 15, 0⟩
def F.DIVIDE_ARB_EVT_WDCNT (i : Nat) : FieldRef := ⟨R.DIVIDE_ARB_EVT i, 63, 48⟩
def F.DIVIDE_ARB_EVT_STCNT (i : Nat) : FieldRef := ⟨R.DIVIDE_ARB_EVT i, 47, 32⟩
def F.DIVIDE_ARB_EVT_WD (i : Nat) : FieldRef := ⟨R.DIVIDE_ARB_EVT i, 31, 31⟩
def F.DIVIDE_ARB_EVT_STARVE (i : Nat) : FieldRef := ⟨R.DIVIDE_ARB_EVT i, 30, 30⟩
def F.DIVIDE_ARB_EVT_REQ (i : Nat) : FieldRef := ⟨R.DIVIDE_ARB_EVT i, 29, 26⟩
def F.DIVIDE_ARB_EVT_INST (i : Nat) : FieldRef := ⟨R.DIVIDE_ARB_EVT i, 12, 0⟩
def F.DIVIDE_ARB_NOTE_MSIEN : FieldRef := ⟨R.DIVIDE_ARB_NOTE, 31, 31⟩
def F.DIVIDE_ARB_NOTE_VEC : FieldRef := ⟨R.DIVIDE_ARB_NOTE, 10, 0⟩
def F.DIVIDE_MIR_CFG_EN (i : Nat) : FieldRef := ⟨R.DIVIDE_MIR_CFG i, 63, 63⟩
def F.DIVIDE_MIR_CFG_DIR (i : Nat) : FieldRef := ⟨R.DIVIDE_MIR_CFG i, 62, 62⟩
def F.DIVIDE_MIR_CFG_STYPE (i : Nat) : FieldRef := ⟨R.DIVIDE_MIR_CFG i, 61, 60⟩
def F.DIVIDE_MIR_CFG_DTYPE (i : Nat) : FieldRef := ⟨R.DIVIDE_MIR_CFG i, 59, 58⟩
def F.DIVIDE_MIR_CFG_DID (i : Nat) : FieldRef := ⟨R.DIVIDE_MIR_CFG i, 57, 55⟩
def F.DIVIDE_MIR_CFG_TRUNC (i : Nat) : FieldRef := ⟨R.DIVIDE_MIR_CFG i, 53, 48⟩
def F.DIVIDE_MIR_CFG_RATE (i : Nat) : FieldRef := ⟨R.DIVIDE_MIR_CFG i, 47, 32⟩
def F.DIVIDE_MIR_CFG_SID (i : Nat) : FieldRef := ⟨R.DIVIDE_MIR_CFG i, 31, 0⟩
def F.DIVIDE_MIR_STAT_DROPPED (i : Nat) : FieldRef := ⟨R.DIVIDE_MIR_STAT i, 63, 32⟩
def F.DIVIDE_MIR_STAT_COPIED (i : Nat) : FieldRef := ⟨R.DIVIDE_MIR_STAT i, 31, 0⟩
def F.DIVIDE_MIR_RBASE_BASE : FieldRef := ⟨R.DIVIDE_MIR_RBASE, 38, 12⟩
def F.DIVIDE_MIR_RBASE_SIZE : FieldRef := ⟨R.DIVIDE_MIR_RBASE, 3, 0⟩
def F.DIVIDE_MIR_RHEAD_HEAD : FieldRef := ⟨R.DIVIDE_MIR_RHEAD, 31, 0⟩
def F.DIVIDE_MIR_RTAIL_TAIL : FieldRef := ⟨R.DIVIDE_MIR_RTAIL, 31, 0⟩
def F.MERE_POOL_CFG_BASE (i j : Nat) : FieldRef := ⟨R.MERE_POOL_CFG i j, 62, 36⟩
def F.MERE_POOL_CFG_COUNT (i j : Nat) : FieldRef := ⟨R.MERE_POOL_CFG i j, 23, 0⟩
def F.MERE_POOL_FREE_FREE (i : Nat) : FieldRef := ⟨R.MERE_POOL_FREE i, 23, 0⟩
def F.MERE_ERR_OVFCNT : FieldRef := ⟨R.MERE_ERR, 63, 48⟩
def F.MERE_ERR_POOL : FieldRef := ⟨R.MERE_ERR, 47, 45⟩
def F.MERE_ERR_INDEX : FieldRef := ⟨R.MERE_ERR, 44, 21⟩
def F.MERE_ERR_OWNER : FieldRef := ⟨R.MERE_ERR, 20, 13⟩
def F.MERE_ERR_OVERLAP : FieldRef := ⟨R.MERE_ERR, 9, 9⟩
def F.MERE_ERR_VALID : FieldRef := ⟨R.MERE_ERR, 8, 8⟩
def F.MERE_ERR_CODE : FieldRef := ⟨R.MERE_ERR, 7, 0⟩
def F.MERE_REFUSE_NOSPACE : FieldRef := ⟨R.MERE_REFUSE, 63, 32⟩
def F.MERE_REFUSE_STALE : FieldRef := ⟨R.MERE_REFUSE, 31, 0⟩
def F.MERE_OWN_MIN_HELD (i j : Nat) : FieldRef := ⟨R.MERE_OWN_MIN i j, 63, 40⟩
def F.MERE_OWN_MIN_MIN (i j : Nat) : FieldRef := ⟨R.MERE_OWN_MIN i j, 23, 0⟩
def F.MERE_OWN_MAX_MAX (i : Nat) : FieldRef := ⟨R.MERE_OWN_MAX i, 23, 0⟩
def F.PORT_CTL_AUTOUP (i : Nat) : FieldRef := ⟨R.PORT_CTL i, 8, 8⟩
def F.PORT_CTL_CMD (i : Nat) : FieldRef := ⟨R.PORT_CTL i, 3, 0⟩
def F.PORT_STAT_RETRAINS (i : Nat) : FieldRef := ⟨R.PORT_STAT i, 31, 24⟩
def F.PORT_STAT_TXSET (i : Nat) : FieldRef := ⟨R.PORT_STAT i, 23, 20⟩
def F.PORT_STAT_RXSET (i : Nat) : FieldRef := ⟨R.PORT_STAT i, 19, 16⟩
def F.PORT_STAT_REPL (i : Nat) : FieldRef := ⟨R.PORT_STAT i, 5, 5⟩
def F.PORT_STAT_CMDERR (i : Nat) : FieldRef := ⟨R.PORT_STAT i, 4, 4⟩
def F.PORT_STAT_PSTATE (i : Nat) : FieldRef := ⟨R.PORT_STAT i, 3, 0⟩
def F.PORT_LANE_MAP_L3 (i : Nat) : FieldRef := ⟨R.PORT_LANE_MAP i, 31, 24⟩
def F.PORT_LANE_MAP_L2 (i : Nat) : FieldRef := ⟨R.PORT_LANE_MAP i, 23, 16⟩
def F.PORT_LANE_MAP_L1 (i : Nat) : FieldRef := ⟨R.PORT_LANE_MAP i, 15, 8⟩
def F.PORT_LANE_MAP_L0 (i : Nat) : FieldRef := ⟨R.PORT_LANE_MAP i, 7, 0⟩
def F.PORT_LANE_STAT_CORR (i j : Nat) : FieldRef := ⟨R.PORT_LANE_STAT i j, 63, 32⟩
def F.PORT_LANE_STAT_UNCORR (i j : Nat) : FieldRef := ⟨R.PORT_LANE_STAT i j, 31, 16⟩
def F.PORT_LANE_STAT_FENCED (i j : Nat) : FieldRef := ⟨R.PORT_LANE_STAT i j, 4, 4⟩
def F.PORT_LANE_STAT_DEGR (i j : Nat) : FieldRef := ⟨R.PORT_LANE_STAT i j, 3, 3⟩
def F.PORT_LANE_STAT_ALARM (i j : Nat) : FieldRef := ⟨R.PORT_LANE_STAT i j, 2, 2⟩
def F.PORT_LANE_STAT_BLK (i j : Nat) : FieldRef := ⟨R.PORT_LANE_STAT i j, 1, 1⟩
def F.PORT_LANE_STAT_CW (i j : Nat) : FieldRef := ⟨R.PORT_LANE_STAT i j, 0, 0⟩
def F.PORT_PRBS_CTL_SEED (i : Nat) : FieldRef := ⟨R.PORT_PRBS_CTL i, 62, 32⟩
def F.PORT_PRBS_CTL_GEN (i : Nat) : FieldRef := ⟨R.PORT_PRBS_CTL i, 31, 31⟩
def F.PORT_PRBS_CTL_CHK (i : Nat) : FieldRef := ⟨R.PORT_PRBS_CTL i, 30, 30⟩
def F.PORT_PRBS_CTL_INJ (i : Nat) : FieldRef := ⟨R.PORT_PRBS_CTL i, 29, 28⟩
def F.PORT_PRBS_CTL_INJRATE (i : Nat) : FieldRef := ⟨R.PORT_PRBS_CTL i, 27, 23⟩
def F.PORT_PRBS_CTL_INJLANE (i : Nat) : FieldRef := ⟨R.PORT_PRBS_CTL i, 22, 21⟩
def F.PORT_PRBS_ERR_SYNC (i j : Nat) : FieldRef := ⟨R.PORT_PRBS_ERR i j, 63, 63⟩
def F.PORT_PRBS_ERR_ERRORS (i j : Nat) : FieldRef := ⟨R.PORT_PRBS_ERR i j, 47, 0⟩
def F.PORT_PRBS_BITS_BITS (i : Nat) : FieldRef := ⟨R.PORT_PRBS_BITS i, 63, 0⟩
def F.PORT_FEC_INJ_EN (i : Nat) : FieldRef := ⟨R.PORT_FEC_INJ i, 31, 31⟩
def F.PORT_FEC_INJ_NSYM (i : Nat) : FieldRef := ⟨R.PORT_FEC_INJ i, 30, 26⟩
def F.PORT_FEC_INJ_PERIOD (i : Nat) : FieldRef := ⟨R.PORT_FEC_INJ i, 25, 22⟩
def F.PORT_FEC_INJ_LANE (i : Nat) : FieldRef := ⟨R.PORT_FEC_INJ i, 17, 16⟩
def F.PORT_FEC_INJ_INJCNT (i : Nat) : FieldRef := ⟨R.PORT_FEC_INJ i, 15, 0⟩
def F.PORT_SWAP_THR_SWAPTHR (i : Nat) : FieldRef := ⟨R.PORT_SWAP_THR i, 15, 0⟩
def F.PORT_LINK_CFG_REPLAYMAX (i : Nat) : FieldRef := ⟨R.PORT_LINK_CFG i, 11, 8⟩
def F.PORT_LINK_CFG_SACK (i : Nat) : FieldRef := ⟨R.PORT_LINK_CFG i, 1, 1⟩
def F.PORT_LINK_CFG_DRAIN (i : Nat) : FieldRef := ⟨R.PORT_LINK_CFG i, 0, 0⟩
def F.PORT_LINK_STAT_PMAJOR (i : Nat) : FieldRef := ⟨R.PORT_LINK_STAT i, 31, 24⟩
def F.PORT_LINK_STAT_PMINOR (i : Nat) : FieldRef := ⟨R.PORT_LINK_STAT i, 23, 16⟩
def F.PORT_LINK_STAT_ADOPTED (i : Nat) : FieldRef := ⟨R.PORT_LINK_STAT i, 8, 8⟩
def F.PORT_LINK_STAT_DRAINED (i : Nat) : FieldRef := ⟨R.PORT_LINK_STAT i, 7, 7⟩
def F.PORT_LINK_STAT_SACKON (i : Nat) : FieldRef := ⟨R.PORT_LINK_STAT i, 6, 6⟩
def F.PORT_LINK_STAT_REPLIM (i : Nat) : FieldRef := ⟨R.PORT_LINK_STAT i, 5, 5⟩
def F.PORT_LINK_STAT_LSTATE (i : Nat) : FieldRef := ⟨R.PORT_LINK_STAT i, 3, 0⟩
def F.PORT_LINK_NBR_PEPOCH (i : Nat) : FieldRef := ⟨R.PORT_LINK_NBR i, 63, 48⟩
def F.PORT_LINK_NBR_PPORT (i : Nat) : FieldRef := ⟨R.PORT_LINK_NBR i, 37, 32⟩
def F.PORT_LINK_NBR_PDEV (i : Nat) : FieldRef := ⟨R.PORT_LINK_NBR i, 14, 0⟩
def F.PORT_LINK_SER_SERIAL (i : Nat) : FieldRef := ⟨R.PORT_LINK_SER i, 63, 0⟩
def F.PORT_LINK_RTT_RTT (i : Nat) : FieldRef := ⟨R.PORT_LINK_RTT i, 31, 0⟩
def F.PORT_LINK_CNT_TIMEOUTS (i : Nat) : FieldRef := ⟨R.PORT_LINK_CNT i, 63, 48⟩
def F.PORT_LINK_CNT_NAKS (i : Nat) : FieldRef := ⟨R.PORT_LINK_CNT i, 47, 32⟩
def F.PORT_LINK_CNT_BADBLK (i : Nat) : FieldRef := ⟨R.PORT_LINK_CNT i, 31, 16⟩
def F.PORT_LINK_CNT_RETRAINS (i : Nat) : FieldRef := ⟨R.PORT_LINK_CNT i, 15, 0⟩
def F.PORT_LINK_REPLAYED_FRAMES (i : Nat) : FieldRef := ⟨R.PORT_LINK_REPLAYED i, 31, 0⟩
def F.PORT_LINK_CRED_PEER (i j : Nat) : FieldRef := ⟨R.PORT_LINK_CRED i j, 55, 32⟩
def F.PORT_LINK_CRED_ADV (i j : Nat) : FieldRef := ⟨R.PORT_LINK_CRED i j, 23, 0⟩
def F.PORT_ENG_STAT_RELOCKS (i : Nat) : FieldRef := ⟨R.PORT_ENG_STAT i, 15, 8⟩
def F.PORT_ENG_STAT_SPFREE (i : Nat) : FieldRef := ⟨R.PORT_ENG_STAT i, 5, 4⟩
def F.PORT_ENG_STAT_PLL (i : Nat) : FieldRef := ⟨R.PORT_ENG_STAT i, 1, 0⟩
def F.EDGE_CTL_MODE (i : Nat) : FieldRef := ⟨R.EDGE_CTL i, 27, 24⟩
def F.EDGE_CTL_SPEED (i : Nat) : FieldRef := ⟨R.EDGE_CTL i, 20, 20⟩
def F.EDGE_CTL_PFC (i : Nat) : FieldRef := ⟨R.EDGE_CTL i, 19, 19⟩
def F.EDGE_CTL_PFCPRI (i : Nat) : FieldRef := ⟨R.EDGE_CTL i, 18, 16⟩
def F.EDGE_CTL_AUTOUP (i : Nat) : FieldRef := ⟨R.EDGE_CTL i, 8, 8⟩
def F.EDGE_CTL_CMD (i : Nat) : FieldRef := ⟨R.EDGE_CTL i, 3, 0⟩
def F.EDGE_STAT_RETRAINS (i : Nat) : FieldRef := ⟨R.EDGE_STAT i, 31, 24⟩
def F.EDGE_STAT_MODPRES (i : Nat) : FieldRef := ⟨R.EDGE_STAT i, 8, 8⟩
def F.EDGE_STAT_MODREADY (i : Nat) : FieldRef := ⟨R.EDGE_STAT i, 7, 7⟩
def F.EDGE_STAT_RFAULT (i : Nat) : FieldRef := ⟨R.EDGE_STAT i, 6, 6⟩
def F.EDGE_STAT_REPL (i : Nat) : FieldRef := ⟨R.EDGE_STAT i, 5, 5⟩
def F.EDGE_STAT_CMDERR (i : Nat) : FieldRef := ⟨R.EDGE_STAT i, 4, 4⟩
def F.EDGE_STAT_PSTATE (i : Nat) : FieldRef := ⟨R.EDGE_STAT i, 3, 0⟩
def F.EDGE_FEC_CORR (i : Nat) : FieldRef := ⟨R.EDGE_FEC i, 63, 32⟩
def F.EDGE_FEC_UNCORR (i : Nat) : FieldRef := ⟨R.EDGE_FEC i, 31, 0⟩
def F.EDGE_CNT_BADTYPE (i : Nat) : FieldRef := ⟨R.EDGE_CNT i, 63, 32⟩
def F.EDGE_CNT_FCSERR (i : Nat) : FieldRef := ⟨R.EDGE_CNT i, 31, 0⟩
def F.EDGE_PRBS_CTL_SEED (i : Nat) : FieldRef := ⟨R.EDGE_PRBS_CTL i, 62, 32⟩
def F.EDGE_PRBS_CTL_GEN (i : Nat) : FieldRef := ⟨R.EDGE_PRBS_CTL i, 31, 31⟩
def F.EDGE_PRBS_CTL_CHK (i : Nat) : FieldRef := ⟨R.EDGE_PRBS_CTL i, 30, 30⟩
def F.EDGE_PRBS_CTL_INJ (i : Nat) : FieldRef := ⟨R.EDGE_PRBS_CTL i, 29, 28⟩
def F.EDGE_PRBS_CTL_INJRATE (i : Nat) : FieldRef := ⟨R.EDGE_PRBS_CTL i, 27, 23⟩
def F.EDGE_PRBS_CTL_INJLANE (i : Nat) : FieldRef := ⟨R.EDGE_PRBS_CTL i, 22, 21⟩
def F.EDGE_PRBS_ERR_SYNC (i j : Nat) : FieldRef := ⟨R.EDGE_PRBS_ERR i j, 63, 63⟩
def F.EDGE_PRBS_ERR_ERRORS (i j : Nat) : FieldRef := ⟨R.EDGE_PRBS_ERR i j, 47, 0⟩
def F.EDGE_PRBS_BITS_BITS (i : Nat) : FieldRef := ⟨R.EDGE_PRBS_BITS i, 63, 0⟩
def F.EDGE_METRO_PEER_PATH (i : Nat) : FieldRef := ⟨R.EDGE_METRO_PEER i, 63, 48⟩
def F.EDGE_METRO_PEER_MAC (i : Nat) : FieldRef := ⟨R.EDGE_METRO_PEER i, 47, 0⟩
def F.EDGE_METRO_CFG_RTXMAX (i : Nat) : FieldRef := ⟨R.EDGE_METRO_CFG i, 31, 24⟩
def F.EDGE_METRO_CFG_RTTDECL (i : Nat) : FieldRef := ⟨R.EDGE_METRO_CFG i, 10, 0⟩
def F.EDGE_METRO_STAT_RETX (i : Nat) : FieldRef := ⟨R.EDGE_METRO_STAT i, 63, 32⟩
def F.EDGE_METRO_STAT_SRTT (i : Nat) : FieldRef := ⟨R.EDGE_METRO_STAT i, 27, 12⟩
def F.EDGE_METRO_STAT_RTTOVER (i : Nat) : FieldRef := ⟨R.EDGE_METRO_STAT i, 3, 3⟩
def F.EDGE_METRO_STAT_MISMATCH (i : Nat) : FieldRef := ⟨R.EDGE_METRO_STAT i, 2, 2⟩
def F.EDGE_METRO_STAT_PATHST (i : Nat) : FieldRef := ⟨R.EDGE_METRO_STAT i, 1, 0⟩
def F.EDGE_METRO_CNT_REORDDROP (i : Nat) : FieldRef := ⟨R.EDGE_METRO_CNT i, 63, 32⟩
def F.EDGE_METRO_CNT_PATHFAIL (i : Nat) : FieldRef := ⟨R.EDGE_METRO_CNT i, 31, 16⟩
def F.EDGE_METRO_OWN_MAC (i : Nat) : FieldRef := ⟨R.EDGE_METRO_OWN i, 47, 0⟩
def F.TILE_STATUS_INC (i : Nat) : FieldRef := ⟨R.TILE_STATUS i, 31, 24⟩
def F.TILE_STATUS_VI (i : Nat) : FieldRef := ⟨R.TILE_STATUS i, 23, 20⟩
def F.TILE_STATUS_ECAUSE (i : Nat) : FieldRef := ⟨R.TILE_STATUS i, 11, 4⟩
def F.TILE_STATUS_IH (i : Nat) : FieldRef := ⟨R.TILE_STATUS i, 3, 3⟩
def F.TILE_STATUS_STATE (i : Nat) : FieldRef := ⟨R.TILE_STATUS i, 2, 0⟩
def F.TILE_PC_PC (i : Nat) : FieldRef := ⟨R.TILE_PC i, 47, 0⟩
def F.TILE_BRK_EN (i : Nat) : FieldRef := ⟨R.TILE_BRK i, 63, 63⟩
def F.TILE_BRK_ADDR (i : Nat) : FieldRef := ⟨R.TILE_BRK i, 47, 3⟩
def F.TILE_TAPE_BASE_BASE (i : Nat) : FieldRef := ⟨R.TILE_TAPE_BASE i, 47, 12⟩
def F.TILE_TAPE_SIZE_SIZE (i : Nat) : FieldRef := ⟨R.TILE_TAPE_SIZE i, 39, 12⟩
def F.TILE_TAPE_HEAD_HEAD (i : Nat) : FieldRef := ⟨R.TILE_TAPE_HEAD i, 39, 3⟩
def F.TILE_TAPE_TAIL_TAIL (i : Nat) : FieldRef := ⟨R.TILE_TAPE_TAIL i, 39, 3⟩
def F.TILE_CTL_CMD (i : Nat) : FieldRef := ⟨R.TILE_CTL i, 1, 0⟩
def F.TILE_SAVE_BASE (i : Nat) : FieldRef := ⟨R.TILE_SAVE i, 38, 12⟩
def F.TILE_SAVE_ERR (i : Nat) : FieldRef := ⟨R.TILE_SAVE i, 3, 2⟩
def F.TILE_SAVE_BUSY (i : Nat) : FieldRef := ⟨R.TILE_SAVE i, 1, 1⟩
def F.MGMT_MAINT_CMD_CMD : FieldRef := ⟨R.MGMT_MAINT_CMD, 31, 28⟩
def F.MGMT_MAINT_CMD_ACT : FieldRef := ⟨R.MGMT_MAINT_CMD, 27, 24⟩
def F.MGMT_MAINT_CMD_TAG : FieldRef := ⟨R.MGMT_MAINT_CMD, 23, 16⟩
def F.MGMT_MAINT_CMD_TARGET : FieldRef := ⟨R.MGMT_MAINT_CMD, 15, 0⟩
def F.MGMT_MAINT_SRC_DPA : FieldRef := ⟨R.MGMT_MAINT_SRC, 38, 12⟩
def F.MGMT_MAINT_STAT_LASTTAG : FieldRef := ⟨R.MGMT_MAINT_STAT, 63, 56⟩
def F.MGMT_MAINT_STAT_RESULT : FieldRef := ⟨R.MGMT_MAINT_STAT, 55, 48⟩
def F.MGMT_MAINT_STAT_QUEUED : FieldRef := ⟨R.MGMT_MAINT_STAT, 47, 44⟩
def F.MGMT_MAINT_STAT_RUNNING : FieldRef := ⟨R.MGMT_MAINT_STAT, 39, 32⟩
def F.MGMT_MAINT_STAT_DONE : FieldRef := ⟨R.MGMT_MAINT_STAT, 31, 0⟩
def F.MGMT_MAINT_WIN_EN (i : Nat) : FieldRef := ⟨R.MGMT_MAINT_WIN i, 63, 63⟩
def F.MGMT_MAINT_WIN_ACT (i : Nat) : FieldRef := ⟨R.MGMT_MAINT_WIN i, 37, 32⟩
def F.MGMT_MAINT_WIN_LEN (i : Nat) : FieldRef := ⟨R.MGMT_MAINT_WIN i, 21, 11⟩
def F.MGMT_MAINT_WIN_START (i : Nat) : FieldRef := ⟨R.MGMT_MAINT_WIN i, 10, 0⟩

/-- The index of each dimension for a distance from the base, and what is left of it. -/
def ixOf : List (Nat × Nat) → Nat → Option (List Nat × Nat)
  | [], r => some ([], r)
  | (n, st) :: l, r =>
    if r / st < n then (ixOf l (r % st)).map fun p => (r / st :: p.1, p.2) else none

/-- The instance of a register that occupies a BAR0 offset, with the byte within it. -/
def regAt (d : RegDesc) (off : Nat) : Option (List Nat × Nat) :=
  if off < d.base then none else
  match ixOf d.dims (off - d.base) with
  | some (ix, r) => if r < d.width / 8 then some (ix, r) else none
  | none => none

def regMap0 : List RegDesc :=
  [D.GLOBAL_DEV_ID, D.GLOBAL_TILE_COUNT, D.GLOBAL_TILE_MAP, D.GLOBAL_TOPO_ACT, D.GLOBAL_TOPO_CAND, D.GLOBAL_TOPO_TACT, D.GLOBAL_TOPO_CMD, D.GLOBAL_TOPO_SWEEP, D.MGMT_BOOT_STAT, D.MGMT_RST, D.MGMT_PROF_CTL, D.MGMT_PROF_STAT, D.MGMT_EXPERT, D.MGMT_SPI_STAT, D.MGMT_VI_CTL, D.MGMT_VI_CFG, D.MGMT_VI_MANIFEST, D.MGMT_VI_TILES, D.CLKPWR_PCAP, D.CLKPWR_PWR, D.CLKPWR_TCLK, D.CLKPWR_THERM, D.CLKPWR_REF, D.CLKPWR_VF, D.CLKPWR_RAIL_STAT]
def regMap1 : List RegDesc :=
  [D.CLKPWR_GPIO, D.TELEM_TIME, D.TELEM_TIME_CTL, D.TELEM_TIME_SET, D.TELEM_TIME_OFS, D.TELEM_SNAP_CTL, D.TELEM_SNAP_AT, D.TELEM_SNAP_STAT, D.TELEM_SNAP_RBASE, D.TELEM_SNAP_RHEAD, D.TELEM_SNAP_RTAIL, D.TELEM_CTR_CFG, D.TELEM_CTR, D.TELEM_PHASE, D.TELEM_VI_REC_CTL, D.TELEM_VI_REC_BASE, D.TELEM_VI_REC_HEAD, D.TELEM_VI_REC_TAIL, D.FAULT_DEV_STAT, D.FAULT_DEV_NOTE, D.FAULT_EQ_BASE, D.FAULT_EQ_HEAD, D.FAULT_EQ_TAIL, D.FAULT_EQ_DROP, D.FAULT_VI_CTL]
def regMap2 : List RegDesc :=
  [D.FAULT_HEALTH_CFG, D.FAULT_TILE_MIG, D.TALUS_CFG, D.TALUS_STAT, D.FAULT_HEALTH, D.HOST_LINK, D.HOST_VI_CFG, D.HOST_AP, D.HOST_CXLMEM, D.HOST_Q_SQ, D.HOST_Q_CQ, D.HOST_Q_CFG, D.HOST_Q_STAT, D.HOST_SL_ADDR, D.HOST_SL_BIND, D.MMU_VI_S1ROOT, D.MMU_VI_FQ_BASE, D.MMU_VI_FQ_HEAD, D.MMU_VI_FQ_TAIL, D.MMU_VI_FQ_NOTE, D.MMU_VI_RESUME, D.MMU_VI_FSTAT, D.MMU_VI_INVAL, D.MMU_VI_INVAL_STAT, D.MMU_SVC_LIMIT]
def regMap3 : List RegDesc :=
  [D.DMA_Q_CFG, D.DMA_Q_STAT, D.DMA_Q_ERR, D.DMA_VI_SRSEED, D.SIG_CTR, D.SIG_ARR, D.SIG_VI_CFG, D.SIG_VI_STAT, D.SIG_VI_DROP, D.COL_GRP_CTL, D.COL_GRP_ID, D.COL_GRP_CFG, D.COL_GRP_MEMB, D.COL_GRP_RANK, D.COL_GRP_SEED0, D.COL_GRP_SEED1, D.COL_GRP_SEQ, D.COL_GRP_GEN, D.COL_GRP_G, D.COL_GRP_STAT, D.COL_VI_CFG, D.COL_JOIN_TMO, D.TARN_UNIT_CFG, D.TARN_UNIT_STAT, D.TARN_UNIT_WORDS]
def regMap4 : List RegDesc :=
  [D.TARN_UNIT_ERR, D.TARN_VI_WATCH, D.TARN_VI_WATCH_CTL, D.TARN_VI_WATCH_SUM, D.TARN_VI_WATCH_NOTE, D.TARN_VI_CMP_CFG, D.TARN_VI_CMP_FACTOR, D.TARN_VI_CMP_REF, D.TARN_VI_CMP_LAST, D.TARN_VI_CMP_STAT, D.DIVIDE_OWN_CFG, D.DIVIDE_OWN_USE, D.DIVIDE_BUF_STAT, D.DIVIDE_DROP, D.DIVIDE_ERR, D.DIVIDE_ARB_REQ, D.DIVIDE_ARB_CLS, D.DIVIDE_ARB_EVT, D.DIVIDE_ARB_NOTE, D.DIVIDE_MIR_CFG, D.DIVIDE_MIR_STAT, D.DIVIDE_MIR_RBASE, D.DIVIDE_MIR_RHEAD, D.DIVIDE_MIR_RTAIL, D.MERE_POOL_CFG]
def regMap5 : List RegDesc :=
  [D.MERE_POOL_FREE, D.MERE_ERR, D.MERE_REFUSE, D.MERE_OWN_MIN, D.MERE_OWN_MAX, D.PORT_CTL, D.PORT_STAT, D.PORT_LANE_MAP, D.PORT_LANE_STAT, D.PORT_PRBS_CTL, D.PORT_PRBS_ERR, D.PORT_PRBS_BITS, D.PORT_FEC_INJ, D.PORT_SWAP_THR, D.PORT_LINK_CFG, D.PORT_LINK_STAT, D.PORT_LINK_NBR, D.PORT_LINK_SER, D.PORT_LINK_RTT, D.PORT_LINK_CNT, D.PORT_LINK_REPLAYED, D.PORT_LINK_CRED, D.PORT_ENG_STAT, D.EDGE_CTL, D.EDGE_STAT]
def regMap6 : List RegDesc :=
  [D.EDGE_FEC, D.EDGE_CNT, D.EDGE_PRBS_CTL, D.EDGE_PRBS_ERR, D.EDGE_PRBS_BITS, D.EDGE_METRO_PEER, D.EDGE_METRO_CFG, D.EDGE_METRO_STAT, D.EDGE_METRO_CNT, D.EDGE_METRO_OWN, D.TILE_STATUS, D.TILE_PC, D.TILE_BRK, D.TILE_TAPE_BASE, D.TILE_TAPE_SIZE, D.TILE_TAPE_HEAD, D.TILE_TAPE_TAIL, D.TILE_CTL, D.TILE_SAVE, D.MGMT_MAINT_CMD, D.MGMT_MAINT_SRC, D.MGMT_MAINT_STAT, D.MGMT_MAINT_WIN]

/-- Every register of the device. -/
def regMap : List RegDesc := regMap0 ++ regMap1 ++ regMap2 ++ regMap3 ++ regMap4 ++ regMap5 ++ regMap6

/-- The registers at a BAR0 offset: description, indices and byte within the register. More than one where offsets
coincide (DESIGN CHOICE, log entry 6). -/
def findRegs (off : Nat) : List (RegDesc × List Nat × Nat) :=
  regMap.filterMap fun d => (regAt d off).map fun p => (d, p.1, p.2)

end Sys2Proof.Machine
end

