-- ==== Sys2Proof/Machine/State.lean ====
section
/-! DEFINITION. The state of the block as plain data, its reset, and the reasons a command can stop. -/
namespace Sys2Proof.Machine

/-- A sparse map: keys strictly rising, no entry equal to the default that an unlisted key reads as. -/
abbrev SMap (α : Type) := List (Nat × α)

/-- Tile states (03 R101). -/
inductive TState where
  | off | idle | run | stall | preempt | fault | fenced
  deriving DecidableEq, Repr

/-- What a tile in STALL, or one whose instruction will be made again, waits on (03 R99, R101, 06 R188, 14 R423). -/
inductive Stall where
  | none
  /-- XLATE service. -/
  | xlate
  /-- An engine-issue instruction that found its queue full. -/
  | engine (w : W64)
  /-- A WAIT: counter, threshold, consume, start and timeout in ns, status register. -/
  | wait (ctr thr : Nat) (consume : Bool) (start timeout : Nat) (sd : Nat)
  /-- A TIME whose record cannot be staged. -/
  | record (w : W64)
  deriving DecidableEq, Repr

/-- A matrix instruction that has committed and not completed, with its scalar operands as read at issue (04 R117). -/
structure MatOp where
  w : W64
  dims : W64
  a : Nat
  b : Nat
  ss : W64
  ss1 : W64
  deriving DecidableEq, Repr

/-- A save or restore that runs (05 R165, R167). -/
inductive SaveOp where
  | preempt (base : Nat)
  | restore (base : Nat)
  deriving DecidableEq, Repr

/-- The parts of a tile other than its register files. -/
structure TileCore where
  pc : BitVec 48 := 0
  ih : Bool := false
  state : TState := .off
  vi : Nat := 0
  inc : Byte := 0
  /-- Bit k is the tag of ACk: 0 F32, 1 F64 (04 R108). -/
  tags : BitVec 4 := 0
  tapeHead : Nat := 0
  tapeTail : Nat := 0
  /-- Matrix instructions executing and waiting, oldest first (04 R103). -/
  mat : List MatOp := []
  stall : Stall := .none
  /-- T_FIRST of the access that an unfinished instruction has waited on (05 R155, R157). -/
  xlSince : Option Nat := Option.none
  saving : Option SaveOp := Option.none
  phase : BitVec 16 := 0
  phaseStart : Nat := 0
  deriving DecidableEq, Repr

/-- A Cirque tile (03 R68-R71). Registers that hold zero are not listed. -/
structure Tile where
  core : TileCore := {}
  csr : SMap W64 := []
  s : SMap W64 := []
  v : SMap (BitVec 8192) := []
  p : SMap (BitVec 1024) := []
  /-- Element (r, c) of AC a at 8192 a + 128 r + c (F32) or 8192 a + 32 r + c (F64). -/
  acc : SMap W64 := []
  deriving DecidableEq, Repr

/-- An access that parks (05 R156). -/
inductive Agent where
  | tile (t : Nat)
  | dma (q seq : Nat)
  | host (q seq : Nat)
  | col (g gen chunk : Nat)
  | recvDma (x : XferKey)
  | recvCol (g gen chunk : Nat)
  deriving DecidableEq, Repr

/-- A parked access, the time of its first fault (05 R155, R157) and its VA (R156). -/
structure Parked where
  who : Agent
  since : Nat
  va : Nat
  deriving DecidableEq, Repr

/-- A fault record (05 R151, R472): written to the ring or held, and unresumed while `live`. -/
structure FaultRec where
  id : Nat
  va : Nat
  ipa : Nat
  code : Nat
  agent : Nat
  stage : Nat
  access : Nat
  level : Nat
  inc : Nat
  source : Nat
  merged : Nat
  tFirst : Nat
  inRing : Bool
  live : Bool
  parked : List Parked
  deriving DecidableEq, Repr

/-- The MMU's state for one VI (05 R146, R151-R153). -/
structure MmuVi where
  nextId : Nat := 0
  recs : List FaultRec := []
  /-- Agents parked without a record (R153). -/
  waiting : List Parked := []
  /-- Queued invalidations: VPN, ALL. -/
  invals : List (Nat × Bool) := []
  deriving DecidableEq, Repr

/-- A 4 KiB stage-2 entry that differs from the tables built from the profile (05 R142, R150). -/
structure S2 where
  vi : Nat
  page : Nat
  frame : Nat
  mig : Bool
  deriving DecidableEq, Repr

/-- Progress of an accepted descriptor (06 R178). -/
inductive DState where
  | queued | parked | sent | acked | lost
  deriving DecidableEq, Repr

/-- An outstanding descriptor: queue, acceptance sequence, owner and its 8 words with the own-pond alias resolved
(06 R170, R172, 05 R138). `pos` elements and `src` source bytes have been moved, `commit` bytes are acknowledged
(13 R381), `slot` is its Talus record where its destination is another device (13 R379), `crc` the running CRC-32C of
the bytes landed (14 R422). A descriptor is `acked` while its record waits for room (14 R423). -/
structure Desc where
  q : QRef
  seq : Nat
  vi : Nat
  inc : Nat
  words : List W64
  state : DState
  pos : Nat
  src : Nat
  commit : Nat
  slot : Nat
  since : Option Nat
  crc : Nat
  deriving DecidableEq, Repr

/-- An inbound transfer at its destination (06 R178, R179, 11 R321). -/
structure Rx where
  key : XferKey
  vi : Nat
  inc : Nat
  thdr : List W64
  dst : W64
  status : Nat
  /-- Runs of bytes written at the destination: offset and length. -/
  written : List (Nat × Nat)
  /-- Frames whose bytes wait in spill buffers: offset and data (05 R13, R159). -/
  spill : List (Nat × List Byte)
  mere : List (Nat × Nat)
  /-- The edge port in STORAGE mode that brought it (14 R422). -/
  edge : Option Nat
  acked : Bool
  done : Bool
  since : Option Nat
  deriving DecidableEq, Repr

/-- A SIG.REMOTE with FENCE = 1 held at the source (06 R187), with the descriptors it waits for. -/
structure HeldSig where
  id : Nat
  vi : Nat
  inc : Nat
  dev : Nat
  dvi : Nat
  dinc : Nat
  ctr : Nat
  amount : W32
  waits : List (QRef × Nat)
  deriving DecidableEq, Repr

/-- DMA and signals (06). -/
structure DmaSys where
  descs : List Desc := []
  rxs : List Rx := []
  heldSigs : List HeldSig := []
  nextHeld : Nat := 0
  /-- Descriptors accepted on each DMA queue since the VI reset. -/
  seqs : SMap Nat := []
  /-- Tiles sleeping in WAIT on a counter, in arrival order: counter, tile. -/
  waiters : List (Nat × Nat) := []
  /-- The EXPECTED tally of each counter (R190). -/
  expected : SMap Nat := []
  /-- Transfers that an edge port in STORAGE mode has brought (14 R422). -/
  edgeXfers : List (XferKey × Nat) := []
  deriving DecidableEq, Repr

/-- States of a generation (07 R212). -/
inductive GState where
  | issued | running | committed | done | aborting | replay | ended
  deriving DecidableEq, Repr

/-- A generation on this member (07 R209-R219, 13 R380-R387); `barrier` for the barrier of R190. A generation that is
done holds no slot: it stays for the replays of other members (07 R212). -/
structure Gen where
  num : Nat
  barrier : Bool := false
  op : Nat := 0
  words : List W64 := []
  digest : Nat := 0
  slot : Nat := 0
  state : GState := .issued
  /-- Attempt modulo 256 (08 R244), and the replays so far (07 R217). -/
  attempt : Nat := 0
  replays : Nat := 0
  /-- The code it ends with (07 R217). -/
  code : Nat := 0
  /-- Ranks that reported aborts, since the latest commit (13 R387). -/
  aborters : List Nat := []
  /-- The Talus progress (13 R380): LOW and MAP, and the chunks sent. -/
  low : Nat := 0
  map : Nat := 0
  sent : List Nat := []
  /-- Blocks landed: chunk, block; for a token operation place and block. -/
  landed : List (Nat × Nat) := []
  /-- Landing that waits in spill buffers: chunk, VA, bytes; and the buffers. -/
  spill : List (Nat × Nat × List Byte) := []
  mere : List (Nat × Nat) := []
  /-- Frames sent, for the replays of other members (07 R212): chunk, class, header, payload. -/
  held : List (Nat × Hdr × List Byte) := []
  arrive : List Nat := []
  acks : List Nat := []
  /-- Counts of a token operation by source rank (07 R231). -/
  counts : List (Nat × List Nat) := []
  /-- Chunks that a rank takes (07 R233). -/
  credits : List (Nat × Nat) := []
  grid : Int := 0
  /-- The MAXABS generation whose maximum sets its grid (07 R219). -/
  maxOf : Option Nat := none
  /-- The largest landed value of a MAXABS generation, as an F64 code (07 R219). -/
  maxAbs : W64 := 0
  /-- Landed elements that a comparator reads: element, F64 code (08 R259). -/
  samples : List (Nat × W64) := []
  /-- Contributions that the landed tokens of a COMBINE sum. -/
  summed : Nat := 0
  /-- Contributors whose blocks were rejected: rank, attempt (08 R249). -/
  malformed : List (Nat × Nat) := []
  deriving DecidableEq, Repr

/-- What a member tells of a generation that has not been issued here yet. -/
inductive Early where
  | arrive (gen rank : Nat)
  | credit (gen rank digest chunks : Nat)
  | counts (gen rank : Nat) (l : List Nat)
  | abort (gen attempt rank cause : Nat)
  deriving DecidableEq, Repr

/-- A JOIN as rank 0 holds it (07 R202). -/
structure Join where
  rank : Nat
  sdev : Nat
  svi : Nat
  sinc : Nat
  caps : Nat
  crc : Nat
  deriving DecidableEq, Repr

/-- A group context beside its registers (07 R196, R201, R202, R215, R228). -/
structure Grp where
  members : List W64 := []
  joins : List Join := []
  excluded : List Nat := []
  tokens : Nat := 16
  gens : List Gen := []
  since : Nat := 0
  rejoin : Bool := false
  /-- Suspended by R208. -/
  placement : Bool := false
  /-- Generations accepted since the last barrier, and whether one is due (06 R190). -/
  sinceBarrier : Nat := 0
  barrierDue : Bool := false
  /-- Physical counters that its generations have named (06 R190). -/
  ctrs : List Nat := []
  /-- The latest MAXABS generation, and the grids latched: generation, grid or its failure (R219). -/
  maxGen : Option Nat := none
  grids : List (Nat × Option Int) := []
  early : List Early := []
  deriving DecidableEq, Repr

/-- A JOIN held on rank 0's device before its context exists (07 R202). -/
structure OrphanJoin where
  gid : Nat
  dvi : Nat
  join : Join
  at_ : Nat
  deriving DecidableEq, Repr

/-- Collectives (07). -/
structure ColSys where
  grps : SMap Grp := []
  devTokens : Nat := 64
  orphans : List OrphanJoin := []
  deriving DecidableEq, Repr

/-- A block in a Tarn unit (08 R242-R253): its key, the blocks that a window of its kind holds (0 where it lies in the
deep or the pending store), contributor bitmap, and inputs or sums. An emitted block stays until its window is freed. -/
structure TWin where
  vi : Nat
  inc : Nat
  ctx : Nat
  gen : Nat
  attempt : Nat
  chunk : Nat
  block : Nat
  window : Nat
  bitmap : Nat := 0
  emitted : Bool := false
  /-- Ledger: the running words. -/
  sums : List Int := []
  /-- Deep: the running accumulators as integer and flags PINF, NINF, NAN. -/
  deep : List (Int × Nat) := []
  /-- Canonical and selection: element codes of each contributor, in the order of their index. -/
  inputs : List (Nat × List Nat) := []
  /-- Contributors that the node counts. -/
  count : Nat
  /-- Held in Mere (R243). -/
  spilled : Bool := false
  mere : List (Nat × Nat) := []
  deriving DecidableEq, Repr

/-- A Tarn unit beside its registers (08 R237, R250, R261). -/
structure TUnit where
  blocks : List TWin := []
  /-- Deep slots taken: context, generation, slots. -/
  deepSlots : List (Nat × Nat × Nat) := []
  withdrawing : Bool := false
  deriving DecidableEq, Repr

/-- Tarn (08 R239): the units and the rotation pointers of the two Col sequencers. -/
structure TarnSys where
  units : SMap TUnit := []
  ptr0 : Nat := 0
  ptr1 : Nat := 0
  deriving DecidableEq, Repr

/-- A frame in the packet buffer of a die (09 R264-R273): destinations still to be served, and Hyora ports that have
sent it and hold its cells until the acknowledgement (11 R327). -/
structure DFrame where
  f : DivFrame
  die : Nat
  residue : List Nat
  unacked : List Nat
  admitted : Nat
  /-- Held in the receive path of a VI (05 R159). -/
  landing : Bool
  deriving DecidableEq, Repr

/-- A frame held at its source: the destinations on each die still to be admitted (09 R265, R269). -/
structure HFrame where
  f : DivFrame
  dies : List (Nat × List Nat)
  deriving DecidableEq, Repr

/-- An arbiter instance (09 R275-R278): WAIT, CUR, USED by index (CUR stored as its distance from slot 15). -/
structure Arb where
  wait : SMap Nat := []
  cur : SMap Nat := []
  used : SMap Nat := []
  fptr : Nat := 15
  fw : Nat := 0
  raised : Bool := false
  grant : Option Nat := none
  frame : Option Nat := none
  emergency : Bool := false
  /-- Deficit round robin of each class queue (R267): class, flow, deficit, and whether its turn runs, in rotation
  order. -/
  rot : List (Nat × Flow × Int × Bool) := []
  deriving DecidableEq, Repr

/-- Divide (09). -/
structure DivSys where
  frames : List DFrame := []
  held : List HFrame := []
  /-- Identities given to frames that enter from ports and to copies. -/
  nextId : Nat := 0
  mirCount : SMap Nat := []
  arbs : SMap Arb := []
  deriving DecidableEq, Repr

/-- An allocated Mere buffer (09 R285, R286). -/
structure MBuf where
  pool : Nat
  index : Nat
  owner : Nat
  inc : Nat
  deriving DecidableEq, Repr

/-- A lane's receiver and checker (10 R299, R306, R307, R311). -/
structure LaneH where
  markRun : Nat := 0
  markMiss : Nat := 0
  hdrRun : Nat := 0
  /-- The latest 64 block headers, bit 0 the newest: 1 marks an invalid one. -/
  hdrBad : Nat := 0
  uncRun : Nat := 0
  /-- Corrected symbols and uncorrectable codewords in the window of 1 ms. -/
  symbols : Nat := 0
  uncWin : Nat := 0
  failed : Bool := false
  /-- Time of the near end's latest swap, and whether the far end has been asked to swap. -/
  nearSwap : Option Nat := none
  farSwap : Bool := false
  /-- Out of the transmit set until the lane is in lock again. -/
  swapping : Bool := false
  /-- A channel of it, here or at the far end, has been swapped in the sequence that runs. -/
  moved : Bool := false
  /-- Held out of the transmit set by a scan or a recalibration (15 R448). -/
  held : Bool := false
  /-- The checker: its state, bits loaded, correct predictions in a row, wrong ones among the latest 1,024 and bits. -/
  prbsState : Nat := 0
  prbsLoaded : Nat := 0
  prbsRun : Nat := 0
  prbsHist : Nat := 0
  prbsBits : Nat := 0
  deriving DecidableEq, Repr

/-- A port beside its registers (10 R302-R309): the held command, the set it will transmit on with its SEQ, the set the
far end has announced, the far end's lanes in lock, and the lanes that wait for a swap. -/
structure PortH where
  held : Option Nat := none
  txNext : Option (Nat × Nat) := none
  rxNext : Option (Nat × Nat) := none
  farLock : Nat := 0
  lanes : SMap LaneH := []
  swapQueue : List Nat := []
  deriving DecidableEq, Repr

/-- A frame sent on a link and not acknowledged (11 R327, R329). -/
structure Sent where
  seq : Nat
  id : Nat
  tc : Nat
  cells : Nat
  at_ : Nat
  deriving DecidableEq, Repr

/-- A Hyora link beside its registers (11 R322-R332). -/
structure Link where
  nextSeq : Nat := 0
  expect : Nat := 0
  /-- A frame has been received in this sequence space. -/
  seen : Bool := false
  sent : List Sent := []
  /-- Frames held behind a gap. -/
  ahead : List LinkFrame := []
  /-- The SEQ and time of the latest NAK. -/
  nakFor : Option (Nat × Nat) := none
  /-- SENT, RET and TOTAL of each class, cells freed and not yet returned, and when TOTAL changed, plus 1. -/
  sentC : SMap Nat := []
  retC : SMap Nat := []
  totalC : SMap Nat := []
  freedC : SMap Nat := []
  changedC : SMap Nat := []
  /-- Nonces of the messages sent, the peer's latest, and round trips measured. -/
  nonces : List Nat := []
  peerNonce : Nat := 0
  rtts : List Nat := []
  /-- Replays with no advance of ACKSEQ. -/
  replays : Nat := 0
  /-- An IDENT has been received since the sweep began. -/
  identFresh : Bool := false
  deriving DecidableEq, Repr

/-- A discovery sweep of this device (11 R337): start, and whether it is dirty. -/
structure Sweep where
  start : Nat
  dirty : Bool
  image : List Byte
  deriving DecidableEq, Repr

/-- Discovery and the topology map (11 R334-R340). -/
structure TopoSys where
  active : Option (List Byte) := none
  prevEpoch : Option Nat := none
  swept : Option (List Byte) := none
  sweep : Option Sweep := none
  /-- Images whose activation is armed, with T_act (R339). -/
  armed : List (Nat × List Byte) := []
  /-- The leader's reports: slot, report (R338), the start of its sweep, and a STALE report not yet answered. -/
  reports : List (Nat × SweepReport) := []
  leadStart : Nat := 0
  staleAt : Option Nat := none
  deriving DecidableEq, Repr

/-- A metro DATA frame sent and not acknowledged (11 R343, R344). -/
structure MSent where
  psn : Nat
  frame : DivFrame
  at_ : Nat
  count : Nat
  bytes : Nat
  deriving DecidableEq, Repr

/-- A metro path beside its registers (11 R342-R345). -/
structure Metro where
  nextPsn : Nat := 0
  /-- Bytes written to the retransmission buffers since the path came up. -/
  txPos : Nat := 0
  sent : List MSent := []
  /-- The next PSN expected, and frames held behind a gap. -/
  cum : Nat := 0
  ahead : List (Nat × DivFrame) := []
  /-- The peer's receive space in buffers, when it has said it. -/
  rwin : Option Nat := none
  /-- Round trips measured since the path began to probe. -/
  probes : List Nat := []
  /-- DATA frames since the latest SACK. -/
  unsacked : Nat := 0
  txMere : List (Nat × Nat) := []
  rxMere : List (Nat × Nat) := []
  /-- The peer has paused the priority of TC6 (10 R315). -/
  paused : Bool := false
  deriving DecidableEq, Repr

/-- A completed descriptor that waits for its CQ entry (12 R361). -/
structure CqE where
  seq : Nat
  status : Nat
  refusal : Nat
  deriving DecidableEq, Repr

/-- A host queue beside its registers (12 R356-R363). -/
structure Hq where
  push : List Byte := []
  pushed : List (List W64) := []
  nextSeq : Nat := 0
  done : List CqE := []
  phase : Bool := true
  armed : Bool := true
  /-- A message follows the CQ entry that waits for its line. -/
  msiOwed : Bool := false
  sqtail : Nat := 0
  cqhead : Nat := 0
  clearing : Bool := false
  deriving DecidableEq, Repr

/-- State of a host line in the line cache (12 R367, R369). -/
inductive LineSt where
  | m | e | s | rdOwn
  deriving DecidableEq, Repr

/-- A host line: data, the update that waits for its RdOwn, the time of its last update, its VI. -/
structure HLine where
  st : LineSt
  data : List Byte
  update : List (Nat × List Byte)
  at_ : Nat
  vi : Nat
  deriving DecidableEq, Repr

/-- An eviction (12 R368, R369). -/
structure Evict where
  addr : Nat
  dirty : Bool
  data : List Byte
  lost : Bool
  pulled : Bool
  waiting : List (Nat × List Byte)
  vi : Nat
  deriving DecidableEq, Repr

/-- The host interface beside its registers (12). -/
structure HostSys where
  hqs : SMap Hq := []
  lines : SMap HLine := []
  evicts : List Evict := []
  /-- Updates that wait for a slot of the line cache: VI, line, offset, bytes. -/
  lineWait : List (Nat × Nat × Nat × List Byte) := []
  slAt : SMap Nat := []
  slDirty : List Nat := []
  /-- Vectors whose mask bit is clear: link, vector. -/
  msixOpen : List (Nat × Nat) := []
  msixPend : List (Nat × Nat) := []
  bar2Size : SMap Nat := []
  deriving DecidableEq, Repr

/-- A VI's reset (13 R389-R393). -/
structure ViH where
  cause : Nat := 0
  start : Nat := 0
  lastDone : Option Nat := none
  deferred : Option Nat := none
  unload : Bool := false
  needTiles : Nat := 0
  deriving DecidableEq, Repr

/-- A tile migration (13 R396). -/
structure Mig where
  old : Nat
  new : Nat
  start : Nat
  /-- Entries have drained and the tile has been pre-empted. -/
  drained : Bool
  deriving DecidableEq, Repr

/-- Faults, health and repair (13 R394-R404). -/
structure FaultSys where
  vis : SMap ViH := []
  mig : Option Mig := none
  health : SMap Nat := []
  pondErrs : SMap (List Nat) := []
  hbmRows : List (Nat × Nat) := []
  hbmRetiring : List Nat := []
  hbmRetired : List Nat := []
  s2 : List S2 := []
  /-- Optical lanes out of service, by health index (10 R306, 13 R402). -/
  fencedLanes : List Nat := []
  deriving DecidableEq, Repr

/-- A snapshot trigger that waits for its T_L (14 R416, R417). -/
structure Trig where
  tl : Nat
  sources : Nat
  tag : Nat
  tile : Nat
  vi : Nat
  deriving DecidableEq, Repr

/-- A VI's record stream beside its registers (14 R421-R424). -/
structure ViRec where
  /-- SEQ of the next record of each TYPE and SOURCE, by 65536 × TYPE + SOURCE. -/
  seqs : SMap Nat := []
  gaps : Nat := 0
  /-- Times of the PHASE and SNAP records dropped first. -/
  gapAt : Nat := 0
  staged : List (List Byte) := []
  deriving DecidableEq, Repr

/-- Telemetry beside its registers (14). -/
structure TelemSys where
  /-- Global time in units of 2^-16 ns, and its rate per reference cycle (R410). -/
  time : Nat := 0
  rate : Nat := 419430
  ppsSet : Option Nat := none
  trigs : List Trig := []
  record : Option (List Byte) := none
  triggered : List Nat := []
  recs : SMap ViRec := []
  deriving DecidableEq, Repr

/-- A maintenance activity (15 R448, R450). -/
structure Maint where
  act : Nat
  tag : Nat
  target : Nat
  start : Nat
  deriving DecidableEq, Repr

/-- Boot, profiles and maintenance (15). -/
structure BootSys where
  sel : Nat := 0
  inReset : Bool := false
  linksTrain : Bool := false
  flashProfiles : SMap (List Byte) := []
  flashImages : SMap (List Byte) := []
  fuseVersion : Nat := 0
  running : List Maint := []
  queued : List Maint := []
  lastRun : SMap Nat := []
  dropped : Nat := 0
  /-- Tiles fenced by the fuses, and repairs that take effect at the next RESET_N (R448). -/
  fused : List Nat := []
  repairs : List Nat := []
  /-- Security version of the running firmware (R433). -/
  version : Nat := 0
  /-- Measurements 2 and 3 (R435). -/
  fwHash : BitVec 384 := 0
  profHash : BitVec 384 := 0
  deriving DecidableEq, Repr

/-- Power, clocks and pins (15 R452, R453, 16). -/
structure PowerSys where
  /-- The ceiling of the step that waits for the regulator, and the direction of the next step that waits for it. -/
  avs : Option Nat := none
  wanted : Option Bool := none
  /-- Tile PLL groups whose tiles are gated (01 R23), and the clock of each group in MHz (1,700 where unlisted). -/
  gaps : List Nat := []
  clk : SMap Nat := []
  throttling : Bool := false
  critHold : Bool := false
  tripped : Bool := false
  stopped : Bool := false
  gpioIn : Byte := 0
  deriving DecidableEq, Repr

/-- What the device sends (INVENTORY.md, Host interface). -/
inductive Output where
  /-- A frame an engine offers to Divide. -/
  | send (tc : Nat) (h : Hdr) (payload : List Byte)
  /-- A frame, link message, block or lane message on a Hyora port. -/
  | linkFrame (p seq tc : Nat) (h : Hdr) (payload : List Byte)
  | linkMsg (p : Nat) (bytes : List Byte)
  | linkAck (p ackseq : Nat) (nak : Bool) (smap : Nat)
  | linkCred (p tc total : Nat)
  | laneMsg (p : Nat) (m : W64)
  /-- Bits or symbols of a lane corrupted on purpose; 64 + e is edge port e (10 R312, R313). -/
  | inject (port lane n : Nat)
  /-- An Ethernet frame of an edge port: TYPE, PSN and body (11 R341). -/
  | metro (e type psn : Nat) (body : List Byte)
  | metroFrame (e psn : Nat) (f : DivFrame)
  /-- A frame leaves for an output of Divide other than a port. -/
  | deliver (output : Nat) (f : DivFrame)
  | mirror (session dtype did : Nat) (record : List Byte)
  | tarnBlock (u tc vi ctx gen attempt chunk block : Nat) (payload : List Byte)
  | msix (link vec : Nat)
  | hostWrite (link addr : Nat) (bytes : List Byte)
  | hostRead (link addr len : Nat)
  | readData (via : Via) (value : Nat)
  | bytes (link : Nat) (l : List Byte) (poisoned : Bool)
  | cxl (req : String) (addr : Nat) (data : List Byte)
  | event (unit code index : Nat)
  | report (what : Nat) (body : List Byte)
  | pin (name : String) (level : Bool)
  | spi (words : List W32)
  | datagram (port : Nat) (words : List W32)
  | spdm (index : Nat) (measurement : List Byte) (signature : BitVec 768)
  | config (d : LinkNo) (retry : Bool)
  deriving DecidableEq, Repr

/-- Everything of the state beside registers, memories and tiles. -/
structure Sys where
  mmu : SMap MmuVi := []
  dma : DmaSys := {}
  col : ColSys := {}
  tarn : TarnSys := {}
  div : DivSys := {}
  mere : List MBuf := []
  ports : SMap PortH := []
  links : SMap Link := []
  /-- PLL state of each edge port (10 R303): 0 OFF, 1 SETTLING, 2 LOCKED, 3 FAILED_LOCK. -/
  edgePll : SMap Nat := []
  edges : SMap PortH := []
  topo : TopoSys := {}
  metros : SMap Metro := []
  host : HostSys := {}
  faults : FaultSys := {}
  telem : TelemSys := {}
  boot : BootSys := {}
  power : PowerSys := {}
  /-- Write and read latch of each access path (00 R7): offset and half, by 2 × path (+ 1 for read). -/
  latches : SMap (Nat × Nat) := []
  deriving DecidableEq, Repr

/-- The state of the block. `regs` holds, by BAR0 offset, the difference (xor) of a register from its reset value;
`hbm` bytes by DPA; `pond` bytes by 2^22 × tile + offset. `free` counts the free values taken: it is the model's own
(DESIGN CHOICE, log entry 10), as are `pending` and `out`. -/
structure State where
  regs : SMap W64
  hbm : SMap Byte
  pond : SMap Byte
  tiles : SMap Tile
  sys : Sys
  out : List Output
  free : Nat
  pending : List Instr
  deriving DecidableEq, Repr

/-- The state right after reset: every register at its reset value, memories and queues empty. -/
def State.reset : State :=
  { regs := [], hbm := [], pond := [], tiles := [], sys := {}, out := [], free := 0, pending := [] }

/-- Why a command faults. -/
inductive Fault where
  /-- A host or firmware access to an address that does not exist in the device physical map (05 R135): raised by
  CXL_MEM_ACCESS outside the extents of 12 R370 and by FRAME_MIGRATE_DONE to a frame that does not exist. Safe: the
  model stops where the spec gives no effect. -/
  | noSuchAddress (a : Nat)
  deriving DecidableEq, Repr

/-- Why a command is refused. -/
inductive Refusal where
  /-- No meaning yet: raised by the arm of Dispatch.lean alone. Safe: the model stops. -/
  | notModelled (mnemonic : String)
  deriving DecidableEq, Repr

end Sys2Proof.Machine
end

