-- ==== Sys2Proof/Machine/Upd.lean ====
section
/-! DEFINITION. The primitive updates of the state. Every command is a list of them, so that what each of them keeps
(the canonical forms, S0 and P0, the queue) every command keeps. -/
namespace Sys2Proof.Machine

/-- What a sparse map holds at a key. -/
def smGet {α : Type} (d : α) : SMap α → Nat → α
  | [], _ => d
  | (j, x) :: m, k => if j = k then x else smGet d m k

/-- The map without a key. -/
def smDel {α : Type} : SMap α → Nat → SMap α
  | [], _ => []
  | (j, x) :: m, k => if j = k then smDel m k else (j, x) :: smDel m k

/-- The map with a key put in its place. -/
def smIns {α : Type} : SMap α → Nat → α → SMap α
  | [], k, v => [(k, v)]
  | (j, x) :: m, k, v =>
    if j = k then (k, v) :: m else if k < j then (k, v) :: (j, x) :: m else (j, x) :: smIns m k v

/-- The map with a key set: a default is not listed. -/
def smSet {α : Type} [DecidableEq α] (d : α) (m : SMap α) (k : Nat) (v : α) : SMap α :=
  if v = d then smDel m k else smIns m k v

/-- Keys strictly rising from a bound, and no entry equal to the default. -/
def smOkFrom {α : Type} [DecidableEq α] (d : α) : Nat → SMap α → Bool
  | _, [] => true
  | b, (j, x) :: m => decide (b ≤ j) && decide (x ≠ d) && smOkFrom d (j + 1) m

/-- The canonical form. -/
def smOk {α : Type} [DecidableEq α] (d : α) (m : SMap α) : Bool := smOkFrom d 0 m

/-- Bytes written at consecutive keys. -/
def smPut : SMap Byte → Nat → List Byte → SMap Byte
  | m, _, [] => m
  | m, a, b :: l => smPut (smSet 0 m a b) (a + 1) l

/-- The map without the keys from a up to b. -/
def smDrop {α : Type} (a b : Nat) (m : SMap α) : SMap α := m.filter fun p => decide (p.1 < a ∨ b ≤ p.1)

/-- A tile as it is after a VI reset or when it is allotted: its registers hold their reset values. -/
def clearTile (c : TileCore) : Tile := { core := c }

/-- The primitive updates. -/
inductive Upd where
  /-- The difference of the register at an offset from its reset value. -/
  | reg (off : Nat) (v : W64)
  /-- Bytes of HBM, by DPA. -/
  | hbm (a : Nat) (l : List Byte)
  /-- Bytes of a tile's pond. -/
  | pond (t off : Nat) (l : List Byte)
  /-- The pond of a tile set to zero (05 R134). -/
  | pondZero (t : Nat)
  | core (t : Nat) (c : TileCore)
  | csr (t n : Nat) (v : W64)
  | sreg (t i : Nat) (v : W64)
  | vreg (t i : Nat) (v : BitVec 8192)
  | preg (t i : Nat) (v : BitVec 1024)
  | acc (t k : Nat) (v : W64)
  /-- Accumulator a set to zero. -/
  | accZero (t a : Nat)
  /-- The register files and CSRs of a tile cleared. -/
  | tileClear (t : Nat)
  | sys (y : Sys)
  /-- A reset: registers at their reset values, ponds and tiles empty; HBM keeps its contents. -/
  | reset (y : Sys)
  | out (m : Output)
  /-- One free value is taken (DESIGN CHOICE, log entry 10). -/
  | free

/-- A tile with an update of its own. -/
def setTile (s : State) (t : Nat) (g : Tile → Tile) : State :=
  { s with tiles := smSet {} s.tiles t (g (smGet {} s.tiles t)) }

/-- The effect of an update. S0 and P0 take no write (03 R69). -/
def applyUpd (u : Upd) (s : State) : State :=
  match u with
  | .reg off v => { s with regs := smSet 0 s.regs off v }
  | .hbm a l => { s with hbm := smPut s.hbm a l }
  | .pond t off l => { s with pond := smPut s.pond (t * 4194304 + off) l }
  | .pondZero t => { s with pond := smDrop (t * 4194304) ((t + 1) * 4194304) s.pond }
  | .core t c => setTile s t fun x => { x with core := c }
  | .csr t n v => setTile s t fun x => { x with csr := smSet 0 x.csr n v }
  | .sreg t i v => if i = 0 then s else setTile s t fun x => { x with s := smSet 0 x.s i v }
  | .vreg t i v => setTile s t fun x => { x with v := smSet 0 x.v i v }
  | .preg t i v => if i = 0 then s else setTile s t fun x => { x with p := smSet 0 x.p i v }
  | .acc t k v => setTile s t fun x => { x with acc := smSet 0 x.acc k v }
  | .accZero t a => setTile s t fun x => { x with acc := smDrop (a * 8192) ((a + 1) * 8192) x.acc }
  | .tileClear t => setTile s t fun x => clearTile x.core
  | .sys y => { s with sys := y }
  | .reset y => { s with regs := [], pond := [], tiles := [], sys := y }
  | .out m => { s with out := s.out ++ [m] }
  | .free => { s with free := s.free + 1 }

/-- The state after a list of updates, the latest first. -/
def applyLog : List Upd → State → State
  | [], s => s
  | u :: l, s => applyUpd u (applyLog l s)

/-- A command's effect: it reads the state it starts from and lists its updates. -/
abbrev M := ReaderT State (StateM (List Upd))

/-- The state as it is now. -/
def cur : M State := do
  let s ← read
  let l ← get
  return applyLog l s

/-- One update. -/
def emit (u : Upd) : M Unit := modify fun l => u :: l

/-- The updates of a command, from none. -/
def logOf (m : M Unit) (s : State) : List Upd := ((m.run s).run []).2

/-- The outcome of a command that goes on. -/
def act (m : M Unit) (s : State) : Host.Outcome State Fault Refusal := .next (applyLog (logOf m s) s)

/-- The command when the condition holds, else nothing. -/
def whenB (c : Bool) (m : M Unit) : M Unit := if c then m else pure ()

end Sys2Proof.Machine
end

