-- ==== Sys2Proof/Machine/Ops.lean ====
section
/-! DEFINITION. The named operations over registers, memories, tiles and the free values, and the facts about VIs that
every family uses. -/
namespace Sys2Proof.Machine

/-! Registers. -/

/-- Value of a register. -/
def getR (s : State) (r : RegRef) : Nat := (smGet 0 s.regs r.off ^^^ r.rst).toNat

/-- Value of a field. -/
def getF (s : State) (f : FieldRef) : Nat := bits (getR s f.r) f.hi f.lo

/-- Value of a field of one bit. -/
def flag (s : State) (f : FieldRef) : Bool := getF s f != 0

/-- Sets a register. -/
def putR (r : RegRef) (v : Nat) : M Unit := emit (.reg r.off (BitVec.ofNat 64 v ^^^ r.rst))

/-- Sets a field. -/
def putF (f : FieldRef) (v : Nat) : M Unit := do
  let s ← cur
  putR f.r (setBits (getR s f.r) f.hi f.lo v)

/-- Largest value of a field. -/
def fieldMax (f : FieldRef) : Nat := 2 ^ (f.hi + 1 - f.lo) - 1

/-- Adds to a field, saturating. -/
def addSat (f : FieldRef) (n : Nat) : M Unit := do
  let s ← cur
  putF f (min (fieldMax f) (getF s f + n))

/-- Adds to a field, wrapping. -/
def addWrap (f : FieldRef) (n : Nat) : M Unit := do
  let s ← cur
  putF f (getF s f + n)

/-! The system part. -/

/-- Changes the system part. -/
def modSys (g : Sys → Sys) : M Unit := do
  let s ← cur
  emit (.sys (g s.sys))

/-- Something leaves the device. -/
def send (m : Output) : M Unit := emit (.out m)

/-- A value that the spec leaves open: the next free value (DESIGN CHOICE, log entry 10). -/
def takeFree : M W64 := do
  let s ← cur
  emit .free
  return Config.freeValue s.free

/-- Global time in ns (14 R410). -/
def nowNs (s : State) : Nat := s.sys.telem.time / 65536 % 2 ^ 64

/-- ms and µs in ns. -/
def msNs : Nat := 1000000

/-! Memories. -/

/-- Byte of HBM at a DPA. -/
def hbmByte (s : State) (a : Nat) : Byte := smGet 0 s.hbm a

/-- Bytes of HBM from a DPA. -/
def hbmRead (s : State) (a : Nat) : Nat → List Byte
  | 0 => []
  | n + 1 => hbmByte s a :: hbmRead s (a + 1) n

/-- Byte of a pond. -/
def pondByte (s : State) (t off : Nat) : Byte := smGet 0 s.pond (t * 4194304 + off)

/-- Bytes of a pond. -/
def pondRead (s : State) (t off : Nat) : Nat → List Byte
  | 0 => []
  | n + 1 => pondByte s t off :: pondRead s t (off + 1) n

/-- Size of a pond (05 R132). -/
def pondSize : Nat := 3145728

/-- Frames of a stack that exist (05 R135). -/
def stackFrames : Nat := 11718750

/-- Whether a DPA exists (05 R135). -/
def dpaExists (a : Nat) : Bool := a < 2 ^ 39 && bits a 35 12 < stackFrames

/-- HBM channel 0-255 of a DPA (05 R135). -/
def dpaChannel (a : Nat) : Nat := bits a 38 36 * 32 + bits a 35 12 % 32

/-! Tiles. -/

/-- A tile. -/
def tileOf (s : State) (t : Nat) : Tile := smGet {} s.tiles t

/-- Changes the core of a tile. -/
def modCore (t : Nat) (g : TileCore → TileCore) : M Unit := do
  let s ← cur
  emit (.core t (g (tileOf s t).core))

/-- S register (03 R69): S0 reads zero. -/
def getS (s : State) (t i : Nat) : W64 := if i = 0 then 0 else smGet 0 (tileOf s t).s i

/-- P register (03 R69): P0 reads all ones. -/
def getP (s : State) (t i : Nat) : BitVec 1024 := if i = 0 then BitVec.allOnes 1024 else smGet 0 (tileOf s t).p i

/-- V register. -/
def getV (s : State) (t i : Nat) : BitVec 8192 := smGet 0 (tileOf s t).v i

/-- CSR as stored. -/
def getCsr (s : State) (t n : Nat) : W64 := smGet 0 (tileOf s t).csr n

def csrVL : Nat := 0x000
def csrFFR : Nat := 0x001
def csrTCTL : Nat := 0x002
def csrFFLAGS : Nat := 0x003
def csrSRSEED (j : Nat) : Nat := 0x010 + j
def csrSRTID : Nat := 0x014
def csrSRBASE : Nat := 0x015
def csrTVEC : Nat := 0x020
def csrEPC : Nat := 0x021
def csrECAUSE : Nat := 0x022
def csrEADDR : Nat := 0x023
def csrESCRATCH : Nat := 0x024

/-- Sets FFLAGS bits (03 R71: sticky). -/
def setFlags (t : Nat) (fl : Nat) : M Unit := do
  let s ← cur
  if fl = 0 then pure ()
  else emit (.csr t csrFFLAGS (getCsr s t csrFFLAGS ||| BitVec.ofNat 64 fl))

/-- The seed of the Spring generator of a tile (03 R85). -/
def tileSeed (s : State) (t : Nat) : List Nat := (upto 4).map fun j => bits (getCsr s t (csrSRSEED j)).toNat 31 0

/-! Virtual instances. -/

/-- Whether the VI exists (15 R440). -/
def viPresent (s : State) (v : Nat) : Bool := flag s (F.MGMT_VI_CTL_PRESENT v)

/-- Whether a program is loaded. -/
def viLoaded (s : State) (v : Nat) : Bool := flag s (F.MGMT_VI_CTL_LOADED v)

/-- Current incarnation (01 R17). -/
def viInc (s : State) (v : Nat) : Nat := getF s (F.FAULT_VI_CTL_INC v)

/-- 0 IDLE, 1 RUN, 2 RESETTING, 3 CONTAINED (13 R409). -/
def viState (s : State) (v : Nat) : Nat := getF s (F.FAULT_VI_CTL_STATE v)

/-- Whether every VI is idle (01 R30, 14 R411). -/
def allIdle (s : State) : Bool := (upto 16).all fun v => !viPresent s v || viState s v == 0

/-- Whether an entry tagged (vi, inc) may act (01 R17). -/
def tagOk (s : State) (v inc : Nat) : Bool := v < 16 && viPresent s v && viInc s v == inc

/-- HBM allotment in bytes (05 R140). -/
def allotHbm (s : State) (v : Nat) : Nat := getF s (F.MGMT_VI_CFG_HBM v) * 2097152

/-- Allotment of outstanding descriptors (15 R454). -/
def allotDesc (s : State) (v : Nat) : Nat := getF s (F.MGMT_VI_CFG_DESC v) * 16

/-- Whether EXPERT_EN is set for the VI or globally (00 R4, 15 R443). -/
def expertOn (s : State) (v : Option Nat) : Bool :=
  flag s F.MGMT_EXPERT_GLOBAL ||
  (match v with
   | some v => bit (getF s F.MGMT_EXPERT_VI) v
   | none => false)

/-- Whether a logical position is allotted to the VI (15 R454). -/
def posAllotted (s : State) (v i : Nat) : Bool := i < 144 && bit (getR s (R.MGMT_VI_TILES v (i / 64))) (i % 64)

/-- Logical positions of the VI, ascending: slot j is entry j (05 R137). -/
def viPositions (s : State) (v : Nat) : List Nat := (upto 144).filter fun i => posAllotted s v i

/-- Physical tile at a logical position (01 R28). -/
def tileAt (s : State) (i : Nat) : Option Nat :=
  let p := getF s (F.GLOBAL_TILE_MAP_PTILE i)
  if p = 255 then none else some p

/-- Logical position of a physical tile. -/
def posOf (s : State) (t : Nat) : Option Nat := (upto 144).find? fun i => tileAt s i == some t

/-- Physical tile of slot j of the VI (05 R137). -/
def slotTile (s : State) (v j : Nat) : Option Nat :=
  match (viPositions s v)[j]? with
  | some i => tileAt s i
  | none => none

/-- Physical tiles of the VI. -/
def viTiles (s : State) (v : Nat) : List Nat := (viPositions s v).filterMap fun i => tileAt s i

/-- Slot of a physical tile in the VI. -/
def tileSlot (s : State) (v t : Nat) : Option Nat :=
  (upto (viPositions s v).length).find? fun j => slotTile s v j == some t

/-- Owner VI of a physical tile by the allotments. -/
def tileOwner (s : State) (t : Nat) : Option Nat :=
  match posOf s t with
  | some i => (upto 16).find? fun v => posAllotted s v i
  | none => none

/-- Containment in force (13 R377). -/
def contained (s : State) : Bool := flag s F.FAULT_DEV_STAT_DEVICE_FAULT

/-- The clocks of the device run: no trip, no loss of the reference, no reset held (15 R453, 16 R459, R465). -/
def clocked (s : State) : Bool := !s.sys.power.tripped && !s.sys.power.stopped && !s.sys.boot.inReset

/-- Stages of MGMT_BOOT_STAT (15 R454). -/
def stageReset : Nat := 0
def stageFirmware : Nat := 1
def stageSelftest : Nat := 2
def stageHbm : Nat := 3
def stageProfile : Nat := 4
def stageReady : Nat := 5
def stageNoProfile : Nat := 6
def stageBootFail : Nat := 7
def stageRecovery : Nat := 8
def bootStage (s : State) : Nat := getF s F.MGMT_BOOT_STAT_STAGE

/-- The blocks run: the clocks do, and the boot has neither failed nor ended in RECOVERY (15 R432, R434). -/
def live (s : State) : Bool := clocked s && bootStage s != stageBootFail && bootStage s != stageRecovery

/-- Engines act: clocks run and containment is not in force (13 R377). -/
def enginesRun (s : State) : Bool := live s && !contained s

/-- Die of a physical tile, counter, group context, Tarn unit and DMA engine (01 R9, R27). -/
def dieOfTile (t : Nat) : Nat := t / 76
def dieOfGrp (g : Nat) : Nat := g / 512
def dieOfUnit (u : Nat) : Nat := u / 48

/-! Counters and groups of a VI. -/

/-- Physical counter of a local index (06 R184): none outside the allotment. -/
def ctrOf (s : State) (v k : Nat) : Option Nat :=
  if k < getF s (F.SIG_VI_CFG_COUNT v) then some (getF s (F.SIG_VI_CFG_BASE v) + k) else none

/-- The VI whose allotment holds a physical counter. -/
def ctrOwner (s : State) (c : Nat) : Option Nat :=
  (upto 16).find? fun v =>
    decide (getF s (F.SIG_VI_CFG_BASE v) ≤ c ∧ c < getF s (F.SIG_VI_CFG_BASE v) + getF s (F.SIG_VI_CFG_COUNT v))

/-- Physical group context of a local index (07 R236). -/
def grpOf (s : State) (v k : Nat) : Option Nat :=
  if k < getF s (F.COL_VI_CFG_COUNT v) then some (getF s (F.COL_VI_CFG_BASE v) + k) else none

/-- The VI whose allotment holds a physical group context. -/
def grpOwner (s : State) (g : Nat) : Option Nat :=
  (upto 16).find? fun v =>
    decide (getF s (F.COL_VI_CFG_BASE v) ≤ g ∧ g < getF s (F.COL_VI_CFG_BASE v) + getF s (F.COL_VI_CFG_COUNT v))

/-- Physical DMA queue of a local index (06 R169): an enabled queue of the VI with that LQ. -/
def qOf (s : State) (v lq : Nat) : Option Nat :=
  (upto 1024).find? fun q =>
    flag s (F.DMA_Q_CFG_EN q) && getF s (F.DMA_Q_CFG_VI q) == v && getF s (F.DMA_Q_CFG_LQ q) == lq

/-- The VI of a host queue (12 R356). -/
def hqOwner (s : State) (q : Nat) : Option Nat :=
  (upto 16).find? fun v =>
    decide (getF s (F.HOST_VI_CFG_QBASE v) ≤ q ∧ q < getF s (F.HOST_VI_CFG_QBASE v) + getF s (F.HOST_VI_CFG_QCOUNT v))

/-- The system maps by their default. -/
def grpSt (s : State) (g : Nat) : Grp := smGet {} s.sys.col.grps g
def setGrp (g : Nat) (x : Grp) : M Unit :=
  modSys fun y => { y with col := { y.col with grps := smSet {} y.col.grps g x } }
def modGrp (g : Nat) (f : Grp → Grp) : M Unit := do
  let s ← cur
  setGrp g (f (grpSt s g))
def hqSt (s : State) (q : Nat) : Hq := smGet {} s.sys.host.hqs q
def modHq (q : Nat) (f : Hq → Hq) : M Unit :=
  modSys fun y => { y with host := { y.host with hqs := smSet {} y.host.hqs q (f (smGet {} y.host.hqs q)) } }
def mmuSt (s : State) (v : Nat) : MmuVi := smGet {} s.sys.mmu v
def modMmu (v : Nat) (f : MmuVi → MmuVi) : M Unit :=
  modSys fun y => { y with mmu := smSet {} y.mmu v (f (smGet {} y.mmu v)) }
def unitSt (s : State) (u : Nat) : TUnit := smGet {} s.sys.tarn.units u
def modUnit (u : Nat) (f : TUnit → TUnit) : M Unit :=
  modSys fun y => { y with tarn := { y.tarn with units := smSet {} y.tarn.units u (f (smGet {} y.tarn.units u)) } }
def portSt (s : State) (p : Nat) : PortH := smGet {} s.sys.ports p
def modPort (p : Nat) (f : PortH → PortH) : M Unit :=
  modSys fun y => { y with ports := smSet {} y.ports p (f (smGet {} y.ports p)) }
def edgeSt (s : State) (e : Nat) : PortH := smGet {} s.sys.edges e
def modEdge (e : Nat) (f : PortH → PortH) : M Unit :=
  modSys fun y => { y with edges := smSet {} y.edges e (f (smGet {} y.edges e)) }
def linkSt (s : State) (p : Nat) : Link := smGet {} s.sys.links p
def modLink (p : Nat) (f : Link → Link) : M Unit :=
  modSys fun y => { y with links := smSet {} y.links p (f (smGet {} y.links p)) }
def metroSt (s : State) (e : Nat) : Metro := smGet {} s.sys.metros e
def modMetro (e : Nat) (f : Metro → Metro) : M Unit :=
  modSys fun y => { y with metros := smSet {} y.metros e (f (smGet {} y.metros e)) }
def viFaultSt (s : State) (v : Nat) : ViH := smGet {} s.sys.faults.vis v
def modViFault (v : Nat) (f : ViH → ViH) : M Unit :=
  modSys fun y => { y with faults := { y.faults with vis := smSet {} y.faults.vis v (f (smGet {} y.faults.vis v)) } }
def recSt (s : State) (v : Nat) : ViRec := smGet {} s.sys.telem.recs v
def modRec (v : Nat) (f : ViRec → ViRec) : M Unit :=
  modSys fun y => { y with telem := { y.telem with recs := smSet {} y.telem.recs v (f (smGet {} y.telem.recs v)) } }
def modDma (f : DmaSys → DmaSys) : M Unit := modSys fun y => { y with dma := f y.dma }
def modDiv (f : DivSys → DivSys) : M Unit := modSys fun y => { y with div := f y.div }
def modHost (f : HostSys → HostSys) : M Unit := modSys fun y => { y with host := f y.host }
def modTelem (f : TelemSys → TelemSys) : M Unit := modSys fun y => { y with telem := f y.telem }
def modBoot (f : BootSys → BootSys) : M Unit := modSys fun y => { y with boot := f y.boot }
def modPower (f : PowerSys → PowerSys) : M Unit := modSys fun y => { y with power := f y.power }
def modTopo (f : TopoSys → TopoSys) : M Unit := modSys fun y => { y with topo := f y.topo }
def modFaults (f : FaultSys → FaultSys) : M Unit := modSys fun y => { y with faults := f y.faults }

end Sys2Proof.Machine
end

