-- ==== Sys2Proof/Machine/Lines.lean ====
section
/-! DEFINITION. Host lines held for CXL.cache (12 R367-R369) and what a signal line shows. -/
namespace Sys2Proof.Machine

/-- Sizes of the line cache and of the eviction buffer (R367). -/
def cacheLines : Nat := 512
def evictEntries : Nat := 32

/-- Whether a host link runs CXL.cache. -/
def cacheOn (s : State) (d : Nat) : Bool := flag s (F.HOST_LINK_LINKUP d) && flag s (F.HOST_LINK_CACHEEN d)

/-- Bytes written over a line at an offset. -/
def overlay (line : List Byte) (off : Nat) (l : List Byte) : List Byte :=
  line.take off ++ l ++ line.drop (off + l.length)

/-- Updates applied to a line in order. -/
def overlays (line : List Byte) (ups : List (Nat × List Byte)) : List Byte :=
  ups.foldl (fun x u => overlay x u.1 u.2) line

def lineAt (s : State) (a : Nat) : Option HLine := (s.sys.host.lines.find? fun p => p.1 == a).map (·.2)
def evictAt (s : State) (a : Nat) : Option Evict := s.sys.host.evicts.find? fun e => e.addr == a

/-- A line enters the cache in a state, or leaves it. -/
def setLine (a : Nat) (x : HLine) : M Unit :=
  modHost fun y => { y with lines := (y.lines.filter fun p => p.1 < a) ++ (a, x) :: y.lines.filter fun p => a < p.1 }
def dropLine (a : Nat) : M Unit := modHost fun y => { y with lines := y.lines.filter fun p => p.1 != a }

/-- A line leaves by DirtyEvict or CleanEvictNoData (R368): whether the buffer has room. -/
def evictLine (a : Nat) (x : HLine) : M Bool := do
  let s ← cur
  if evictEntries ≤ s.sys.host.evicts.length then return false
  else do
    dropLine a
    let dirty := x.st == .m
    modHost fun y =>
      { y with evicts := y.evicts ++ [{ addr := a, dirty, data := x.data, lost := false, pulled := false, waiting := [], vi := x.vi }] }
    send (.cxl (if dirty then "DirtyEvict" else "CleanEvictNoData") a [])
    return true

/-- The line in the cache that was updated longest ago, those that wait for their RdOwn excepted. -/
def oldestLine (l : List (Nat × HLine)) : Option (Nat × HLine) :=
  l.foldl (fun b p => if p.2.st == .rdOwn then b else
    match b with
    | some q => if p.2.at_ < q.2.at_ then some p else b
    | none => some p) none

/-- Whether a slot is free, after an eviction where one is needed. -/
def lineRoom : M Bool := do
  let s ← cur
  if s.sys.host.lines.length < cacheLines then return true
  else
    match oldestLine s.sys.host.lines with
    | some p => evictLine p.1 p.2
    | none => return false

/-- An update of a host line (R367, R368): at once in M or E, after a RdOwn otherwise, and after the eviction where one
runs. -/
def lineWrite (vi a off : Nat) (l : List Byte) : M Unit := do
  let s ← cur
  match evictAt s a with
  | some _ =>
    modHost fun y =>
      { y with evicts := y.evicts.map fun e => if e.addr = a then { e with waiting := e.waiting ++ [(off, l)], vi } else e }
  | none =>
    match lineAt s a with
    | some x =>
      match x.st with
      | .rdOwn => setLine a { x with update := x.update ++ [(off, l)] }
      | .s => do
        setLine a { x with st := .rdOwn, update := [(off, l)] }
        send (.cxl "RdOwn" a [])
      | _ => setLine a { x with st := .m, data := overlay x.data off l, at_ := nowNs s }
    | none => do
      let ok ← lineRoom
      if ok then do
        setLine a { st := .rdOwn, data := List.replicate 64 0, update := [(off, l)], at_ := nowNs s, vi }
        send (.cxl "RdOwn" a [])
      else modHost fun y => { y with lineWait := y.lineWait ++ [(vi, a, off, l)] }

/-- Updates that wait for a slot are made while there is room. -/
def lineDrain : List (Nat × Nat × Nat × List Byte) → M Unit
  | [] => pure ()
  | (vi, a, off, l) :: rest => do
    lineWrite vi a off l
    lineDrain rest

/-! Signal lines. -/

/-- VALUE, OVF, UNF and DRIFT of a counter in one word (06 R186). -/
def ctrWord (s : State) (c : Nat) : Nat :=
  getF s (F.SIG_CTR_VALUE c) +
    2 ^ 32 * (getF s (F.SIG_CTR_OVF c) + 2 * getF s (F.SIG_CTR_UNF c) + 4 * getF s (F.SIG_CTR_DRIFT c))

/-- The 64 bytes of a signal line: counters beyond the VI's allotment read as zero. -/
def slBytes (s : State) (n : Nat) : List Byte :=
  (upto 8).flatMap fun k =>
    bytesOf 8 (match ctrOf s (getF s (F.HOST_SL_BIND_VI n)) (getF s (F.HOST_SL_BIND_FIRST n) + k) with
      | some c => ctrWord s c
      | none => 0)

/-- Link and bus address of a signal line. -/
def slLink (s : State) (n : Nat) : Nat := getF s (F.HOST_VI_CFG_LINK (getF s (F.HOST_SL_BIND_VI n)))
def slAddr (s : State) (n : Nat) : Nat := getF s (F.HOST_SL_ADDR_ADDR n) * 64

/-- A signal line has changed: written in the line cache, or due for a posted write (R367). -/
def slTouch (n : Nat) : M Unit := do
  let s ← cur
  if cacheOn s (slLink s n) then lineWrite (getF s (F.HOST_SL_BIND_VI n)) (slAddr s n) 0 (slBytes s n)
  else modHost fun y => { y with slDirty := if y.slDirty.contains n then y.slDirty else y.slDirty ++ [n] }

/-- A signal line is posted. -/
def slPost (n : Nat) : M Unit := do
  let s ← cur
  modHost fun y => { y with slDirty := y.slDirty.filter (· != n), slAt := smSet 0 y.slAt n (nowNs s + 1) }
  whenB (flag s (F.HOST_LINK_LINKUP (slLink s n))) (send (.hostWrite (slLink s n) (slAddr s n) (slBytes s n)))

end Sys2Proof.Machine
end

