-- ==== Sys2Proof/Machine/Events.lean ====
section
/-! DEFINITION. What the device notices and tells: event counters (14 R412), snapshot triggers (14 R416), MSI-X (12
R366), the device error queue (13 R375), health scores (13 R403, R404), signal counters (06 R185), the numeric watch
(08 R257, R258), and the headers of the frames it sends (11 R321). -/
namespace Sys2Proof.Machine

/-! Event counters. -/

/-- Instances of a register array that do not hold their reset value. -/
def touched (s : State) (base stride n : Nat) : List Nat :=
  s.regs.filterMap fun p =>
    if base ≤ p.1 ∧ p.1 < base + stride * n ∧ (p.1 - base) % stride = 0 then some ((p.1 - base) / stride) else none

/-- Counters that are enabled; EN is 0 at reset, so an enabled counter's CFG does not hold its reset value. -/
def enabledCtrs (s : State) : List Nat :=
  (touched s 0x401000 16 256).filter fun i => flag s (F.TELEM_CTR_CFG_EN i)

/-- Whether counter i counts an event (14 R412). -/
def ctrMatches (s : State) (i block ev inst : Nat) (vi : Option Nat) : Bool :=
  getF s (F.TELEM_CTR_CFG_BLOCK i) == block && getF s (F.TELEM_CTR_CFG_EVENT i) == ev &&
  (getF s (F.TELEM_CTR_CFG_INST i) == 0xFFF || getF s (F.TELEM_CTR_CFG_INST i) == inst) &&
  (!flag s (F.TELEM_CTR_CFG_VIEN i) || vi == some (getF s (F.TELEM_CTR_CFG_VI i)))

/-- A counter counts n, saturating (14 R412). -/
def ctrCount (i n : Nat) : M Unit := do
  let s ← cur
  let v := getF s (F.TELEM_CTR_VALUE i) + n
  if v < 2 ^ 48 then putF (F.TELEM_CTR_VALUE i) v
  else
    putF (F.TELEM_CTR_VALUE i) (2 ^ 48 - 1)
    putF (F.TELEM_CTR_OVF i) 1

/-- n occurrences of an event at an instance, charged to a VI (14 R412, R413). -/
def countEv (block ev inst : Nat) (vi : Option Nat) (n : Nat) : M Unit := do
  let s ← cur
  ((enabledCtrs s).filter fun i => ctrMatches s i block ev inst vi).forM fun i => ctrCount i n

/-- A telemetry event (labels: DEDUCED, log entry 18). -/
def event (unit code index : Nat) : M Unit := send (.event unit code index)

/-- A snapshot trigger: T_L is 256 ns after now (14 R416). -/
def trigger (sources tag tile vi : Nat) : M Unit := do
  let s ← cur
  modTelem fun y => { y with trigs := y.trigs ++ [{ tl := nowNs s + 256, sources, tag, tile, vi }] }

/-! MSI-X. -/

/-- A vector of a link's table: sent, or pending while masked (12 R366). A link that is down carries nothing. -/
def sendVec (d vec : Nat) : M Unit := do
  let s ← cur
  if !s.sys.host.msixOpen.contains (d, vec) then
    modHost fun y => { y with msixPend := if y.msixPend.contains (d, vec) then y.msixPend else y.msixPend ++ [(d, vec)] }
  else whenB (flag s (F.HOST_LINK_LINKUP d)) (send (.msix d vec))

/-- A local vector of a VI (12 R366). -/
def sendVi (v loc : Nat) : M Unit := do
  let s ← cur
  let d := getF s (F.HOST_VI_CFG_LINK v)
  if loc < getF s (F.HOST_VI_CFG_VCOUNT v) then sendVec d (getF s (F.HOST_VI_CFG_VBASE v) + loc)
  else addSat (F.HOST_LINK_BADVEC d) 1

/-- A vector of the physical function: on link 0, or on link 1 while link 0 is down (12 R366). -/
def sendPf (vec : Nat) : M Unit := do
  let s ← cur
  sendVec (if flag s (F.HOST_LINK_LINKUP 0) then 0 else 1) vec

/-- The note of 13 R409: containment, predictive events and completed VI resets. -/
def devNote : M Unit := do
  let s ← cur
  whenB (flag s F.FAULT_DEV_NOTE_MSIEN) (sendPf (getF s F.FAULT_DEV_NOTE_VEC))

/-! The device error queue. -/

/-- An error-queue entry (13 R375). -/
def errBytes (e : ErrEntry) (time : Nat) : List Byte :=
  bytesOf 1 e.cls ++ bytesOf 1 e.unit ++ bytesOf 2 e.index ++ bytesOf 1 e.code ++
  bytesOf 1 ((e.vi.getD 0) % 16 + 16 * b2n e.vi.isSome + 32 * b2n e.overlap) ++
  bytesOf 1 (if e.vi.isSome then e.inc else 0) ++ [0] ++ bytesOf 8 time ++ bytesOf 8 e.info.toNat ++ bytesOf 8 0

/-- Posts an error of class RECOVERED or higher (13 R375); CORRECTED errors are not posted. -/
def postErr (e : ErrEntry) : M Unit := do
  let s ← cur
  let size := 64 * 2 ^ getF s F.FAULT_EQ_BASE_SIZE
  let head := getF s F.FAULT_EQ_HEAD_HEAD
  if e.cls < 2 then pure ()
  else if (head + 1) % size = getF s F.FAULT_EQ_TAIL_TAIL % size then
    addSat F.FAULT_EQ_DROP_DROP 1
    putF F.FAULT_DEV_STAT_EQOVF 1
  else
    emit (.hbm (getF s F.FAULT_EQ_BASE_BASE * 4096 + head * 32) (errBytes e (nowNs s)))
    putF F.FAULT_EQ_HEAD_HEAD ((head + 1) % size)
    whenB (bit (getF s F.TELEM_SNAP_CTL_EN) 4) (trigger 16 0 0 0)

/-! Health. -/

/-- Health object of an optical lane, port, edge port, engine, DMA engine, Tarn unit, tile, HBM channel (13 R402). -/
def objLane (e l : Nat) : Nat := 34 * e + l
def objPort (p : Nat) : Nat := 272 + p
def objEdge (e : Nat) : Nat := 336 + e
def objEngine (e : Nat) : Nat := 344 + e
def objDma (e : Nat) : Nat := 352 + e
def objUnit (u : Nat) : Nat := 416 + u
def objTile (t : Nat) : Nat := 512 + t
def objHbm (c : Nat) : Nat := 664 + c
def objDevice : Nat := 920

/-- Whether a health object is fenced (13 R403). -/
def objFenced (s : State) (n : Nat) : Bool :=
  if 512 ≤ n ∧ n < 664 then (tileOf s (n - 512)).core.state == .fenced
  else if 416 ≤ n ∧ n < 512 then flag s (F.TARN_UNIT_STAT_FENCED (n - 416))
  else if n < 272 then s.sys.faults.fencedLanes.contains n
  else if 664 ≤ n ∧ n < 920 then s.sys.faults.hbmRetired.contains (n - 664)
  else false

/-- Accumulator A[n] in sixteenths of a point (13 R403). -/
def healthAcc (s : State) (n : Nat) : Nat := smGet 0 s.sys.faults.health n

/-- Spare lanes in use. -/
def sparesInUse (s : State) : Nat := sumOf (fun e => 2 - getF s (F.PORT_ENG_STAT_SPFREE e)) (upto 8)

/-- SCORE[n] (13 R403). -/
def scoreOf (s : State) (n : Nat) : Nat :=
  if n = objDevice then
    max (max (min 1000 (healthAcc s n / 16))
      ((s.sys.faults.health.filter fun p => p.1 != objDevice && !objFenced s p.1).foldl
        (fun m p => max m (min 1000 (p.2 / 16))) 0))
      (1000 * (getF s F.GLOBAL_TILE_COUNT_FENCED + sparesInUse s) / 24)
  else if objFenced s n then 1000
  else min 1000 (healthAcc s n / 16)

/-- Unit code and index that name a health object in the error queue. -/
def objName (n : Nat) : Nat × Nat :=
  if n < 272 then (8, n) else if n < 336 then (8, n - 272) else if n < 344 then (9, n - 336)
  else if n < 352 then (8, 8 * (n - 344)) else if n < 416 then (3, n - 352) else if n < 512 then (5, n - 416)
  else if n < 664 then (1, n - 512) else if n < 920 then (10, n - 664) else (0, 0)

/-- What a change of a score from `old` does (13 R404). -/
def scoreCheck (n old : Nat) : M Unit := do
  let s ← cur
  let now := scoreOf s n
  if old ≤ 800 ∧ 800 < now ∧ flag s (F.FAULT_HEALTH_ARMED n) = true then
    putF (F.FAULT_HEALTH_PRED n) 1
    putF (F.FAULT_HEALTH_ARMED n) 0
    putF F.FAULT_DEV_STAT_PRED 1
    let c ← takeFree
    let e : ErrEntry :=
      { cls := 3, unit := (objName n).1, index := (objName n).2, code := bits c.toNat 7 0, vi := none, inc := 0,
        overlap := false, info := 0 }
    postErr e
    send (.report 1 (errBytes e (nowNs s)))
    devNote
  else whenB (decide (now < 700) && !flag s (F.FAULT_HEALTH_ARMED n)) (putF (F.FAULT_HEALTH_ARMED n) 1)

/-- A change that may move the scores of object n and of the device. -/
def withScore (n : Nat) (m : M Unit) : M Unit := do
  let s ← cur
  m
  scoreCheck n (scoreOf s n)
  whenB (n != objDevice) (scoreCheck objDevice (scoreOf s objDevice))

/-- An event of the given points on a health object (13 R403). -/
def healthAdd (n pts : Nat) : M Unit :=
  withScore n (modFaults fun y => { y with health := smSet 0 y.health n (smGet 0 y.health n + 16 * pts) })

/-! Signal counters. -/

/-- VALUE of a counter. -/
def ctrVal (s : State) (c : Nat) : Nat := getF s (F.SIG_CTR_VALUE c)

/-- Signal lines that show a counter (12 R367). -/
def linesOf (s : State) (c : Nat) : List Nat :=
  (touched s 0x1020008 16 256).filter fun n =>
    let v := getF s (F.HOST_SL_BIND_VI n)
    let lo := getF s (F.SIG_VI_CFG_BASE v) + getF s (F.HOST_SL_BIND_FIRST n)
    flag s (F.HOST_SL_BIND_EN n) && decide (lo ≤ c ∧ c < lo + 8)

/-- A counter has changed: its lines are to be written. -/
def ctrChanged (c : Nat) : M Unit := do
  let s ← cur
  (linesOf s c).forM slTouch

/-- The event of a saturation: code 1 OVF, 2 UNF (06 R185). -/
def ctrEvent (c code : Nat) : M Unit := do
  let s ← cur
  (match ctrOwner s c with
   | some v => putF (F.SIG_VI_STAT_EVT v) 1
   | none => pure ())
  event 0x0C code c

/-- `on add` (06 R185). -/
def ctrAdd (c v : Nat) : M Unit := do
  let s ← cur
  putF (F.SIG_ARR_ARRIVED c) (getF s (F.SIG_ARR_ARRIVED c) + v)
  (if ctrVal s c + v > 0xFFFFFFFF then do
    putF (F.SIG_CTR_VALUE c) 0xFFFFFFFF
    putF (F.SIG_CTR_OVF c) 1
    ctrEvent c 1
   else putF (F.SIG_CTR_VALUE c) (ctrVal s c + v))
  countEv 0x0C 1 (c / 16384) (ctrOwner s c) 1
  ctrChanged c

/-- `on sub` (06 R185). -/
def ctrSub (c v : Nat) : M Unit := do
  let s ← cur
  (if v > ctrVal s c then do
    putF (F.SIG_CTR_VALUE c) 0
    putF (F.SIG_CTR_UNF c) 1
    ctrEvent c 2
   else putF (F.SIG_CTR_VALUE c) (ctrVal s c - v))
  ctrChanged c

/-- `on set` (06 R185). -/
def ctrSet (c v : Nat) : M Unit := do
  putF (F.SIG_CTR_VALUE c) v
  putF (F.SIG_CTR_OVF c) 0
  putF (F.SIG_CTR_UNF c) 0
  ctrChanged c

/-- Adds to a counter of a VI by its local index, when the allotment holds it. -/
def ctrAddLocal (v k n : Nat) : M Unit := do
  let s ← cur
  match ctrOf s v k with
  | some c => ctrAdd c n
  | none => pure ()

/-! The numeric watch. -/

/-- TARN_VI_WATCH_NOTE (08 R258). -/
def watchNote (v : Nat) : M Unit := do
  let s ← cur
  whenB (flag s (F.TARN_VI_WATCH_NOTE_MSIEN v)) (sendVi v (getF s (F.TARN_VI_WATCH_NOTE_VEC v)))
  whenB (flag s (F.TARN_VI_WATCH_NOTE_SIGEN v)) (ctrAddLocal v (getF s (F.TARN_VI_WATCH_NOTE_SIGCTR v)) 1)

/-- Increments of watch counter n of VI v, applied together (08 R257, R258). -/
def watch (v n k : Nat) : M Unit := do
  let s ← cur
  if k = 0 then pure ()
  else
    addSat (F.TARN_VI_WATCH_COUNT v n) k
    whenB (bit (getF s (F.TARN_VI_WATCH_CTL_EVEN v)) n && !bit (getF s (F.TARN_VI_WATCH_SUM_SUM v)) n) do
      putF (F.TARN_VI_WATCH_SUM_SUM v) (setBits (getF s (F.TARN_VI_WATCH_SUM_SUM v)) n n 1)
      event 0x05 n v
      watchNote v

def wNonfinite : Nat := 0
def wSat : Nat := 1
def wGridflush : Nat := 2
def wFlush : Nat := 3
def wCrush : Nat := 4
def wMalformed : Nat := 5
def wStale : Nat := 6
def wRoute : Nat := 7
def wDup : Nat := 8

/-! Frames. -/

/-- This device's number and active epoch (11 R348). -/
def selfDev (s : State) : Nat := getF s F.GLOBAL_TOPO_ACT_DEV
def selfEpoch (s : State) : Nat := getF s F.GLOBAL_TOPO_ACT_EPOCH

/-- LAST of a payload (11 R321). -/
def lastOf (len : Nat) : Nat := len % 256

/-- A transport header from VI `svi` of this device (11 R321). -/
def mkHdr (s : State) (kind ddev dvi dinc svi sinc len : Nat) (k0 k1 : W64) : Hdr :=
  { ddev := BitVec.ofNat 15 ddev, dvi := BitVec.ofNat 4 dvi, kind := BitVec.ofNat 4 kind,
    dinc := BitVec.ofNat 8 dinc, sdev := BitVec.ofNat 15 (selfDev s), svi := BitVec.ofNat 4 svi,
    sinc := BitVec.ofNat 8 sinc, stamp := BitVec.ofNat 32 (nowNs s), epoch := BitVec.ofNat 16 (selfEpoch s),
    last := BitVec.ofNat 8 (lastOf len), k0, k1 }

/-- Words of a member-table entry (07 R201). -/
def membDev (w : W64) : Nat := bits w.toNat 14 0
def membVi (w : W64) : Nat := bits w.toNat 18 15
def membInc (w : W64) : Nat := bits w.toNat 26 19

/-- Messages of COL_CTL (11 R321). -/
def msgJoin : Nat := 1
def msgAccept : Nat := 2
def msgRefuse : Nat := 3
def msgLeave : Nat := 4
def msgCredit : Nat := 5
def msgArrive : Nat := 6
def msgAbort : Nat := 7
def msgAbortAck : Nat := 8
def msgExclude : Nat := 9

/-- The VI that holds a context. -/
def grpVi (s : State) (g : Nat) : Nat := (grpOwner s g).getD 0

/-- N and RANK of a context. -/
def grpN (s : State) (g : Nat) : Nat := getF s (F.COL_GRP_RANK_N g)
def grpRank (s : State) (g : Nat) : Nat := getF s (F.COL_GRP_RANK_RANK g)

/-- N of a group: the 16-bit field as it stands (07 R236). -/
def grpGid (s : State) (g : Nat) : Nat := getF s (F.COL_GRP_ID_GID g)

/-- A control message of a group to the member of a table word (07 R207, 11 R321). -/
def colMsg (g : Nat) (dest : W64) (gen msg rank arg : Nat) (payload : List Byte) : M Unit := do
  let s ← cur
  let v := grpVi s g
  send (.send 0 (mkHdr s 4 (membDev dest) (membVi dest) (membInc dest) v (viInc s v) payload.length
    (BitVec.ofNat 64 (grpGid s g + gen % 2 ^ 32 * 2 ^ 32))
    (BitVec.ofNat 64 (msg + rank % 2 ^ 15 * 2 ^ 8 + arg % 2 ^ 41 * 2 ^ 23))) payload)

/-- Ranks of the table other than this member's. -/
def otherMembers (s : State) (g : Nat) : List (Nat × W64) :=
  (indexed 0 (grpSt s g).members).filter fun p => p.1 != grpRank s g

/-- A control message to every other member. -/
def colMsgAll (g gen msg rank arg : Nat) (payload : List Byte) : M Unit := do
  let s ← cur
  (otherMembers s g).forM fun p => colMsg g p.2 gen msg rank arg payload

end Sys2Proof.Machine
end

