-- ==== Sys2Proof/Machine/Mmu.lean ====
section
/-! DEFINITION. Translation and fault records (05 R137-R159): where a virtual address lies, and what is written, held
and parked when it does not translate. -/
namespace Sys2Proof.Machine

/-- A place in memory. -/
inductive Pa where
  | hbm (dpa : Nat)
  | pond (t off : Nat)
  deriving DecidableEq, Repr

/-- The outcome of a translation (05 R144): `mig` for a page under migration (R150). -/
inductive Xl where
  | ok (p : Pa)
  | fault (code stage level ipa : Nat)
  | mig
  deriving DecidableEq, Repr

/-- Codes of 05 R148. -/
def fNotPresent : Nat := 1
def fPerm : Nat := 2
def fMalformed : Nat := 3
def fRange : Nat := 4

/-- Kinds of access (05 R151). -/
def aRead : Nat := 0
def aWrite : Nat := 1
def aFetch : Nat := 2

/-- Agents of 05 R151. -/
def agTile : Nat := 0
def agDma : Nat := 1
def agCol : Nat := 2
def agRecv : Nat := 3
def agHostcmd : Nat := 4
def agHostmmio : Nat := 5

/-- Byte at a place. -/
def paByte (s : State) : Pa → Byte
  | .hbm a => hbmByte s a
  | .pond t off => pondByte s t off

/-- Writes bytes at places. -/
def paWrite (l : List (Pa × Byte)) : M Unit :=
  l.forM fun p => match p.1 with
    | .hbm a => emit (.hbm a [p.2])
    | .pond t off => emit (.pond t off [p.2])

/-- Bytes of an HBM frame. -/
def frameSize : Nat := 4096

/-- The frame of an index among the frames that exist (05 R135). -/
def frameOfIndex (i : Nat) : Nat := i / stackFrames % 8 * 2 ^ 24 + i % stackFrames

/-- Frame (DPA bits 38:12) of a page of a VI's IPA space, and whether it is under migration (05 R140, R150). -/
def s2Entry (s : State) (v page : Nat) : Nat × Bool :=
  match s.sys.faults.s2.find? fun e => e.vi == v && e.page == page with
  | some e => (e.frame, e.mig)
  | none => (frameOfIndex (Config.stage2Frame v page), false)

/-- DPA of an IPA, whatever MIG holds: the firmware's and the device's own accesses. -/
def ipaDpa (s : State) (v ipa : Nat) : Nat := (s2Entry s v (ipa / 4096)).1 * 4096 + ipa % 4096

/-- `stage2` (05 R144). An access that waits meets MIG; the engines, the host and the device's own accesses use the
frame as it stands, whose contents the copy moves (05 R150, DEDUCED, log entry 32). -/
def stage2 (s : State) (wait : Bool) (v ipa : Nat) : Xl :=
  if allotHbm s v ≤ ipa then .fault fRange 1 1 ipa
  else if wait && (s2Entry s v (ipa / 4096)).2 then .mig
  else .ok (.hbm (ipaDpa s v ipa))

/-- Bytes from an IPA through stage 2. -/
def ipaRead (s : State) (v ipa : Nat) : Nat → List Byte
  | 0 => []
  | n + 1 => hbmByte s (ipaDpa s v ipa) :: ipaRead s v (ipa + 1) n

/-- Writes bytes from an IPA through stage 2. -/
def ipaWrite (v ipa : Nat) (l : List Byte) : M Unit := do
  let s ← cur
  (indexed 0 l).forM fun p => emit (.hbm (ipaDpa s v (ipa + p.1)) [p.2])

/-- Fields of a table entry (05 R142). -/
def teV (e : Nat) : Bool := bit e 0
def teLeaf (e : Nat) : Bool := bit e 1
def teR (e : Nat) : Bool := bit e 2
def teW (e : Nat) : Bool := bit e 3
def teX (e : Nat) : Bool := bit e 4
def teAddr (e : Nat) : Nat := bits e 38 12 * 4096

/-- Bytes that a leaf of a level maps (05 R141). -/
def leafSize (level : Nat) : Nat := 2 ^ (39 - 9 * level)

/-- A malformed stage-1 entry (05 R143). -/
def teMalformed (e level : Nat) : Bool :=
  bits e 55 39 != 0 || bits e 11 6 != 0 || bit e 5 ||
  (teLeaf e && level == 0) || (!teLeaf e && level == 3) ||
  (teLeaf e && ((teW e && !teR e) || !(teR e || teW e || teX e) || teAddr e % leafSize level != 0)) ||
  (!teLeaf e && (teR e || teW e || teX e))

/-- Permission of a leaf (05 R144). -/
def teAllows (e acc : Nat) : Bool := if acc = aFetch then teX e else if acc = aWrite then teW e else teR e

/-- What a stage-1 entry of a level says: the translation ends, or goes on at the next table (05 R144). -/
def s1entry (s : State) (wait : Bool) (v va acc level e : Nat) : Xl ⊕ Nat :=
  if !teV e then .inl (.fault fNotPresent 0 level 0)
  else if teMalformed e level then .inl (.fault fMalformed 0 level 0)
  else if teLeaf e then
    .inl (if teAllows e acc then stage2 s wait v (teAddr e + va % leafSize level) else .fault fPerm 0 level 0)
  else .inr (teAddr e)

/-- IPA of the entry of a level for an address. -/
def s1slot (table va level : Nat) : Nat := table + 8 * bits va (47 - 9 * level) (39 - 9 * level)

/-- The entry at the place that stage 2 gives, if it gives one in HBM. -/
def s1read (x : Xl) (k : Nat → Xl ⊕ Nat) : Xl ⊕ Nat :=
  match x with
  | .ok (.hbm a) => k a
  | x => .inl x

/-- One level of the stage-1 walk: the entry is read through stage 2. -/
def s1level (s : State) (wait : Bool) (v va acc level table : Nat) : Xl ⊕ Nat :=
  s1read (stage2 s wait v (s1slot table va level)) fun a => s1entry s wait v va acc level (ofBytes (hbmRead s a 8))

/-- The walk ends, or goes on at the next table. -/
def s1next (x : Xl ⊕ Nat) (k : Nat → Xl) : Xl :=
  match x with
  | .inl y => y
  | .inr table => k table

/-- The stage-1 walk over the remaining levels (05 R144). -/
def s1walk (s : State) (wait : Bool) (v va acc : Nat) : List Nat → Nat → Xl
  | [], _ => .fault fMalformed 0 3 0
  | level :: rest, table =>
    s1next (s1level s wait v va acc level table) fun next => s1walk s wait v va acc rest next

/-- `pond_or_unbacked` (05 R137-R139); `self` is the tile the own-pond alias refers to. A pond carries no permissions:
every access to a backed address of it is allowed (DEDUCED, log entry 19). -/
def pondXl (s : State) (v : Nat) (self : Option Nat) (va : Nat) : Xl :=
  if 0xFF0000000000 ≤ va ∧ va < 0xFF0000300000 then
    match self with
    | some t => .ok (.pond t (va - 0xFF0000000000))
    | none => .fault fRange 0 0 0
  else if 0xFE0000000000 ≤ va ∧ va < 0xFE0000000000 + 144 * 0x400000 ∧ (va - 0xFE0000000000) % 0x400000 < pondSize then
    match slotTile s v ((va - 0xFE0000000000) / 0x400000) with
    | some t => .ok (.pond t ((va - 0xFE0000000000) % 0x400000))
    | none => .fault fRange 0 0 0
  else .fault fRange 0 0 0

/-- `translate` (05 R144); only a tile's access waits for a migration. -/
def translate (s : State) (v : Nat) (self : Option Nat) (va acc : Nat) : Xl :=
  if 0xFE0000000000 ≤ va then pondXl s v self va
  else if flag s (F.MMU_VI_S1ROOT_EN v) then
    s1walk s self.isSome v va acc [0, 1, 2, 3] (getF s (F.MMU_VI_S1ROOT_ROOT v) * 4096)
  else .fault fNotPresent 0 0 0

/-- The outcome for a run of bytes: the places, or the first byte that does not translate. -/
inductive XlR where
  | ok (l : List Pa)
  | bad (va code stage level ipa : Nat)
  | wait
  deriving DecidableEq, Repr

/-- Translates addresses in order. -/
def translateAll (s : State) (v : Nat) (self : Option Nat) (acc : Nat) : List Nat → XlR
  | [] => .ok []
  | va :: l =>
    match translate s v self va acc with
    | .ok p =>
      match translateAll s v self acc l with
      | .ok ps => .ok (p :: ps)
      | r => r
    | .fault code stage level ipa => .bad va code stage level ipa
    | .mig => .wait

/-- n consecutive addresses. -/
def addrs (va n : Nat) : List Nat := (upto n).map fun k => va + k

/-! Fault records. -/

/-- Bytes of a fault record (05 R151). -/
def recBytes (v : Nat) (r : FaultRec) : List Byte :=
  bytesOf 8 r.va ++ bytesOf 8 r.ipa ++
  bytesOf 8 (r.code + r.agent * 2 ^ 8 + r.stage * 2 ^ 11 + r.access * 2 ^ 12 + r.level * 2 ^ 14 + r.inc * 2 ^ 16 +
    v * 2 ^ 24 + r.id % 2 ^ 32 * 2 ^ 32) ++
  bytesOf 8 (r.source % 2 ^ 16 + min r.merged 0xFFFF * 2 ^ 16 + r.tFirst % 2 ^ 32 * 2 ^ 32)

/-- Size of the fault queue, and whether it is full (05 R163). -/
def fqSize (s : State) (v : Nat) : Nat := 16 * 2 ^ getF s (F.MMU_VI_FQ_BASE_SIZE v)
def fqFull (s : State) (v : Nat) : Bool :=
  (getF s (F.MMU_VI_FQ_HEAD_HEAD v) + 1) % fqSize s v == getF s (F.MMU_VI_FQ_TAIL_TAIL v) % fqSize s v

/-- Records held internally (05 R153). -/
def heldRecs (s : State) (v : Nat) : List FaultRec := (mmuSt s v).recs.filter fun r => !r.inRing

/-- The note of a written record (05 R154). -/
def fqNote (v : Nat) : M Unit := do
  let s ← cur
  whenB (flag s (F.MMU_VI_FQ_NOTE_MSIEN v)) (sendVi v (getF s (F.MMU_VI_FQ_NOTE_VEC v)))
  whenB (flag s (F.MMU_VI_FQ_NOTE_SIGEN v)) (ctrAddLocal v (getF s (F.MMU_VI_FQ_NOTE_SIGCTR v)) 1)

/-- Writes a record at HEAD. -/
def fqWrite (v : Nat) (r : FaultRec) : M Unit := do
  let s ← cur
  ipaWrite v (getF s (F.MMU_VI_FQ_BASE_BASE v) * 4096 + getF s (F.MMU_VI_FQ_HEAD_HEAD v) * 32) (recBytes v r)
  putF (F.MMU_VI_FQ_HEAD_HEAD v) ((getF s (F.MMU_VI_FQ_HEAD_HEAD v) + 1) % fqSize s v)
  fqNote v

/-- Adds a record, written or held. A record that needs no resume and is written leaves nothing behind. -/
def fqAdd (v : Nat) (r : FaultRec) : M Unit := do
  let s ← cur
  countEv 2 2 (v / 8) (some v) 1
  modMmu v fun m => { m with nextId := m.nextId + 1 }
  if !fqFull s v && (heldRecs s v).isEmpty then
    fqWrite v r
    whenB r.live (modMmu v fun m => { m with recs := m.recs ++ [{ r with inRing := true }] })
  else
    modMmu v fun m => { m with recs := m.recs ++ [{ r with inRing := false }] }
    putF (F.MMU_VI_FSTAT_HELD v) 1

/-- The records once record `id` is in the ring: one that needs no resume leaves nothing behind. -/
def recsWritten (id : Nat) (l : List FaultRec) : List FaultRec :=
  (l.map fun x => if x.id = id then { x with inRing := true } else x).filter fun x => x.live || !x.inRing

/-- Writes held records in order while the ring has room (05 R153). -/
def fqDrain (v : Nat) : Nat → M Unit
  | 0 => pure ()
  | n + 1 => do
    let s ← cur
    match heldRecs s v with
    | [] => pure ()
    | r :: _ =>
      if fqFull s v then pure ()
      else
        fqWrite v r
        modMmu v fun m => { m with recs := recsWritten r.id m.recs }
        fqDrain v n

/-- Whether a record takes a later fault (05 R152). -/
def recJoins (r : FaultRec) (va acc : Nat) : Bool := r.live && r.va / 4096 == va / 4096 && r.access == acc

/-- The MMU's action on a fault that is resumable, or of code RANGE (05 R149, R151-R153). The agent parks on a
resumable one; `since` is the time of its first fault. A held RANGE record gives way to a resumable one. -/
def mmuFault (v va code stage level ipa agent acc source : Nat) (who : Agent) (since : Nat) : M Unit := do
  let s ← cur
  let r : FaultRec :=
    { id := (mmuSt s v).nextId, va, ipa, code, agent, stage, access := acc, level, inc := viInc s v, source,
      merged := 0, tFirst := since, inRing := false, live := code != fRange, parked := [⟨who, since, va⟩] }
  if code = fRange then
    if fqFull s v ∧ 256 ≤ (heldRecs s v).length then putF (F.MMU_VI_FSTAT_RLOST v) 1
    else fqAdd v { r with parked := [] }
  else if (mmuSt s v).recs.any fun x => recJoins x va acc then
    countEv 2 3 (v / 8) (some v) 1
    modMmu v fun m =>
      { m with recs := m.recs.map fun x =>
          if recJoins x va acc then
            { x with parked := x.parked ++ [⟨who, since, va⟩], merged := if x.inRing then x.merged else x.merged + 1 }
          else x }
  else if fqFull s v ∧ 256 ≤ (heldRecs s v).length then
    match (heldRecs s v).reverse.find? fun x => x.code == fRange with
    | some x => do
      modMmu v fun m => { m with recs := m.recs.filter fun y => y.id != x.id }
      putF (F.MMU_VI_FSTAT_RLOST v) 1
      fqAdd v r
    | none => modMmu v fun m => { m with waiting := m.waiting ++ [⟨who, since, va⟩] }
  else fqAdd v r

/-- Unresumed records (05 R163). -/
def fstatPend (s : State) (v : Nat) : Nat := min 0xFFFF (cnt (fun r => r.live) (mmuSt s v).recs)

/-- The agent no longer waits at the MMU. -/
def unpark (v : Nat) (who : Agent) : M Unit :=
  modMmu v fun m =>
    { m with
      recs := m.recs.map fun r => { r with parked := r.parked.filter fun p => p.who != who }
      waiting := m.waiting.filter fun p => p.who != who }

end Sys2Proof.Machine
end

