-- ==== Sys2Proof/Machine/Reset.lean ====
section
/-! DEFINITION. VI reset and VI faults (13 R389-R393): one operation that every family calls. -/
namespace Sys2Proof.Machine

/-- Causes of 13 R392. -/
def causeRequest : Nat := 1
def causeSvcLimit : Nat := 2
def causeSpillFull : Nat := 3
def causeHandler : Nat := 4
def causeMem : Nat := 5
def causeTiles : Nat := 6
def causeReplayLimit : Nat := 7
def causeContain : Nat := 8

/-- The VI of a Mere owner (09 R286). -/
def mereOwnerVi (o : Nat) : Option Nat := if o < 128 then some (o / 8) else none

/-- Entries, cells, windows, buffers and parked accesses of an incarnation that is not the current one (13 R391). -/
def quiesce (s : State) (v : Nat) : Nat :=
  let i := viInc s v
  cnt (fun d => d.vi == v && d.inc != i) s.sys.dma.descs +
  cnt (fun x => x.vi == v && x.inc != i) s.sys.dma.rxs +
  cnt (fun h => h.vi == v && h.inc != i) s.sys.dma.heldSigs +
  sumOf (fun p => cnt (fun b => b.vi == v && b.inc != i) p.2.blocks) s.sys.tarn.units +
  sumOf (fun d => if d.f.owner = v ∧ d.f.inc.toNat ≠ i then d.f.cells else 0) s.sys.div.frames +
  sumOf (fun d => if d.f.owner = v ∧ d.f.inc.toNat ≠ i then d.f.cells else 0) s.sys.div.held +
  cnt (fun b => mereOwnerVi b.owner == some v && b.inc != i) s.sys.mere +
  sumOf (fun r => if r.inc = i then 0 else r.parked.length) (mmuSt s v).recs

/-- Registers of a stretch of an array set to their reset values. -/
def resetRegs (base stride n : Nat) : M Unit := do
  let s ← cur
  s.regs.forM fun p => whenB (decide (base ≤ p.1 ∧ p.1 < base + stride * n)) (emit (.reg p.1 0))

/-- Tiles at a VI reset (13 R389 step 1, 04 R123, DEDUCED, log entry 20): discard work, pond zero, IDLE. -/
def resetTile (t inc : Nat) : M Unit := do
  let s ← cur
  let c := (tileOf s t).core
  emit (.pondZero t)
  emit (.tileClear t)
  emit (.core t { state := .idle, vi := c.vi, inc := BitVec.ofNat 8 inc, phase := c.phase, phaseStart := c.phaseStart })
  putF (F.TILE_SAVE_BUSY t) 0

/-- Tiles of the VI by what they hold: every tile allotted to it that is not fenced. -/
def tilesHeld (s : State) (v : Nat) : List Nat :=
  s.tiles.filterMap fun p =>
    if p.2.core.vi = v ∧ p.2.core.state ≠ .off ∧ p.2.core.state ≠ .fenced then some p.1 else none

/-- The context is freed, the other members are told to exclude its rank, and its live generations end with CLOSED
(07 R217, R228). -/
def freeContext (g : Nat) : M Unit := do
  let s ← cur
  if getF s (F.COL_GRP_CTL_STATE g) = 0 then pure ()
  else
    colMsgAll g (getF s (F.COL_GRP_GEN_NEXT g)) msgExclude (grpRank s g) 0 []
    let n := cnt (fun x => !x.barrier && x.state != .done && x.state != .ended) (grpSt s g).gens
    countEv 4 2 (dieOfGrp g) (grpOwner s g) n
    addSat (F.COL_GRP_STAT_ABORTS g) n
    putF (F.COL_GRP_CTL_STATE g) 0
    setGrp g {}

/-- Physical contexts of a VI. -/
def viGrps (s : State) (v : Nat) : List Nat :=
  (upto (getF s (F.COL_VI_CFG_COUNT v))).map fun k => getF s (F.COL_VI_CFG_BASE v) + k

/-- Frames of the VI in Divide retire (09 R268, R273). -/
def retireFrames (v : Nat) : M Unit := do
  let s ← cur
  let mine := s.sys.div.frames.filter fun d => d.f.owner == v
  addSat (F.DIVIDE_DROP_STALE 0) (sumOf (fun d => if d.die = 0 then d.f.cells else 0) mine)
  addSat (F.DIVIDE_DROP_STALE 1) (sumOf (fun d => if d.die = 1 then d.f.cells else 0) mine)
  modDiv fun y =>
    { y with frames := y.frames.filter fun d => d.f.owner != v, held := y.held.filter fun d => d.f.owner != v }

/-- Entries of the VI in DMA, Tarn, Mere and the MMU retire (13 R389 step 2). -/
def retireEngines (v : Nat) (tiles : List Nat) : M Unit := do
  modDma fun y =>
    { y with
      descs := y.descs.filter fun d => d.vi != v
      rxs := y.rxs.filter fun x => x.vi != v
      heldSigs := y.heldSigs.filter fun h => h.vi != v
      waiters := y.waiters.filter fun w => !tiles.contains w.2 }
  modSys fun y =>
    { y with
      tarn := { y.tarn with units := y.tarn.units.filterMap fun p =>
        let u : TUnit := { p.2 with blocks := p.2.blocks.filter fun b => b.vi != v }
        if u = {} then none else some (p.1, u) }
      mere := y.mere.filter fun b => mereOwnerVi b.owner != some v }
  modMmu v fun m => { m with nextId := 0, recs := [], waiting := [] }
  putF (F.MMU_VI_FQ_HEAD_HEAD v) 0
  putF (F.MMU_VI_FQ_TAIL_TAIL v) 0

/-- Deep slots of the VI's contexts are freed (08 R245). -/
def retireDeep (gs : List Nat) : M Unit :=
  modSys fun y =>
    { y with tarn := { y.tarn with units := y.tarn.units.filterMap fun p =>
        let u : TUnit := { p.2 with deepSlots := p.2.deepSlots.filter fun d => !gs.contains d.1 }
        if u = {} then none else some (p.1, u) } }

/-- Host queues of the VI (12 R364). -/
def resetHostQueue (q : Nat) : M Unit := do
  putF (F.HOST_Q_CFG_EN q) 0
  putF (F.HOST_Q_STAT_SQHEAD q) 0
  putF (F.HOST_Q_STAT_CQTAIL q) 0
  putF (F.HOST_Q_STAT_ERR q) 0
  putF (F.HOST_Q_STAT_STOP q) 0
  modHq q fun h => { sqtail := h.sqtail, cqhead := h.cqhead }

/-- Host queues of a VI. -/
def viHqs (s : State) (v : Nat) : List Nat :=
  (upto (getF s (F.HOST_VI_CFG_QCOUNT v))).map fun k => getF s (F.HOST_VI_CFG_QBASE v) + k

/-- Counters, watch and comparators of the VI (06 R191, R195, 08 R261). -/
def clearCounters (v : Nat) : M Unit := do
  let s ← cur
  let b := getF s (F.SIG_VI_CFG_BASE v)
  let n := getF s (F.SIG_VI_CFG_COUNT v)
  resetRegs (0x1C00000 + 8 * b) 8 n
  resetRegs (0x1C40000 + 4 * b) 4 n
  ((touched s 0x1020008 16 256).filter fun l => flag s (F.HOST_SL_BIND_EN l) && getF s (F.HOST_SL_BIND_VI l) == v).forM
    slTouch
  modDma fun y => { y with expected := smDrop b (b + n) y.expected }
  putR (R.SIG_VI_STAT v) 0
  putR (R.SIG_VI_DROP v) 0
  (upto 9).forM fun k => putF (F.TARN_VI_WATCH_COUNT v k) 0
  putF (F.TARN_VI_WATCH_SUM_SUM v) 0
  putR (R.TARN_VI_WATCH_NOTE v) 0
  (upto 4).forM fun k => putF (F.TARN_VI_CMP_CFG_EN v k) 0

/-- Enabled descriptor queues of the VI. -/
def viQs (s : State) (v : Nat) : List Nat :=
  (touched s 0x1800000 64 1024).filter fun q => flag s (F.DMA_Q_CFG_EN q) && getF s (F.DMA_Q_CFG_VI q) == v

/-- Counts of the descriptor queues start again (06 R194). -/
def resetQueue (q : Nat) : M Unit := do
  putF (F.DMA_Q_STAT_DONE q) 0
  modDma fun y => { y with seqs := smSet 0 y.seqs q 0 }

/-- A VI reset starts (13 R389). -/
def resetStart (v cause : Nat) : M Unit := do
  let s ← cur
  let inc := (viInc s v + 1) % 256
  let tiles := tilesHeld s v
  let gs := viGrps s v
  gs.forM freeContext
  putF (F.FAULT_VI_CTL_INC v) inc
  putF (F.FAULT_VI_CTL_STATE v) 2
  modViFault v fun x => { x with cause, start := nowNs s, deferred := none }
  tiles.forM fun t => resetTile t inc
  retireEngines v tiles
  retireDeep gs
  retireFrames v
  (viHqs s v).forM resetHostQueue
  (viQs s v).forM resetQueue
  clearCounters v

/-- Time that a VI rests between two resets (13 R391). -/
def resetGap : Nat := 10 * msNs

/-- A reset is requested with a cause: it merges with a running one, or waits until 10 ms after the previous one
(13 R391). Containment does not end with it (13 R377). -/
def viReset (v cause : Nat) (unload : Bool) : M Unit := do
  let s ← cur
  if !viPresent s v then pure ()
  else
    whenB unload (modViFault v fun x => { x with unload := true })
    if viState s v = 2 ∨ viState s v = 3 then pure ()
    else
      match (viFaultSt s v).lastDone with
      | some t =>
        if nowNs s < t + resetGap then
          modViFault v fun x => { x with deferred := some (x.deferred.getD cause) }
        else resetStart v cause
      | none => resetStart v cause

/-- A VI is faulted: a reset that the device starts itself (13 R392), posted with class VI. -/
def viFault (v cause unit index : Nat) (info : W64) : M Unit := do
  let s ← cur
  if !viPresent s v then pure ()
  else
    postErr { cls := 4, unit, index, code := cause, vi := some v, inc := viInc s v, overlap := false, info }
    viReset v cause false

end Sys2Proof.Machine
end

