-- ==== Sys2Proof/Machine/Mere.lean ====
section
/-! DEFINITION. Mere buffer pools (09 R283-R288): allocation, freeing, and spill on behalf of a VI (05 R159). -/
namespace Sys2Proof.Machine

/-- Size of the buffers of a pool (09 R283). -/
def poolSize (p : Nat) : Nat := 256 * 4 ^ p

/-- Codes of 09 R284. -/
def mOk : Nat := 0
def mSizeZero : Nat := 1
def mSizeBig : Nat := 2
def mNoSpace : Nat := 3
def mOwner : Nat := 4
def mDoubleFree : Nat := 5
def mNotOwner : Nat := 6
def mStale : Nat := 7

/-- Pool of a request: the smallest whose size is enough. -/
def poolOf (size : Nat) : Nat := ((upto 5).find? fun p => decide (size ≤ poolSize p)).getD 4

/-- Buffers of a pool. -/
def poolCount (s : State) (p : Nat) : Nat := getF s (F.MERE_POOL_CFG_COUNT p 0) + getF s (F.MERE_POOL_CFG_COUNT p 1)

/-- HELD[o][p] and the bytes an owner holds. -/
def held (s : State) (o p : Nat) : Nat := cnt (fun b => b.owner == o && b.pool == p) s.sys.mere
def heldBytes (s : State) (o : Nat) : Nat := sumOf (fun b => if b.owner = o then poolSize b.pool else 0) s.sys.mere

/-- FREE[p] and SHARED[p] (09 R286). -/
def poolFree (s : State) (p : Nat) : Nat := poolCount s p - cnt (fun b => b.pool == p) s.sys.mere
def poolShared (s : State) (p : Nat) : Nat :=
  poolFree s p - sumOf (fun o => getF s (F.MERE_OWN_MIN_MIN o p) - held s o p) (upto 137)

/-- Whether R286 grants a buffer of pool p to owner o. -/
def mereGrants (s : State) (o p : Nat) : Bool :=
  0 < poolFree s p &&
  (held s o p < getF s (F.MERE_OWN_MIN_MIN o p) ||
   (0 < poolShared s p && heldBytes s o + poolSize p ≤ getF s (F.MERE_OWN_MAX_MAX o) * 65536))

/-- The free buffer of lowest index (09 R285). -/
def lowestFree (s : State) (p : Nat) : Nat :=
  ((upto (s.sys.mere.length + 1)).find? fun i => !s.sys.mere.any fun b => b.pool == p && b.index == i).getD 0

/-- Whether the incarnation of a request or free is an old one (09 R288). -/
def mereStale (s : State) (o inc : Nat) : Bool :=
  match mereOwnerVi o with
  | some v => viInc s v != inc
  | none => false

/-- An allocation (09 R283-R286): its code, and the pool and index granted. -/
def mereTake (size o inc : Nat) : M (Nat × Option (Nat × Nat)) := do
  let s ← cur
  let p := poolOf size
  if size = 0 then return (mSizeZero, none)
  else if 65536 < size then return (mSizeBig, none)
  else if 137 ≤ o then return (mOwner, none)
  else if mereStale s o inc then do
    addSat F.MERE_REFUSE_STALE 1
    return (mStale, none)
  else if mereGrants s o p then do
    let i := lowestFree s p
    modSys fun y => { y with mere := y.mere ++ [{ pool := p, index := i, owner := o, inc }] }
    countEv 7 1 p (mereOwnerVi o) 1
    return (mOk, some (p, i))
  else do
    addSat F.MERE_REFUSE_NOSPACE 1
    countEv 7 2 p (mereOwnerVi o) 1
    return (mNoSpace, none)

/-- A rejected free (09 R287): the record slot, and an error of class RECOVERED (DESIGN CHOICE, log entry 23). -/
def mereErr (code p i o : Nat) : M Unit := do
  let s ← cur
  let v := flag s F.MERE_ERR_VALID
  (if v then do
    putF F.MERE_ERR_OVERLAP 1
    addSat F.MERE_ERR_OVFCNT 1
   else do
    putF F.MERE_ERR_VALID 1
    putF F.MERE_ERR_CODE code
    putF F.MERE_ERR_POOL p
    putF F.MERE_ERR_INDEX i
    putF F.MERE_ERR_OWNER o)
  postErr { cls := 2, unit := 7, index := p, code, vi := mereOwnerVi o, inc := (mereOwnerVi o).elim 0 (viInc s),
            overlap := v, info := 0 }

/-- A free (09 R287, R288): its code. -/
def mereGive (p i o inc : Nat) : M Nat := do
  let s ← cur
  if mereStale s o inc then do
    addSat F.MERE_REFUSE_STALE 1
    return mStale
  else
    match s.sys.mere.find? fun b => b.pool == p && b.index == i with
    | none => do
      mereErr mDoubleFree p i o
      return mDoubleFree
    | some b =>
      if b.owner ≠ o then do
        mereErr mNotOwner p i o
        return mNotOwner
      else do
        modSys fun y => { y with mere := y.mere.filter fun b => !(b.pool == p && b.index == i) }
        return mOk

/-- Frees buffers without further ado. -/
def mereDrop (l : List (Nat × Nat)) : M Unit :=
  modSys fun y => { y with mere := y.mere.filter fun b => !l.contains (b.pool, b.index) }

/-- n buffers of 64 KiB for an owner (05 R159, DEDUCED, log entry 24), or none of them. -/
def mereTakeN (o inc : Nat) : Nat → M (Option (List (Nat × Nat)))
  | 0 => return some []
  | n + 1 => do
    let r ← mereTake 65536 o inc
    match r.2 with
    | none => return none
    | some b =>
      let rest ← mereTakeN o inc n
      match rest with
      | none => do
        mereDrop [b]
        return none
      | some l => return some (b :: l)

/-- What a request answers (09 R284). -/
def mereAnswer (code : Nat) (b : Option (Nat × Nat)) : M Unit :=
  send (.report 7 (bytesOf 1 code ++ (match b with
    | some (p, i) => bytesOf 1 p ++ bytesOf 3 i
    | none => [])))

/-- MERE_ALLOC (09 R283-R286). -/
def execMereAlloc (size owner : Nat) (inc : Byte) (s : State) : Host.Outcome State Fault Refusal :=
  act (do
    let s ← cur
    if enginesRun s then do
      let r ← mereTake size owner inc.toNat
      mereAnswer r.1 r.2
    else pure ()) s

/-- MERE_FREE (09 R287, R288). -/
def execMereFree (pool : Fin 5) (index owner : Nat) (inc : Byte) (s : State) : Host.Outcome State Fault Refusal :=
  act (do
    let s ← cur
    if enginesRun s then do
      let c ← mereGive pool index owner inc.toNat
      mereAnswer c none
    else pure ()) s

end Sys2Proof.Machine
end

