-- ==== Sys2Proof/Machine/Records.lean ====
section
/-! DEFINITION. Record streams of the VIs (14 R421-R425). -/
namespace Sys2Proof.Machine

def recTime : Nat := 1
def recInput : Nat := 2
def recPhase : Nat := 3
def recSnap : Nat := 4
def recGap : Nat := 15

/-- MODE: 0 OFF, 1 RECORD, 2 REPLAY; 0b11 acts as OFF (14 R428). -/
def recMode (s : State) (v : Nat) : Nat :=
  let m := getF s (F.TELEM_VI_REC_CTL_MODE v)
  if m = 3 then 0 else m

def recSize (s : State) (v : Nat) : Nat := 128 * 2 ^ getF s (F.TELEM_VI_REC_BASE_SIZE v)
def recHead (s : State) (v : Nat) : Nat := getF s (F.TELEM_VI_REC_HEAD_HEAD v) % recSize s v
def recTail (s : State) (v : Nat) : Nat := getF s (F.TELEM_VI_REC_TAIL_TAIL v) % recSize s v

/-- IPA of record i of the ring. -/
def recIpa (s : State) (v i : Nat) : Nat := getF s (F.TELEM_VI_REC_BASE_BASE v) * 4096 + i * 32

/-- Room for a record: the ring is not full and Mere can stage it (14 R421, R423). -/
def recRoom (s : State) (v : Nat) : Bool :=
  (recHead s v + 1) % recSize s v != recTail s v && mereGrants s 136 2

/-- Key of a sequence count. -/
def seqKey (type src : Nat) : Nat := 65536 * type + src

/-- SEQ of the next record of a type and source. -/
def nextSeq (s : State) (v type src : Nat) : Nat := smGet 0 (recSt s v).seqs (seqKey type src)

/-- Bytes of a record (14 R422). -/
def recordBytes (v inc type seq src time : Nat) (body : List Byte) : List Byte :=
  bytesOf 1 type ++ bytesOf 1 v ++ bytesOf 1 inc ++ [0] ++ bytesOf 4 seq ++ bytesOf 2 src ++ bytesOf 6 0 ++
  bytesOf 8 time ++ body

/-- Counts a record of a type and source. -/
def countSeq (v type src : Nat) : M Unit :=
  modRec v fun r => { r with seqs := smSet 0 r.seqs (seqKey type src) (smGet 0 r.seqs (seqKey type src) + 1) }

/-- Writes a record at HEAD. -/
def recPut (v type src time : Nat) (body : List Byte) : M Unit := do
  let s ← cur
  ipaWrite v (recIpa s v (recHead s v)) (recordBytes v (viInc s v) type (nextSeq s v type src) src time body)
  putF (F.TELEM_VI_REC_HEAD_HEAD v) ((recHead s v + 1) % recSize s v)
  countSeq v type src

/-- The GAP record, once room has returned (14 R423). -/
def recFlushGap (v : Nat) : M Unit := do
  let s ← cur
  let r := recSt s v
  whenB (decide (0 < r.gaps) && recRoom s v && recMode s v != 2) do
    recPut v recGap 0 r.gapAt (bytesOf 4 r.gaps ++ bytesOf 4 0)
    modRec v fun r => { r with gaps := 0, gapAt := 0 }

/-- A record is written if there is room; the answer says whether it was. -/
def recTry (v type src time : Nat) (body : List Byte) : M Bool := do
  recFlushGap v
  let s ← cur
  if recRoom s v then do
    recPut v type src time body
    return true
  else return false

/-- A PHASE or SNAP record: dropped and counted when there is no room (14 R423). -/
def recOrGap (v type src time : Nat) (body : List Byte) : M Unit := do
  let s ← cur
  let ok ← recTry v type src time body
  whenB (!ok) do
    putF (F.TELEM_VI_REC_CTL_GAPS v) 1
    modRec v fun r => { r with gaps := r.gaps + 1, gapAt := if r.gaps = 0 then nowNs s else r.gapAt }

/-- Record i of the ring: TYPE, SEQ, SOURCE, TIME and bytes 24-31. -/
def recAt (s : State) (v i : Nat) : Nat × Nat × Nat × Nat × Nat :=
  let l := ipaRead s v (recIpa s v i) 32
  (ofBytes (l.take 1), ofBytes ((l.drop 4).take 4), ofBytes ((l.drop 8).take 2), ofBytes ((l.drop 16).take 8),
   ofBytes (l.drop 24))

/-- Positions from HEAD up to TAIL. -/
def recSpan (s : State) (v : Nat) : List Nat :=
  (upto ((recTail s v + recSize s v - recHead s v) % recSize s v)).map fun k => (recHead s v + k) % recSize s v

/-- The record of a type, source and its next SEQ in the stream (14 R424). -/
def recFind (s : State) (v type src : Nat) : Option (Nat × Nat × Nat × Nat × Nat) :=
  ((recSpan s v).map (recAt s v)).find? fun r => r.1 == type && r.2.2.1 == src && r.2.1 == nextSeq s v type src

/-- Whether REPLAY has read past a record: taken, or of a type that it skips. -/
def recPassed (s : State) (v : Nat) (r : Nat × Nat × Nat × Nat × Nat) : Bool :=
  if r.1 = recTime ∨ r.1 = recInput then decide (r.2.1 < nextSeq s v r.1 r.2.2.1) else true

/-- HEAD moves past the records that have been read. -/
def recAdvance (v : Nat) : M Unit := do
  let s ← cur
  let k := ((recSpan s v).takeWhile fun i => recPassed s v (recAt s v i)).length
  putF (F.TELEM_VI_REC_HEAD_HEAD v) ((recHead s v + k) % recSize s v)

/-- DIVERGE with its event (14 R424). -/
def diverge (v : Nat) : M Unit := do
  putF (F.TELEM_VI_REC_CTL_DIVERGE v) 1
  event 0x10 1 v

/-- An INPUT descriptor completes OK: its record in RECORD, its check in REPLAY (14 R422, R424). The answer is false
where the completion waits for room. -/
def recordInput (v src crc len : Nat) : M Bool := do
  let s ← cur
  if !flag s (F.TELEM_VI_REC_CTL_INPUTEN v) then return true
  else if recMode s v = 1 then
    recTry v recInput src (nowNs s) (bytesOf 4 crc ++ bytesOf 4 len)
  else if recMode s v = 2 then do
    let ok := match recFind s v recInput src with
      | some r => r.2.2.2.2 == crc % 2 ^ 32 + len % 2 ^ 32 * 2 ^ 32
      | none => false
    whenB (!ok) (diverge v)
    countSeq v recInput src
    recAdvance v
    return true
  else return true

/-- The value of a TIME in REPLAY: the recorded one, or none where live time is returned (14 R424). -/
def replayTime (v src : Nat) : M (Option Nat) := do
  let s ← cur
  match recFind s v recTime src with
  | some r => do
    countSeq v recTime src
    recAdvance v
    return some r.2.2.2.1
  | none => do
    putF (F.TELEM_VI_REC_CTL_END v) 1
    diverge v
    putF (F.TELEM_VI_REC_CTL_MODE v) 0
    return none

end Sys2Proof.Machine
end

