-- ==== Sys2Proof/Machine/Route.lean ====
section
/-! DEFINITION. The topology map and routing (11 R334-R336), the Divide packet buffer's accounts (09 R263, R268-R269),
and the checks that every inbound frame passes. -/
namespace Sys2Proof.Machine

/-! The map image (11 R334). -/

/-- A number of n bytes of an image. -/
def imgNum (img : List Byte) (off n : Nat) : Nat := ofBytes ((img.drop off).take n)

def imgEpoch (img : List Byte) : Nat := imgNum img 4 2
def imgSelf (img : List Byte) : Nat := imgNum img 6 2
def imgShape (img : List Byte) : Nat := imgNum img 8 1
/-- Port entry p: KIND 2:0, ADOPT 3, DEV 18:4, PORT 24:19. -/
def imgPort (img : List Byte) (p : Nat) : Nat := imgNum img (0x40 + 8 * p) 8
def pkKind (e : Nat) : Nat := bits e 2 0
def pkAdopt (e : Nat) : Bool := bit e 3
def pkDev (e : Nat) : Nat := bits e 18 4
def pkPort (e : Nat) : Nat := bits e 24 19
/-- Pod entry b. -/
def imgPod (img : List Byte) (b : Nat) : Nat := imgNum img (0x240 + 4 * b) 4
def pdSite (e : Nat) : Nat := bits e 1 0
def pdSlot (e : Nat) : Nat := bits e 7 3
def pdPort (e : Nat) : Nat := bits e 13 8
def pdDirect (e : Nat) : Bool := bit e 14
def pdRelay (e : Nat) : Bool := bit e 15
def pdRpod (e : Nat) : Nat := bits e 25 16
/-- Whether device d is in service. -/
def imgPresent (img : List Byte) (d : Nat) : Bool := bit (imgNum img (0x1240 + d / 8) 1) (d % 8)
/-- Metro entry i of site s. -/
def imgMetro (img : List Byte) (site i : Nat) : Nat := imgNum img (0x2240 + 32 * site + 4 * i) 4
def mtDev (e : Nat) : Nat := bits e 14 0
def mtPort (e : Nat) : Nat := bits e 17 15
def mtValid (e : Nat) : Bool := bit e 18

/-- Pod and site of a device. -/
def podOf (d : Nat) : Nat := d / 32
def siteOf (img : List Byte) (d : Nat) : Nat := pdSite (imgPod img (podOf d))

/-- Where a route leads from this device. -/
inductive Hop where
  | home
  | unreachable
  | port (p : Nat)
  | edge (e : Nat)
  deriving DecidableEq, Repr

/-- The MESH port whose neighbour is a device. -/
def meshPort (img : List Byte) (d : Nat) : Hop :=
  match (upto 64).find? fun p => pkKind (imgPort img p) == 1 && pkDev (imgPort img p) == d with
  | some p => .port p
  | none => .unreachable

/-- Control classes, which may take a relay. -/
def tcControl (tc : Nat) : Bool := tc == 0 || tc == 1 || tc == 7

/-- `route_pod` (11 R335), over at most n relays. -/
def routePod (img : List Byte) (tc : Nat) : Nat → Nat → Hop
  | 0, _ => .unreachable
  | n + 1, b =>
    let e := imgPod img b
    if !pdDirect e then (if pdRelay e && tcControl tc then routePod img tc n (pdRpod e) else .unreachable)
    else if pdSlot e = imgSelf img % 32 then .port (pdPort e)
    else meshPort img (podOf (imgSelf img) * 32 + pdSlot e)

/-- `route` inside the site. -/
def routeSite (img : List Byte) (ddev tc : Nat) : Hop :=
  if ddev = imgSelf img then .home
  else if !imgPresent img ddev then .unreachable
  else if podOf ddev = podOf (imgSelf img) then meshPort img ddev
  else routePod img tc 1024 (podOf ddev)

/-- The metro entries of a site whose path is UP, or of any state with `any`. -/
def metroPaths (s : State) (img : List Byte) (site : Nat) : List Nat :=
  ((upto 8).map fun i => imgMetro img site i).filter fun e =>
    mtValid e && (mtDev e != imgSelf img || getF s (F.EDGE_METRO_STAT_PATHST (mtPort e)) == 2)

/-- `route` (11 R335): the state of a path of another device is not known here and counts as UP (DESIGN CHOICE, log entry 33). -/
def routeOn (s : State) (img : List Byte) (sdev ddev tc : Nat) : Hop :=
  if ddev = imgSelf img then .home
  else if !imgPresent img ddev then .unreachable
  else if siteOf img ddev ≠ siteOf img (imgSelf img) then
    if tc = 6 then .unreachable
    else
      let l := metroPaths s img (siteOf img ddev)
      match l[(sdev + ddev) % (max 1 l.length)]? with
      | none => .unreachable
      | some m => if mtDev m = imgSelf img then .edge (mtPort m) else routeSite img (mtDev m) tc
  else routeSite img ddev tc

/-- `route` under the active map; with none, only this device itself is reached. -/
def route (s : State) (sdev ddev tc : Nat) : Hop :=
  match s.sys.topo.active with
  | some img => routeOn s img sdev ddev tc
  | none => if ddev = selfDev s then .home else .unreachable

/-- Whether this device reaches another in a class. -/
def reachable (s : State) (ddev tc : Nat) : Bool := route s (selfDev s) ddev tc != .unreachable

/-! Outputs of Divide. -/

/-- PSTATE codes (10 R301). -/
def psOff : Nat := 0
def psPendingCal : Nat := 1
def psTraining : Nat := 2
def psUp : Nat := 3
def psTest : Nat := 4
def psDown : Nat := 5
def psFailedLock : Nat := 6

/-- Die of an output or input (09 R263). -/
def dieOfOut (o : Nat) : Nat :=
  let slice := if o < 64 then o / 8 else if o < 72 then o - 64 else if o < 74 then 4 * (o - 72)
    else if o < 76 then 4 * (o - 74) + 1 else (o - 76) / 12
  slice / 4

/-- The output of a hop. -/
def hopOut : Hop → Option Nat
  | .port p => some p
  | .edge e => some (64 + e)
  | _ => none

/-- Whether a route starts on a port that drains (11 R340). -/
def draining (s : State) (ddev tc : Nat) : Bool :=
  match route s (selfDev s) ddev tc with
  | .port p => flag s (F.PORT_LINK_CFG_DRAIN p)
  | _ => false

/-! Buffer accounts (09 R269). -/

/-- USE[d][o][c]. -/
def divUse (s : State) (d o c : Nat) : Nat :=
  sumOf (fun x => if x.die = d ∧ x.f.owner = o ∧ x.f.tc.val = c then x.f.cells else 0) s.sys.div.frames

def divMin (s : State) (o c : Nat) : Nat := getF s (F.DIVIDE_OWN_CFG_MIN o c)
def divMax (s : State) (o c : Nat) : Nat := getF s (F.DIVIDE_OWN_CFG_MAX o c)

/-- SHFREE[d]. -/
def shFree (s : State) (d : Nat) : Nat :=
  393216 - sumOf (fun o => sumOf (fun c => max (divMin s o c) (divUse s d o c)) (upto 8)) (upto 19)

/-- Whether k cells are admitted. -/
def admits (s : State) (d o c k : Nat) : Bool :=
  decide (divUse s d o c + k ≤ divMin s o c) ||
  (decide (divUse s d o c + k ≤ divMax s o c) && decide (k ≤ shFree s d))

/-- Cells of a payload behind a header (11 R319). -/
def cellsOf (len : Nat) : Nat := max 1 (cdiv len 256)

/-! Inbound frames. -/

/-- Whether a frame's epoch is accepted (11 R336). -/
def epochOk (s : State) (e : Nat) : Bool :=
  e == selfEpoch s || s.sys.topo.prevEpoch == some e

/-- A frame that reaches an engine of this device: dropped under containment (13 R377), by its epoch with a STALE
count (11 R336), or by its class; else it is taken. -/
def inbound (a : Addr) (classes : List Nat) (m : M Unit) : M Unit := do
  let s ← cur
  if !enginesRun s || !classes.contains a.tc.val then pure ()
  else if !epochOk s a.epoch.toNat then watch (a.dvi % 16) wStale 1
  else m

/-- Whether the destination VI of a frame exists in the incarnation it names (06 R179). -/
def destOk (s : State) (a : Addr) : Bool := decide (a.dvi < 16) && viPresent s a.dvi && viInc s a.dvi == a.dinc

/-- SIG_VI_DROP of a VI (06 R179). -/
def dropFor (v : Nat) : M Unit := addSat (F.SIG_VI_DROP_DROP (v % 16)) 1

end Sys2Proof.Machine
end

