-- ==== Sys2Proof/Machine/Scaled.lean ====
section
/-! DEFINITION. Two-level scaling (02 R38-R43): block codes, escapes, encoding and decoding of blocks of 32. -/
namespace Sys2Proof.Machine

/-- The largest of |y[k]|, NaN left out (R39). -/
def absMax : List Ex → Ex
  | [] => .fin false 0 1 0
  | y :: l =>
    match exCmp (exAbs y) (absMax l) with
    | some .gt => exAbs y
    | _ => absMax l

/-- `block_code` of R39 over the values after division by s. -/
def blockCode (f : Fmt) (ys : List Ex) : Nat :=
  match absMax ys with
  | .inf _ => 254
  | .fin _ n d e =>
    if n = 0 then (if ys.contains .nan then 127 else 255)
    else (min (max (ilog2 n d e - f.maxExp) (-127)) 127 + 127).toNat
  | .nan => 127

/-- An encoded block: code, elements, escape word of 24 bits, crushed elements (R40), flags and watch counts. -/
structure Block where
  code : Nat
  elems : List Nat
  esc : Nat
  crush : Nat
  flags : Nat
  sat : Nat
  nonfin : Nat
  flush : Nat
  deriving DecidableEq, Repr

/-- The narrowed elements of a block under code c, indexed from k0; `g k` is the Spring output for element k. -/
def blockElems (f : Fmt) (rnd ovf : Nat) (g : Nat → Nat) (c : Nat) (k : Nat) : List Ex → List Nres
  | [] => []
  | y :: l => narrow f rnd ovf (g k) (exScale (127 - (c : Int)) y) :: blockElems f rnd ovf g c (k + 1) l

/-- A nonzero finite element that narrows to zero (R40). -/
def crushed (f : Fmt) (y : Ex) (r : Nres) : Bool :=
  match y with
  | .fin _ n _ _ => n != 0 && exIsZero (decodeF f r.code)
  | _ => false

/-- Number of crushed elements. -/
def crushCount (f : Fmt) (ys : List Ex) (rs : List Nres) : Nat := cnt (fun p => crushed f p.1 p.2) (ys.zip rs)

/-- The lowest index of the largest |y[k]| (R41). -/
def argMax (ys : List Ex) : Nat :=
  (ys.findIdx? (fun y => exCmp (exAbs y) (absMax ys) == some .eq)).getD 0

/-- The encoding of a block after division by s (R39-R41). A zero block holds zero elements (R42). -/
def encodeBlock (f : Fmt) (rnd ovf : Nat) (esc : Bool) (g : Nat → Nat) (ys : List Ex) : Block :=
  let c := blockCode f ys
  let pack := fun (c : Nat) (ys : List Ex) (ew fl0 sat0 nf0 : Nat) =>
    let rs := if c = 255 then ys.map (fun _ => (⟨0, 0, 0, 0, 0⟩ : Nres)) else blockElems f rnd ovf g c 0 ys
    ({ code := c, elems := rs.map Nres.code, esc := ew, crush := crushCount f ys rs
       flags := (rs.map Nres.flags).foldl Nat.lor fl0, sat := sumOf Nres.sat rs + sat0
       nonfin := sumOf Nres.nonfin rs + nf0, flush := sumOf Nres.flush rs } : Block)
  let plain := pack c ys 0 0 0 0
  if esc && decide (0 < plain.crush) && decide (2 ≤ cnt (fun y => !exIsZero y) ys) then
    let i := argMax ys
    let v := narrow .bf16 0 ovf 0 (ys.getD i .nan)
    let rest := ys.set i (.fin false 0 1 0)
    let b := pack (blockCode f (ys.eraseIdx i)) rest (i * 2 ^ 19 + 2 ^ 18 + v.code) v.flags v.sat v.nonfin
    { b with elems := b.elems.set i 0 }
  else plain

/-- The values of a block divided by s, with the flags of the division (R39). -/
def divideBy (s : Ex) (xs : List Ex) : List Ex × Nat :=
  (xs.map (fun x => (exDiv x s).1), xs.foldl (fun f x => Nat.lor f (exDiv x s).2) 0)

/-- The value of an element of a block before the tensor scale (R38, R41): q × 2^(c-127), or the escape's BF16. -/
def blockValue (f : Fmt) (c esc k q : Nat) : Ex :=
  if c = 255 then .fin false 0 1 0
  else if bit esc 18 ∧ bits esc 23 19 = k then decodeF .bf16 (esc % 2 ^ 16)
  else exScale ((c : Int) - 127) (decodeF f q)

/-- The decoding of an element (R43): the exact value times s, rounded once; an element of a zero block is +0 (R38). -/
def decodeElem (f : Fmt) (dst rnd ovf g c esc k q : Nat) (s : Ex) : Nres :=
  if c = 255 then toTy dst rnd ovf g (.fin false 0 1 0)
  else
    let (v, fl) := exMul (blockValue f c esc k q) s
    let r := toTy dst rnd ovf g v
    { r with flags := Nat.lor r.flags fl }

/-- Bytes of the elements of a block in storage order (R42). -/
def blockBytes (f : Fmt) (b : Block) (escMode : Bool) : List Byte :=
  BitVec.ofNat 8 b.code :: bytesOf (if f = .e2m1 then 16 else 32) (packW f.width b.elems)
    ++ (if escMode then bytesOf 3 b.esc else [])

/-- Size in bytes of a strided block (R42). -/
def stridedSize (f : Fmt) (escMode : Bool) : Nat := (if f = .e2m1 then 17 else 33) + (if escMode then 3 else 0)

end Sys2Proof.Machine
end

