-- ==== Sys2Proof/Machine/Landing.lean ====
section
/-! DEFINITION. Conversions of the engines (06 R175-R177) and their accesses to memory through the MMU. -/
namespace Sys2Proof.Machine

/-- The conversion part of a descriptor (06 R172) with the seed of its VI. -/
structure Cv where
  code : Nat
  set : Nat
  det : Nat
  rnd : Nat
  ovf : Nat
  lw : Bool
  packed : Bool
  esc : Bool
  grid : Int
  scale : Nat
  srtid : Nat
  srbase : Nat
  seed : List Nat

/-- The conversion in the word of bytes 32-39. -/
def cvOf (w : W64) (srtid srbase : Nat) (seed : List Nat) : Cv :=
  { code := wf w 3 0, set := wf w 7 4, det := wf w 11 8, rnd := wf w 14 12, ovf := wf w 16 15, lw := bit w.toNat 17,
    packed := bit w.toNat 18, esc := bit w.toNat 19, grid := toI 12 (wf w 31 20), scale := wf w 63 32, srtid, srbase,
    seed }

/-- Whether the source engine converts (06 R176). -/
def cvAtSource (c : Cv) : Bool := c.code == 1 && c.set != c.det && etWidth c.det ≤ etWidth c.set

/-- Spring output for element k (06 R176). -/
def cvG (c : Cv) (k : Nat) : Nat := if c.rnd = 4 then spring c.seed 0 c.srtid (c.srbase + k) else 0

/-- Converted elements: bytes, watch counts, and whether a block was malformed. -/
structure Landed where
  data : List Byte
  sat : Nat := 0
  nonfin : Nat := 0
  flush : Nat := 0
  bad : Bool := false

/-- Results as bytes of a type. -/
def landedOf (det : Nat) (l : List Nres) (bad : Bool) : Landed :=
  { data := l.flatMap fun r => bytesOf (etBytes det) r.code, sat := sumOf Nres.sat l, nonfin := sumOf Nres.nonfin l,
    flush := sumOf Nres.flush l, bad }

/-- Codes of elements of n bytes each. -/
def codesIn (n : Nat) (l : List Byte) : List Nat := (chunks (max 1 n) l).map ofBytes

/-- Ledger words, strided or packed: at most `n` of them, and whether a block is malformed (02 R51-R53). -/
def packedWords (width : Nat) : Nat → List Byte → List Int × Bool
  | 0, _ => ([], false)
  | _, [] => ([], false)
  | f + 1, l =>
    match unpackBlock width l with
    | none => ([], true)
    | some (ws, rest) =>
      let r := packedWords width f rest
      (ws ++ r.1, r.2)

/-- Words of ledger data. -/
def ledgerWords (width : Nat) (packed : Bool) (n : Nat) (l : List Byte) : List Int × Bool :=
  if packed then
    let r := packedWords width (cdiv n 32) l
    (r.1.take n, r.2)
  else (((codesIn (width / 8) l).map (toI width)).take n, false)

/-- Bytes of the elements of a block (02 R42). -/
def blockData (f : Fmt) : Nat := if f = .e2m1 then 16 else 32

/-- Whether an escape word is malformed (02 R42, 08 R255). -/
def escBad (e : Nat) : Bool := bits e 17 16 != 0 || (!bit e 18 && e != 0)

/-- Scaled blocks: code, elements, escape; and whether one is malformed (02 R42, 08 R255). -/
def scaledBlocks (f : Fmt) (esc packed : Bool) : Nat → List Byte → List (Nat × List Nat × Nat) × Bool
  | 0, _ => ([], false)
  | _, [] => ([], false)
  | n + 1, c :: rest =>
    if packed && c.toNat == 255 then
      let r := scaledBlocks f esc packed n rest
      ((255, List.replicate 32 0, 0) :: r.1, r.2)
    else
      let k := blockData f
      let ew := if esc then ofBytes ((rest.drop k).take 3) else 0
      if rest.length < k + (if esc then 3 else 0) then ([], true)
      else if c.toNat != 255 && escBad ew then ([], true)
      else
        let r := scaledBlocks f esc packed n (rest.drop (k + if esc then 3 else 0))
        ((c.toNat, unpackW f.width 32 (ofBytes (rest.take k)), ew) :: r.1, r.2)

/-- The elements of scaled blocks decoded, from element k (02 R43). -/
def decodeBlocks (f : Fmt) (det rnd ovf : Nat) (g : Nat → Nat) (sc : Ex) (k n : Nat) :
    List (Nat × List Nat × Nat) → List Nres
  | [] => []
  | (c, q, e) :: l =>
    ((indexed 0 q).take n).map (fun p => decodeElem f det rnd ovf (g (k + p.1)) c e p.1 p.2 sc) ++
      decodeBlocks f det rnd ovf g sc (k + 32) (n - 32) l

/-- The landing of data in the descriptor's source form: elements from k, at most n (06 R175). -/
def convertRun (c : Cv) (k n : Nat) (l : List Byte) : Landed :=
  match c.code with
  | 1 =>
    if c.set = c.det then { data := l }
    else
      landedOf c.det ((indexed 0 ((codesIn (etBytes c.set) l).take n)).map fun p =>
        convert c.set c.det c.rnd c.ovf (cvG c (k + p.1)) p.2) false
  | 2 =>
    let width := if c.lw then 128 else 64
    let r := ledgerWords width c.packed n l
    landedOf c.det ((indexed 0 r.1).map fun p => toTy c.det c.rnd c.ovf (cvG c (k + p.1)) (ledgerVal width c.grid p.2))
      r.2
  | 3 =>
    match etFmt c.set with
    | some f =>
      let r := scaledBlocks f c.esc c.packed (cdiv n 32) l
      landedOf c.det (decodeBlocks f c.det c.rnd c.ovf (cvG c) (decodeF .f32 c.scale) k n r.1) r.2
    | none => { data := [] }
  | _ => { data := l }

/-- Counts a conversion in the watch of the converting VI (08 R257). -/
def watchLanded (v : Nat) (r : Landed) : M Unit := do
  watch v wSat r.sat
  watch v wNonfinite r.nonfin
  watch v wFlush r.flush

/-! Accesses of engines. -/

/-- The places of a run of addresses up to the first that faults: its address, code, stage, level and IPA. -/
def xlPrefix (s : State) (v acc : Nat) : List Nat → List Pa × Option (Nat × Nat × Nat × Nat × Nat)
  | [] => ([], none)
  | a :: l =>
    match translate s v none a acc with
    | .ok p =>
      let r := xlPrefix s v acc l
      (p :: r.1, r.2)
    | .fault code stage level ipa => ([], some (a, code, stage, level, ipa))
    | .mig => ([], none)

/-- Writes the bytes that translate; the answer holds the first fault with the count of bytes before it. -/
def engWrite (v va : Nat) (l : List Byte) : M (Option (Nat × (Nat × Nat × Nat × Nat × Nat))) := do
  let s ← cur
  let r := xlPrefix s v aWrite (addrs va l.length)
  paWrite (r.1.zip l)
  return r.2.map fun x => (r.1.length, x)

/-- HBM channels and bytes moved are counted by 64 (14 R413). -/
def movedCount (engine v n : Nat) : M Unit := countEv 3 2 engine (some v) (cdiv n 64)

end Sys2Proof.Machine
end

