-- ==== Sys2Proof/Machine/Dma.lean ====
section
/-! DEFINITION. DMA descriptors (06 R169-R183): checks, acceptance, movement, completion, and their Talus records (13
R379-R381). -/
namespace Sys2Proof.Machine

/-! Fields of a descriptor (06 R172). -/

def dWord (l : List W64) (i : Nat) : W64 := l.getD i 0
def dSrc (l : List W64) : Nat := wf (dWord l 0) 47 0
def dSrcHm (l : List W64) : Bool := bit (dWord l 0).toNat 63
def dSrcBus (l : List W64) : Nat := wf (dWord l 0) 62 0
def dDst (l : List W64) : Nat := wf (dWord l 1) 47 0
def dDstHm (l : List W64) : Bool := bit (dWord l 1).toNat 63
def dDstBus (l : List W64) : Nat := wf (dWord l 1) 62 0
def dLen (l : List W64) : Nat := wf (dWord l 2) 39 0
def dDev (l : List W64) : Nat := wf (dWord l 3) 14 0
def dDvi (l : List W64) : Nat := wf (dWord l 3) 18 15
def dLocal (l : List W64) : Bool := bit (dWord l 3).toNat 19
def dTc (l : List W64) : Nat := if wf (dWord l 3) 22 20 = 0 then 5 else wf (dWord l 3) 22 20
def dFence (l : List W64) : Bool := bit (dWord l 3).toNat 23
def dDinc (l : List W64) : Nat := wf (dWord l 3) 31 24
def dDsig (l : List W64) : Nat := wf (dWord l 7) 14 0
def dDsigEn (l : List W64) : Bool := bit (dWord l 7).toNat 15
def dSsig (l : List W64) : Nat := wf (dWord l 7) 30 16
def dSsigEn (l : List W64) : Bool := bit (dWord l 7).toNat 31
def dInc (l : List W64) : Nat := wf (dWord l 7) 47 32

/-- Seed of landing conversions of a VI (06 R176). -/
def viSeed (s : State) (v : Nat) : List Nat := (upto 4).map fun j => getF s (F.DMA_VI_SRSEED_K v j)

/-- Conversion of a descriptor. -/
def dCv (s : State) (v : Nat) (l : List W64) : Cv := cvOf (dWord l 4) (dWord l 5).toNat (dWord l 6).toNat (viSeed s v)

/-- Elements that a descriptor moves, from CODE, SET and LEN. -/
def cvCount (c : Cv) (len : Nat) : Nat := if c.code = 1 then len / etBytes c.set else len

/-- Bytes of a destination element. -/
def cvDst (c : Cv) : Nat := if c.code = 0 then 1 else etBytes c.det

/-- A unit of the source form: its bytes and elements, by the header byte of a packed block. -/
def cvUnit (c : Cv) (hdr : Nat) : Nat × Nat :=
  match c.code with
  | 1 => (etBytes c.set, 1)
  | 2 => if c.packed then (1 + 4 * ledgerWidth (if c.lw then 128 else 64) (hdr % 64), 32)
         else (if c.lw then 16 else 8, 1)
  | 3 => match etFmt c.set with
    | some f => if c.packed && hdr == 255 then (1, 32) else (stridedSize f c.esc, 32)
    | none => (1, 1)
  | _ => (1, 1)

/-! Checks (06 R174). -/

def rRsvd : Nat := 1
def rConv : Nat := 2
def rLen : Nat := 3
def rAlign : Nat := 4
def rRoute : Nat := 5
def rSignal : Nat := 6
def rQueue : Nat := 7

/-- RSVD: HM is allowed through a host queue with LOCAL = 1 (12 R359). -/
def dRsvd (l : List W64) (host : Bool) : Bool :=
  let hm := host && dLocal l
  wf (dWord l 0) 62 48 != 0 && !(hm && dSrcHm l) || dSrcHm l && !hm ||
  wf (dWord l 1) 62 48 != 0 && !(hm && dDstHm l) || dDstHm l && !hm ||
  wf (dWord l 2) 63 40 != 0 || wf (dWord l 3) 63 32 != 0 || wf (dWord l 7) 63 48 != 0 ||
  3 < wf (dWord l 4) 3 0 || 4 < wf (dWord l 4) 14 12 || wf (dWord l 4) 16 15 == 3 ||
  !(wf (dWord l 3) 22 20 == 0 || wf (dWord l 3) 22 20 == 5 || wf (dWord l 3) 22 20 == 6)

/-- CONV: SET and DET by CODE (06 R175). -/
def dConvOk (l : List W64) : Bool :=
  let set := wf (dWord l 4) 7 4
  let det := wf (dWord l 4) 11 8
  match wf (dWord l 4) 3 0 with
  | 0 => true
  | 1 => etMove set && etMove det
  | 2 => etArith det
  | _ => etShort set && etArith det

/-- LEN of a CVT. -/
def dLenOk (l : List W64) : Bool :=
  wf (dWord l 4) 3 0 != 1 || dLen l % etBytes (wf (dWord l 4) 7 4) == 0

/-- ALIGN. -/
def dAlignOk (l : List W64) : Bool :=
  let src := if dSrcHm l then dSrcBus l else dSrc l
  let dst := if dDstHm l then dDstBus l else dDst l
  let unit := match wf (dWord l 4) 3 0 with
    | 1 => etBytes (wf (dWord l 4) 7 4)
    | 2 => if bit (dWord l 4).toNat 18 then 1 else if bit (dWord l 4).toNat 17 then 16 else 8
    | _ => 1
  wf (dWord l 4) 3 0 == 0 || (dst % etBytes (wf (dWord l 4) 11 8) == 0 && src % unit == 0)

/-- ROUTE: only of the device itself are the VIs known here (06 R174, R179). -/
def dRouteOk (s : State) (l : List W64) : Bool :=
  dLocal l || (reachable s (dDev l) (dTc l) && (dDev l != selfDev s || viPresent s (dDvi l)))

/-- SIGNAL. -/
def dSignalOk (s : State) (v : Nat) (l : List W64) : Bool :=
  (!dSsigEn l || (ctrOf s v (dSsig l)).isSome) && (!(dDsigEn l && dLocal l) || (ctrOf s v (dDsig l)).isSome) &&
  (!(dSsigEn l || dDsigEn l) || dInc l != 0)

/-- The refusal code of a descriptor, in the order of 06 R174. -/
def dmaCheck (s : State) (v : Nat) (host queueOk : Bool) (l : List W64) : Option Nat :=
  if dRsvd l host then some rRsvd
  else if !dConvOk l then some rConv
  else if !dLenOk l then some rLen
  else if !dAlignOk l then some rAlign
  else if !dRouteOk s l then some rRoute
  else if !dSignalOk s v l then some rSignal
  else if !queueOk then some rQueue
  else none

/-! Outstanding descriptors. -/

/-- Outstanding descriptors of a VI and of a queue (06 R170). -/
def viOut (s : State) (v : Nat) : Nat := cnt (fun d => d.vi == v) s.sys.dma.descs
def qDescs (s : State) (q : QRef) : List Desc := s.sys.dma.descs.filter fun d => d.q == q
def qOut (s : State) (q : QRef) : Nat := (qDescs s q).length

/-- A descriptor by queue and sequence. -/
def findDesc (s : State) (q : QRef) (seq : Nat) : Option Desc := s.sys.dma.descs.find? fun d => d.q == q && d.seq == seq

/-- Changes a descriptor. -/
def putDesc (d : Desc) : M Unit :=
  modDma fun y => { y with descs := y.descs.map fun x => if x.q = d.q ∧ x.seq = d.seq then d else x }

/-- Number of a queue in frames (06 R194, 13 R380), and in the key of a transfer. -/
def qNum : QRef → Nat
  | .dma q => q.val
  | .host q => q.val
def qKey : QRef → Nat
  | .dma q => q.val
  | .host q => 1024 + q.val

/-- Engine of a queue: for telemetry only those of DMA queues are counted. -/
def qEngine (s : State) : QRef → Nat
  | .dma q => getF s (F.DMA_Q_CFG_ENGINE q)
  | .host _ => 64

/-- The agent, its code and its SOURCE (05 R151). -/
def qAgent (s : State) (q : QRef) (seq : Nat) : Agent × Nat × Nat :=
  match q with
  | .dma n => (.dma n seq, agDma, getF s (F.DMA_Q_CFG_ENGINE n) + 64 * n.val)
  | .host n => (.host n seq, agHostcmd, n.val)

/-- Local index of a host queue, and its link. -/
def hqLocal (s : State) (q : Nat) : Nat :=
  match hqOwner s q with
  | some v => q - getF s (F.HOST_VI_CFG_QBASE v)
  | none => 0
def hqLink (q : Nat) : Nat := q / 256

/-! Talus (13 R379-R381). -/

/-- Die whose ring holds the record of a queue. -/
def qDie (s : State) : QRef → Nat
  | .dma q => getF s (F.DMA_Q_CFG_ENGINE q) / 32
  | .host q => hqLink q

/-- Whether a descriptor has a record: its destination is another device. -/
def dTalus (s : State) (l : List W64) : Bool := !dLocal l && dDev l != selfDev s

/-- Slots in use on a die. -/
def talusUsed (s : State) (die : Nat) : List Nat :=
  (s.sys.dma.descs.filterMap fun d => if dTalus s d.words && qDie s d.q == die then some d.slot else none) ++
  s.sys.col.grps.flatMap fun p =>
    if dieOfGrp p.1 = die then p.2.gens.filterMap fun g => if g.barrier || g.state == .ended then none else some g.slot
    else []

/-- The lowest free slot. -/
def talusSlot (s : State) (die : Nat) : Nat :=
  let l := talusUsed s die
  ((upto (l.length + 1)).find? fun i => !l.contains i).getD 0

/-- Writes bytes of a record from an offset in it. -/
def talusWrite (die slot off : Nat) (l : List Byte) : M Unit := do
  let s ← cur
  emit (.hbm (getF s (F.TALUS_CFG_BASE die) * 4096 + slot * 128 + off) l)

/-- The words of a descriptor as bytes. -/
def wordBytes (l : List W64) : List Byte := l.flatMap fun w => bytesOf 8 w.toNat

/-- The record of a descriptor (13 R380). -/
def talusDesc (d : Desc) : M Unit := do
  let s ← cur
  whenB (dTalus s d.words) (talusWrite (qDie s d.q) d.slot 0
    ([2, BitVec.ofNat 8 d.vi, BitVec.ofNat 8 d.inc, 0] ++ bytesOf 4 d.seq ++ bytesOf 2 (qNum d.q) ++ bytesOf 6 0 ++
      bytesOf 8 d.commit ++ bytesOf 40 0 ++ wordBytes d.words))

/-! End of a descriptor. -/

/-- The error record of a queue (06 R194). -/
def qError (q seq inc status : Nat) : M Unit := do
  let s ← cur
  addSat (F.DMA_Q_ERR_ERRCNT q) 1
  if flag s (F.DMA_Q_ERR_VALID q) then putF (F.DMA_Q_ERR_OVERLAP q) 1
  else
    putF (F.DMA_Q_ERR_VALID q) 1
    putF (F.DMA_Q_ERR_STATUS q) status
    putF (F.DMA_Q_ERR_SEQ q) seq
    putF (F.DMA_Q_ERR_INC q) inc

/-- A descriptor leaves its queue with a status of 06 R179; a host-queue descriptor waits for its CQ entry (12 R361). -/
def descEnd (d : Desc) (status : Nat) : M Unit := do
  let s ← cur
  modDma fun y => { y with descs := y.descs.filter fun x => !(x.q == d.q && x.seq == d.seq) }
  unpark d.vi (qAgent s d.q d.seq).1
  match d.q with
  | .dma q => do
    addWrap (F.DMA_Q_STAT_DONE q) 1
    whenB (status != 0) (qError q d.seq d.inc status)
    countEv 3 (if status = 0 then 1 else 3) (qEngine s d.q) (some d.vi) 1
  | .host q => modHq q fun h => { h with done := h.done ++ [{ seq := d.seq, status, refusal := 0 }] }

/-- A signal of a descriptor. -/
def raiseDsig (d : Desc) : M Unit := whenB (dDsigEn d.words) (ctrAddLocal d.vi (dDsig d.words) (dInc d.words))
def raiseSsig (d : Desc) : M Unit := whenB (dSsigEn d.words) (ctrAddLocal d.vi (dSsig d.words) (dInc d.words))

/-! Movement (06 R171, R176, R178). -/

/-- The transfer header (11 R321). -/
def xferHdr (s : State) (v : Nat) (l : List W64) : List Byte :=
  wordBytes [dWord l 4, dWord l 5, dWord l 6, dWord l 2,
    BitVec.ofNat 64 (setBits (dWord l 7).toNat 31 16 0)] ++ (viSeed s v).flatMap (bytesOf 4) ++ bytesOf 8 0

/-- K0 of a transfer's frames. -/
def xferK0 (queue seq : Nat) : W64 := BitVec.ofNat 64 (queue % 1024 + seq % 2 ^ 32 * 1024)

/-- A DMA_DATA frame. -/
def sendData (d : Desc) (tc off : Nat) (data : List Byte) : M Unit := do
  let s ← cur
  let pay := xferHdr s d.vi d.words ++ data
  send (.send tc (mkHdr s 0 (dDev d.words) (dDvi d.words) (dDinc d.words) d.vi d.inc pay.length
    (xferK0 (qNum d.q) d.seq) (BitVec.ofNat 64 off)) pay)

/-- What a segment of a descriptor leads to. -/
inductive Seg where
  | more (d : Desc)
  | stop (d : Desc)
  | ended (status : Nat)

/-- A fault of a descriptor's access: it parks, or ends at once with RANGE (05 R149, R156). -/
def descFault (d : Desc) (acc : Nat) (f : Nat × Nat × Nat × Nat × Nat) : M Seg := do
  let s ← cur
  let (va, code, stage, level, ipa) := f
  let (who, ag, source) := qAgent s d.q d.seq
  let since := d.since.getD (nowNs s)
  mmuFault d.vi va code stage level ipa ag acc source who since
  return if code = fRange then .ended 1 else .stop { d with state := .parked, since := some since }

/-- Source bytes from where the descriptor stands: of the host's answer, or of its VA up to the first fault. -/
def srcRun (s : State) (d : Desc) (hb : Option (List Byte)) (k : Nat) :
    List Byte × Option (Nat × Nat × Nat × Nat × Nat) :=
  match hb with
  | some l => ((l.drop d.src).take k, none)
  | none =>
    let r := xlPrefix s d.vi aRead (addrs (dSrc d.words + d.src) k)
    (r.1.map (paByte s), r.2)

/-- Running CRC-32C. -/
def crcRun (c : Nat) (l : List Byte) : Nat := l.foldl crcByte c

/-- Landing of a segment on this device: `got` elements of `data` in units of `u`. -/
def landLocal (d : Desc) (c : Cv) (u : Nat × Nat) (got : Nat) (data : List Byte) : M Seg := do
  let s ← cur
  let r := convertRun c d.pos got data
  let next : Desc := { d with pos := d.pos + got, src := d.src + data.length, crc := crcRun d.crc r.data }
  if dDstHm d.words then do
    send (.hostWrite (match d.q with
      | .host q => hqLink q
      | .dma _ => getF s (F.HOST_VI_CFG_LINK d.vi)) (dDstBus d.words + d.pos * cvDst c) r.data)
    watchLanded d.vi r
    whenB r.bad (watch d.vi wMalformed 1)
    return if r.bad then .ended 3 else .more next
  else do
    let f ← engWrite d.vi (dDst d.words + d.pos * cvDst c) r.data
    match f with
    | none => do
      watchLanded d.vi r
      whenB r.bad (watch d.vi wMalformed 1)
      return if r.bad then .ended 3 else .more next
    | some (k, f) => do
      let units := k / (u.2 * cvDst c)
      let part := convertRun c d.pos (units * u.2) (data.take (units * u.1))
      watchLanded d.vi part
      descFault { d with pos := d.pos + units * u.2, src := d.src + units * u.1, crc := crcRun d.crc part.data } aWrite f

/-- Movement of a segment to another device or VI. -/
def landRemote (d : Desc) (c : Cv) (tc got : Nat) (data : List Byte) : M Seg := do
  let r : Landed := if cvAtSource c then convertRun c d.pos got data else { data }
  watchLanded d.vi r
  sendData d tc (d.pos * cvDst c) r.data
  return .more { d with pos := d.pos + got, src := d.src + data.length }

/-- One segment: at most 4,032 bytes, so that a frame carries it behind the transfer header. -/
def segment (d : Desc) (c : Cv) (tc : Nat) (hb : Option (List Byte)) : M Seg := do
  let s ← cur
  let u := cvUnit c (((srcRun s d hb 1).1.headD 0).toNat)
  let want := min (cvCount c (dLen d.words) - d.pos) (u.2 * (if c.packed then 1 else max 1 (4032 / max 1 u.1)))
  let need := cdiv want u.2 * u.1
  let r := srcRun s d hb need
  let got := if r.2.isNone then want else min want (r.1.length / max 1 u.1 * u.2)
  let data := r.1.take (cdiv got u.2 * u.1)
  if hb.isSome && r.1.length < need then return .stop d
  else if got = 0 then
    match r.2 with
    | some f => descFault d aRead f
    | none => return .stop d
  else if dLocal d.words then landLocal d c u got data
  else landRemote d c tc got data

/-- The segments of a descriptor, from where it stands. -/
def descLoop (tc : Nat) (hb : Option (List Byte)) : Nat → Desc → M Unit
  | 0, d => putDesc d
  | n + 1, d => do
    let s ← cur
    let c := dCv s d.vi d.words
    if cvCount c (dLen d.words) ≤ d.pos then putDesc { d with state := .sent, since := none }
    else
      let r ← segment d c tc hb
      match r with
      | .more d => descLoop tc hb n d
      | .stop d => putDesc d
      | .ended st => descEnd d st

/-- A descriptor moves; the bytes are counted (14 R413). -/
def descMove (d : Desc) (tc : Nat) (hb : Option (List Byte)) : M Unit := do
  let s ← cur
  descLoop tc hb (dLen d.words + 1) { d with state := .queued }
  let s' ← cur
  let c := dCv s d.vi d.words
  let pos := match findDesc s' d.q d.seq with
    | some x => x.pos
    | none => d.pos
  movedCount (qEngine s d.q) d.vi ((pos - d.pos) * cvDst c)

/-- Whether a queue can start a descriptor now: the first that is queued and has bytes, behind no parked one, and with
FENCE behind none (06 R172, R182, 05 R156). -/
def startable (s : State) (q : QRef) : Option Desc :=
  let l := qDescs s q
  if l.any fun d => d.state == .parked then none
  else
    match l.find? fun d => d.state == .queued && dLen d.words != 0 with
    | some d =>
      if dFence d.words && (l.headD d).seq != d.seq then none
      else if !dLocal d.words && draining s (dDev d.words) (dTc d.words) then none
      else some d
    | none => none

/-- Source bytes of a descriptor, at most. -/
def srcLen (c : Cv) (len : Nat) : Nat :=
  let u := cvUnit c (if c.code = 2 ∧ c.packed = true then 63 else 0)
  cdiv (cvCount c len) u.2 * u.1

/-! Acceptance. -/

/-- A descriptor is accepted (06 R170): with a length of 0 and no signal it completes at once (R181). -/
def acceptDesc (q : QRef) (v seq : Nat) (words : List W64) : M Unit := do
  let s ← cur
  let d : Desc :=
    { q, seq, vi := v, inc := viInc s v, words, state := .queued, pos := 0, src := 0, commit := 0,
      slot := if dTalus s words then talusSlot s (qDie s q) else 0, since := none, crc := 0xFFFFFFFF }
  modDma fun y => { y with descs := y.descs ++ [d] }
  talusDesc d
  whenB (dLen words == 0 && !dDsigEn words && !dSsigEn words) (descEnd d 0)

/-- Descriptors of a host queue without a CQ entry (12 R358, R372): after the loss of its link none is written. -/
def hqOut (s : State) (q : HqNo) : Nat :=
  qOut s (.host q) + (if getF s (F.HOST_Q_STAT_ERR q) = 4 then 0 else (hqSt s q).done.length + (hqSt s q).pushed.length)

/-- A descriptor of a host queue is checked, and accepted or refused (12 R357-R361). -/
def hostAccept (q : HqNo) (v : Nat) (words : List W64) : M Unit := do
  let s ← cur
  let seq := (hqSt s q).nextSeq
  modHq q fun h => { h with nextSeq := (h.nextSeq + 1) % 2 ^ 32 }
  match dmaCheck s v true true words with
  | some code => modHq q fun h => { h with done := h.done ++ [{ seq, status := 0, refusal := code }] }
  | none => acceptDesc (.host q) v seq words

/-- Pushed descriptors are taken while the VI's allotment has room (12 R360). -/
def pushDrain (q : HqNo) (v : Nat) : List (List W64) → M Unit
  | [] => pure ()
  | w :: rest => do
    let s ← cur
    whenB (decide (viOut s v < allotDesc s v)) do
      modHq q fun h => { h with pushed := h.pushed.drop 1 }
      hostAccept q v w
      pushDrain q v rest

/-- The pushed descriptors of a queue, when it is a host queue that has not stopped. -/
def pushTake : QRef → M Unit
  | .dma _ => pure ()
  | .host q => do
    let s ← cur
    match hqOwner s q with
    | some v => whenB (!flag s (F.HOST_Q_STAT_STOP q)) (pushDrain q v (hqSt s q).pushed)
    | none => pure ()

/-- DESCRIPTOR_START (06 R171, R178). A host-memory source is asked for first (12 R359, R360). -/
def execDescriptorStart (q : QRef) (hostBytes : HostRead) (s : State) : Host.Outcome State Fault Refusal :=
  act (do
    whenB (enginesRun s) (pushTake q)
    let s ← cur
    match startable s q with
    | none => pure ()
    | some d =>
      if !enginesRun s then pure ()
      else if hostBytes = .failed then descEnd d 4
      else if dSrcHm d.words then
        match hostBytes with
        | .bytes l => descMove d (dTc d.words) (some l)
        | _ => send (.hostRead (hqLink (qNum q)) (dSrcBus d.words) (srcLen (dCv s d.vi d.words) (dLen d.words)))
      else descMove d (dTc d.words) none) s

/-- A local descriptor's writes are acknowledged: its record where its bytes come from outside, then its signals
(06 R178, 14 R422, R423). -/
def localDone (d : Desc) : M Unit := do
  let s ← cur
  let ok ← (if dSrcHm d.words && dLen d.words != 0 then
      recordInput d.vi (hqLocal s (qNum d.q)) (Nat.xor d.crc 0xFFFFFFFF) (dLen d.words)
    else pure true)
  if ok then do
    raiseDsig d
    raiseSsig d
    descEnd d 0
  else putDesc { d with state := .acked }

/-- ZERO_LEN_COMPLETE (06 R181). -/
def execZeroLenComplete (q : QRef) (seq : Nat) (s : State) : Host.Outcome State Fault Refusal :=
  act (do
    let s ← cur
    match findDesc s q seq with
    | none => pure ()
    | some d =>
      whenB (enginesRun s && d.state == .queued && dLen d.words == 0 && (qDescs s q).headD d == d) do
        if dLocal d.words then localDone d
        else
          sendData d (dTc d.words) 0 []
          putDesc { d with state := .sent }) s

/-- DESCRIPTOR_RESEND (13 R388): from COMMIT, in TC1, once a route exists. -/
def execDescriptorResend (q : QRef) (seq : Nat) (s : State) : Host.Outcome State Fault Refusal :=
  act (do
    let s ← cur
    match findDesc s q seq with
    | none => pure ()
    | some d =>
      whenB (enginesRun s && d.state == .lost && reachable s (dDev d.words) 1) do
        addWrap (F.TALUS_STAT_REPLAYS (qDie s q)) 1
        let c ← takeFree
        postErr { cls := 2, unit := 3, index := qEngine s q, code := bits c.toNat 7 0, vi := some d.vi, inc := d.inc,
                  overlap := false, info := BitVec.ofNat 64 d.seq }
        if dLen d.words = 0 then
          sendData d 1 0 []
          putDesc { d with state := .sent }
        else descMove { d with pos := 0, src := 0, since := none } 1 none) s

/-- RESEND_ROUTE_TIMEOUT (13 R388). -/
def execResendRouteTimeout (q : QRef) (seq : Nat) (s : State) : Host.Outcome State Fault Refusal :=
  act (do
    let s ← cur
    match findDesc s q seq with
    | none => pure ()
    | some d => whenB (enginesRun s && d.state == .lost && !reachable s (dDev d.words) 1) (descEnd d 2)) s

end Sys2Proof.Machine
end

