-- ==== Sys2Proof/Machine/DmaLand.lean ====
section
/-! DEFINITION. The receiving side of DMA (06 R175-R179, 05 R159), and the completion that returns (R178). -/
namespace Sys2Proof.Machine

/-! Spill buffers of an inbound transfer (05 R13, R159). -/

/-- Mere owner of a VI and class (09 R286). -/
def mereOwner (v tc : Nat) : Nat := v * 8 + tc % 8

/-- Die whose packet buffer a VI's waiting cells are charged to. -/
def landDie (v : Nat) : Nat := v / 8

/-- The cells of an inbound frame that wait in Divide for spill buffers (05 R159). -/
def markFrame (v inc tc : Nat) (h : Hdr) (cells : Nat) (s : State) : DFrame :=
  { f := { id := 0, input := 72, tc := ⟨tc % 8, Nat.mod_lt _ (by decide)⟩, owner := v, inc := BitVec.ofNat 8 inc,
           dests := [], cells, flow := .transit 0, hdr := h, payload := [] }
    die := landDie v, residue := [], unacked := [], admitted := nowNs s, landing := true }

/-- Cells of a VI and class wait in Divide, or, where they are not admitted, the VI is faulted with SPILL_FULL. -/
def waitCells (v inc tc : Nat) (h : Hdr) (cells : Nat) : M Unit := do
  let s ← cur
  if admits s (landDie v) v (tc % 8) cells then
    modDiv fun y => { y with frames := y.frames ++ [markFrame v inc tc h cells s] }
  else viFault v causeSpillFull 6 tc 0

/-- The waiting cells of a transfer leave Divide. -/
def dropCells (h : Hdr → Bool) : M Unit :=
  modDiv fun y => { y with frames := y.frames.filter fun d => !(d.landing && h d.f.hdr) }

/-! Transfers at the destination. -/

/-- The key of a DMA_DATA frame. -/
def keyOf (a : Addr) (f : DmaFrame) : XferKey := { sdev := a.sdev, svi := a.svi, sinc := a.sinc, queue := f.queue, seq := f.seq }

def findRx (s : State) (k : XferKey) : Option Rx := s.sys.dma.rxs.find? fun x => x.key == k
def putRx (x : Rx) : M Unit :=
  modDma fun y => { y with rxs := y.rxs.map fun z => if z.key = x.key then x else z }

/-- Header of a frame that belongs to a transfer, for its waiting cells. -/
def rxHdr (s : State) (v inc : Nat) (k : XferKey) : Hdr :=
  { mkHdr s 0 (selfDev s) v inc k.svi k.sinc 0 (xferK0 k.queue k.seq) 0 with sdev := BitVec.ofNat 15 k.sdev }
def rxHdrOf (k : XferKey) (h : Hdr) : Bool :=
  h.kind == 0 && h.sdev == BitVec.ofNat 15 k.sdev && h.svi == BitVec.ofNat 4 k.svi &&
  h.sinc == BitVec.ofNat 8 k.sinc && h.k0 == xferK0 k.queue k.seq

/-- The conversion that the header of a transfer names. -/
def thCv (l : List W64) : Cv :=
  cvOf (dWord l 0) (dWord l 1).toNat (dWord l 2).toNat
    [wf (dWord l 5) 31 0, wf (dWord l 5) 63 32, wf (dWord l 6) 31 0, wf (dWord l 6) 63 32]
def thLen (l : List W64) : Nat := wf (dWord l 3) 39 0
def thDsig (l : List W64) : Nat := wf (dWord l 4) 14 0
def thDsigEn (l : List W64) : Bool := bit (dWord l 4).toNat 15
def thInc (l : List W64) : Nat := wf (dWord l 4) 47 32

/-- Reserved bits of a transfer header, or codes that the conversion does not have (11 R321, 06 R175). -/
def thBad (l : List W64) : Bool :=
  wf (dWord l 3) 63 40 != 0 || wf (dWord l 4) 31 16 != 0 || wf (dWord l 4) 63 48 != 0 || dWord l 7 != 0 ||
  3 < wf (dWord l 0) 3 0

/-- Bytes that a transfer lands. -/
def rxTotal (x : Rx) : Nat :=
  let c := thCv x.thdr
  cvCount c (thLen x.thdr) * cvDst c

/-- The end of the bytes from `upto` that the runs cover without a gap. -/
def covered (runs : List (Nat × Nat)) : Nat → Nat → Nat
  | 0, k => k
  | n + 1, k =>
    match runs.find? fun r => decide (r.1 ≤ k ∧ k < r.1 + r.2) with
    | some r => covered runs n (r.1 + r.2)
    | none => k

/-- Whether every byte has been written. -/
def rxFull (x : Rx) : Bool := rxTotal x ≤ covered x.written x.written.length 0

/-- A completion (06 R178, R179). -/
def sendDone (k : XferKey) (vi inc status : Nat) : M Unit := do
  let s ← cur
  send (.send 0 (mkHdr s 1 k.sdev k.svi k.sinc vi inc 0 (xferK0 k.queue k.seq) (BitVec.ofNat 64 status)) [])

/-- A transfer ends with a status: its spill is freed, and its source is told. -/
def rxEnd (x : Rx) (status : Nat) : M Unit := do
  mereDrop x.mere
  dropCells (rxHdrOf x.key)
  unpark x.vi (.recvDma x.key)
  putRx { x with status, spill := [], mere := [], done := true }
  sendDone x.key x.vi x.inc status

/-- Spill buffers for the rest of a transfer (05 R159); none of them where Mere lacks them. -/
def rxBuffers (x : Rx) (tc : Nat) : M (Option (List (Nat × Nat))) :=
  mereTakeN (mereOwner x.vi tc) x.inc (max 1 (cdiv (rxTotal x - sumOf (fun r => r.2) x.written) 65536))

/-- Converted bytes that cannot be written now wait in spill. -/
def rxSpill (x : Rx) (tc off : Nat) (l : List Byte) : M Unit := do
  let s ← cur
  let x := { x with spill := x.spill ++ [(off, l)] }
  if !x.mere.isEmpty then putRx x
  else
    let b ← rxBuffers x tc
    match b with
    | some bs => putRx { x with mere := bs }
    | none => do
      putRx x
      waitCells x.vi x.inc tc (rxHdr s x.vi x.inc x.key) (cellsOf l.length)

/-- Lands converted bytes at an offset. The answer is false where the transfer has ended or waits. -/
def rxLand (x : Rx) (tc off : Nat) (l : List Byte) : M Unit := do
  let s ← cur
  if !x.spill.isEmpty then rxSpill x tc off l
  else
    let f ← engWrite x.vi (x.dst.toNat % 2 ^ 48 + off) l
    match f with
    | none => putRx { x with written := x.written ++ [(off, l.length)] }
    | some (k, va, code, stage, level, ipa) => do
      let since := x.since.getD (nowNs s)
      mmuFault x.vi va code stage level ipa agRecv aWrite 0 (.recvDma x.key) since
      let x := { x with written := if k = 0 then x.written else x.written ++ [(off, k)], since := some since }
      if code = fRange then rxEnd x 1 else rxSpill x tc (off + k) (l.drop k)

/-- A malformed header or block ends the transfer (06 R177, 11 R321). -/
def rxMalformed (x : Rx) : M Unit := do
  watch x.vi wMalformed 1
  rxEnd x 3

/-- A frame of a transfer that is under way. -/
def rxData (x : Rx) (tc : Nat) (f : DmaFrame) : M Unit := do
  if x.done then pure ()
  else if f.thdr != x.thdr then rxMalformed x
  else
    let c := thCv x.thdr
    let k := f.offset / cvDst c
    let r : Landed := if cvAtSource c then { data := f.data } else convertRun c k (cvCount c (thLen x.thdr) - k) f.data
    watchLanded x.vi r
    (if r.data.isEmpty then pure () else rxLand x tc f.offset r.data)
    whenB r.bad do
      let s' ← cur
      match findRx s' x.key with
      | some x => rxMalformed x
      | none => pure ()

/-- The first frame of a transfer: the checks of 06 R179, then its header. -/
def rxOpen (a : Addr) (f : DmaFrame) : M (Option Rx) := do
  let s ← cur
  let x : Rx :=
    { key := keyOf a f, vi := a.dvi % 16, inc := a.dinc, thdr := f.thdr, dst := f.dst, status := 0, written := []
      spill := [], mere := [], edge := (s.sys.dma.edgeXfers.find? fun p => p.1 == keyOf a f).map (·.2), acked := false
      done := false, since := none }
  if !destOk s a || (thDsigEn f.thdr && (ctrOf s a.dvi (thDsig f.thdr)).isNone) then do
    dropFor a.dvi
    sendDone x.key a.dvi a.dinc 2
    return none
  else do
    modDma fun y =>
      { y with rxs := (y.rxs.filter fun z =>
          !(z.done && z.key.sdev == x.key.sdev && z.key.svi == x.key.svi && z.key.queue == x.key.queue &&
            z.key.sinc != x.key.sinc)) ++ [x] }
    if thBad f.thdr then do
      rxMalformed x
      return none
    else return some x

/-- DMA_DATA (06 R177-R179). -/
def execDmaData (a : Addr) (f : DmaFrame) (s : State) : Host.Outcome State Fault Refusal :=
  act (inbound a [5, 6, 1] do
    let s ← cur
    match findRx s (keyOf a f) with
    | some x =>
      if destOk s a then rxData x a.tc.val f
      else dropFor a.dvi
    | none => do
      let x ← rxOpen a f
      match x with
      | some x => rxData x a.tc.val f
      | none => pure ()) s

/-- Where the last bytes of a transfer from outside land, they make an INPUT record (14 R422). -/
def rxRecord (x : Rx) : M Bool := do
  let s ← cur
  match x.edge with
  | none => return true
  | some e =>
    let l := (xlPrefix s x.vi aWrite (addrs (x.dst.toNat % 2 ^ 48) (rxTotal x))).1.map (paByte s)
    recordInput x.vi (2 ^ 15 + e) (crc32c l) (thLen x.thdr)

/-- A transfer's writes are acknowledged: DSIG, then the completion (06 R178). -/
def rxDone (x : Rx) : M Unit := do
  let ok ← rxRecord x
  if ok then do
    whenB (thDsigEn x.thdr) (ctrAddLocal x.vi (thDsig x.thdr) (thInc x.thdr))
    putRx { x with done := true, acked := false }
    modDma fun y => { y with edgeXfers := y.edgeXfers.filter fun p => p.1 != x.key }
    sendDone x.key x.vi x.inc 0
  else putRx { x with acked := true }

/-- The queue of a key, for the descriptors of this device. -/
def keyQueue (k : Nat) : Option QRef :=
  if h : k < 1024 then some (.dma ⟨k, h⟩)
  else if h : k - 1024 < 512 then some (.host ⟨k - 1024, h⟩) else none

/-- DMA_WRITES_ACKED (06 R178): of an inbound transfer, or of a descriptor with LOCAL = 1. -/
def execDmaWritesAcked (x : XferKey) (s : State) : Host.Outcome State Fault Refusal :=
  act (do
    let s ← cur
    if !enginesRun s then pure ()
    else
      match findRx s x with
      | some r => whenB (!r.done && r.spill.isEmpty && rxFull r) (rxDone r)
      | none =>
        match (keyQueue x.queue).bind fun q => findDesc s q x.seq with
        | some d =>
          whenB (x.sdev == selfDev s && dLocal d.words && d.state == .sent && d.vi == x.svi && d.inc == x.sinc)
            (localDone d)
        | none => pure ()) s

/-- The descriptor that a completion names: of a DMA queue, or else of a host queue (DEDUCED, log entry 34). -/
def doneDesc (s : State) (a : Addr) (queue seq : Nat) : Option Desc :=
  let ok := fun (d : Desc) => d.vi == a.dvi && d.inc == a.dinc && !dLocal d.words && dDev d.words == a.sdev &&
    d.seq == seq && qNum d.q == queue
  match s.sys.dma.descs.find? fun d => ok d && qKey d.q < 1024 with
  | some d => some d
  | none => s.sys.dma.descs.find? ok

/-- DMA_DONE (06 R178, R179). -/
def execDmaDone (a : Addr) (queue seq : Nat) (status : BitVec 4) (s : State) : Host.Outcome State Fault Refusal :=
  act (inbound a [0] do
    let s ← cur
    whenB (destOk s a) do
      match doneDesc s a queue seq with
      | some d => do
        whenB (status == 0) (raiseSsig d)
        let c := dCv s d.vi d.words
        whenB (status == 0) (talusDesc { d with commit := cvCount c (dLen d.words) * cvDst c })
        descEnd d status.toNat
      | none => pure ()) s

/-! Spill is written again, or moves into Mere. -/

/-- The spilled bytes of a transfer are written from the front, as far as they translate (05 R13, R156). -/
def rxUnspill (k : XferKey) : Nat → M Unit
  | 0 => pure ()
  | n + 1 => do
    let s ← cur
    match findRx s k with
    | none => pure ()
    | some x =>
      match x.spill with
      | [] => do
        mereDrop x.mere
        dropCells (rxHdrOf k)
        putRx { x with mere := [], since := none }
      | (off, l) :: rest => do
        let f ← engWrite x.vi (x.dst.toNat % 2 ^ 48 + off) l
        match f with
        | none => do
          putRx { x with spill := rest, written := x.written ++ [(off, l.length)] }
          rxUnspill k n
        | some (j, va, code, stage, level, ipa) => do
          let since := x.since.getD (nowNs s)
          mmuFault x.vi va code stage level ipa agRecv aWrite 0 (.recvDma k) since
          let x := { x with spill := (off + j, l.drop j) :: rest
                            written := if j = 0 then x.written else x.written ++ [(off, j)], since := some since }
          if code = fRange then rxEnd x 1 else putRx x

/-- A retried inbound transfer (05 R156). -/
def rxRetry (k : XferKey) : M Unit := do
  let s ← cur
  match findRx s k with
  | some x => rxUnspill k (x.spill.length + 1)
  | none => pure ()

/-- An aborted inbound transfer (05 R156). -/
def rxAbort (k : XferKey) : M Unit := do
  let s ← cur
  match findRx s k with
  | some x => rxEnd x 1
  | none => pure ()

end Sys2Proof.Machine
end

