-- ==== Sys2Proof/Machine/Tile.lean ====
section
/-! DEFINITION. The control core of a tile: taking an exception and returning from one (03 R94-R97), issue and commit,
and the memory accesses of a tile (03 R82, R90-R92, 05 R148). -/
namespace Sys2Proof.Machine

/-- Causes of 03 R94. -/
def xIllegal : Nat := 1
def xAlign : Nat := 2
def xXlate : Nat := 3
def xPerm : Nat := 4
def xTrap : Nat := 5
def xBreak : Nat := 6

/-- VI of a tile. -/
def tileVi (s : State) (t : Nat) : Nat := (tileOf s t).core.vi

/-- Taking an exception (03 R96): the handler is entered, or, with IH = 1 or TVEC = 0, the tile stops in FAULT and
its VI is faulted with cause HANDLER (R97). -/
def raise (t cause : Nat) (eaddr : W64) : M Unit := do
  let s ← cur
  let c := (tileOf s t).core
  countEv 1 5 t (some c.vi) 1
  if c.ih ∨ getCsr s t csrTVEC = 0 then
    emit (.core t { c with state := .fault, stall := .none, xlSince := none })
    viFault c.vi causeHandler 1 t (BitVec.ofNat 64 c.pc.toNat)
  else
    emit (.csr t csrEPC (c.pc.setWidth 64))
    emit (.csr t csrECAUSE (BitVec.ofNat 64 cause))
    emit (.csr t csrEADDR eaddr)
    emit (.core t { c with pc := (getCsr s t csrTVEC).setWidth 48, ih := true, state := .run, stall := .none,
                           xlSince := none })

/-- Returning from the handler (03 R96). -/
def eret (t : Nat) : M Unit := do
  let s ← cur
  modCore t fun c => { c with pc := (getCsr s t csrEPC).setWidth 48, ih := false, stall := .none, xlSince := none }

/-- An XLATE: the instruction waits uncommitted in STALL for the service of its fault (05 R156). Its start is the
time of its first fault, across retries (05 R157). -/
def parkTile (t va code stage level ipa acc : Nat) : M Unit := do
  let s ← cur
  let c := (tileOf s t).core
  let since := c.xlSince.getD (nowNs s)
  emit (.core t { c with state := .stall, stall := .xlate, xlSince := some since })
  mmuFault c.vi va code stage level ipa agTile acc t (.tile t) since

/-- A translation fault of a tile's access (05 R148): PERM and RANGE raise PERM, the others XLATE. -/
def tileFault (t va code stage level ipa acc : Nat) : M Unit :=
  if code = fPerm ∨ code = fRange then raise t xPerm (BitVec.ofNat 64 va)
  else parkTile t va code stage level ipa acc

/-- The next address after an instruction, in 48 bits. -/
def nextPc (pc : BitVec 48) : BitVec 48 := pc + 8

/-- Commit: the PC moves to the given address (03 R64). -/
def commitTo (t : Nat) (pc : BitVec 48) : M Unit := do
  modCore t fun c => { c with pc, state := .run, stall := .none, xlSince := none }
  let s ← cur
  countEv 1 1 t (some (tileVi s t)) 1

/-- Commit of an instruction that does not jump. -/
def commit (t : Nat) : M Unit := do
  let s ← cur
  commitTo t (nextPc (tileOf s t).core.pc)

/-- A tile issues: its clocks run, it is in RUN, nothing holds it (03 R64, 13 R377, 15 R453, 05 R165). -/
def canIssue (s : State) (t : Nat) : Bool :=
  enginesRun s && (tileOf s t).core.state == .run && !s.sys.power.critHold && !s.sys.power.gaps.contains (t / 4) &&
  (tileOf s t).core.saving == none

/-- Whether the breakpoint of a tile stands at an address (03 R101). -/
def breakAt (s : State) (t : Nat) (pc : BitVec 48) : Bool :=
  flag s (F.TILE_BRK_EN t) && getF s (F.TILE_BRK_ADDR t) * 8 == pc.toNat

/-- Issue of an instruction word (03 R74, R94): BREAK before it executes, then the fetch, then ILLEGAL by its encoding,
then the instruction. `row` says that the word is the command's own; a word of another row, or a tile that does not
issue, has no effect (log entries 1, 7). -/
def issue (t : Nat) (row : Bool) (w : W64) (m : M Unit) : M Unit := do
  let s ← cur
  let pc := (tileOf s t).core.pc
  if !canIssue s t || !row then pure ()
  else if breakAt s t pc then raise t xBreak (pc.setWidth 64)
  else if pc.toNat % 8 ≠ 0 then raise t xAlign (pc.setWidth 64)
  else
    match translate s (tileVi s t) (some t) pc.toNat aFetch with
    | .mig => pure ()
    | .fault code stage level ipa => tileFault t pc.toNat code stage level ipa aFetch
    | .ok _ => if legalWord w then m else raise t xIllegal w

/-- A result in a scalar register, and commit. -/
def writeS (t i : Nat) (v : W64) : M Unit := do
  emit (.sreg t i v)
  commit t

/-- An effective address, 64 bits wide (03 R80). -/
def effAddr (base : W64) (off : Int) : Nat := (base + w64I off).toNat

/-- A tile's access to a run of bytes: an address with any of bits 63:48 set is unbacked (05 R139). -/
def tileXlate (s : State) (t acc : Nat) (l : List Nat) : XlR :=
  translateAll s (tileVi s t) (some t) acc (l.map fun a => a % 2 ^ 64)

/-- A tile's access: with the places when every byte translates, or a fault, or a wait for a migration. -/
def tileAccess (t acc : Nat) (l : List Nat) (k : List Pa → M Unit) : M Unit := do
  let s ← cur
  match tileXlate s t acc l with
  | .ok ps => k ps
  | .bad va code stage level ipa => tileFault t va code stage level ipa acc
  | .wait => pure ()

/-- Whether any place lies in a pond. -/
def anyPond (l : List Pa) : Bool := l.any fun p => match p with
  | .pond _ _ => true
  | .hbm _ => false

/-- A free pond and HBM span (03 R90). -/
def spans (l : List Pa) : Bool := anyPond l && l.any fun p => match p with
  | .hbm _ => true
  | .pond _ _ => false

end Sys2Proof.Machine
end

