-- ==== Sys2Proof/Machine/MatrixUnit.lean ====
section
/-! DEFINITION. The matrix unit (04 R102-R118): accumulators, what an instruction does when it completes, and the
interlocks with later instructions. -/
namespace Sys2Proof.Machine

/-- Whether accumulator a is F64 (04 R108). -/
def accF64 (s : State) (t a : Nat) : Bool := (tileOf s t).core.tags.toNat.testBit a

/-- Place of element (r, c) of an accumulator. -/
def accKey (f64 : Bool) (a r c : Nat) : Nat := a * 8192 + (if f64 then 32 * r + c else 128 * r + c)

/-- Element of an accumulator. -/
def accElem (s : State) (t a r c : Nat) : Nat := (smGet 0 (tileOf s t).acc (accKey (accF64 s t a) a r c)).toNat

/-- Rows and columns of an accumulator of a type (04 R108, R111). -/
def accRows (f64 : Bool) : Nat := if f64 then 32 else 64
def accCols (f64 : Bool) : Nat := if f64 then 32 else 128

/-- Sets the tag of an accumulator; with `zero` all its elements become zero. -/
def setTag (t a : Nat) (f64 zero : Bool) : M Unit := do
  whenB zero (emit (.accZero t a))
  modCore t fun c => { c with tags := BitVec.ofNat 4 (setBits c.tags.toNat a a (b2n f64)) }

/-- Dimensions and strides in the register named by SM (04 R104). -/
def dimM (d : W64) : Nat := wf d 7 0
def dimN (d : W64) : Nat := wf d 15 8
def dimK (d : W64) : Nat := wf d 23 16
def dimLDA (d : W64) : Nat := wf d 39 24
def dimLDB (d : W64) : Nat := wf d 55 40

/-- Whether A, B is stored transposed (04 R105). -/
def mmaTA (w : W64) : Bool := bit (oOP w) 0
def mmaTB (w : W64) : Bool := bit (oOP w) 1

/-- Offset of A[r][k] from its base, and of B[k][c] (04 R105). -/
def offA (w d : W64) (r k : Nat) : Nat :=
  if mmaTA w then k * dimLDA d + r * etBytes (xETA w) else r * dimLDA d + k * etBytes (xETA w)
def offB (w d : W64) (k c : Nat) : Nat :=
  if mmaTB w then c * dimLDB d + k * etBytes (xETB w) else k * dimLDB d + c * etBytes (xETB w)

/-- A number in a pond. -/
def pondNum (s : State) (t off n : Nat) : Nat := ofBytes (pondRead s t off n)

/-- Codes of A[r][k] and B[k][c]. -/
def codeA (s : State) (t : Nat) (o : MatOp) (r k : Nat) : Nat :=
  pondNum s t (o.a + offA o.w o.dims r k) (etBytes (xETA o.w))
def codeB (s : State) (t : Nat) (o : MatOp) (k c : Nat) : Nat :=
  pondNum s t (o.b + offB o.w o.dims k c) (etBytes (xETB o.w))

/-- The products of one depth step (02 R44, 04 R112). -/
def mmaProducts (w : W64) (ca cb : Nat) : List ExF :=
  if xETA w = 9 then
    let (ah, al) := splitBf16 ca
    let (bh, bl) := splitBf16 cb
    match xPASS w with
    | 0 => [exMul ah bh]
    | 1 => [exMul ah bh, exMulPart al bh]
    | _ => [exMul ah bh, exMulPart ah bl, exMulPart al bh]
  else [exMul (etVal (xETA w) ca) (etVal (xETB w) cb)]
where
  /-- A product with a low part: a zero low part contributes an exact zero (DEDUCED, log entry 21). -/
  exMulPart (x y : Ex) : ExF := if exIsZero x || exIsZero y then (.fin false 0 1 0, 0) else exMul x y

/-- The factor of depth block j for row r, column c (04 R116): none where a code is 0xFF. -/
def mmaScale (s : State) (t : Nat) (o : MatOp) (r c j : Nat) : Option Int :=
  if !xSC o.w then some 0
  else
    match translate s (tileVi s t) (some t) (o.ss.toNat) aRead, translate s (tileVi s t) (some t) (o.ss1.toNat) aRead with
    | .ok (.pond _ pa), .ok (.pond _ pb) =>
      let ca := pondNum s t (pa + 2 * r + j) 1
      let cb := pondNum s t (pb + 2 * c + j) 1
      if ca = 255 ∨ cb = 255 then none else some ((ca : Int) - 127 + ((cb : Int) - 127))
    | _, _ => none

/-- Products of depth kk, scaled. -/
def mmaTerm (s : State) (t : Nat) (o : MatOp) (r c kk : Nat) : List ExF :=
  match mmaScale s t o r c (kk / 32) with
  | none => [(.fin false 0 1 0, 0)]
  | some e => (mmaProducts o.w (codeA s t o r kk) (codeB s t o kk c)).map fun p => (exScale e p.1, p.2)

/-- NV for signalling NaN operands of a depth step. -/
def mmaSnan (s : State) (t : Nat) (o : MatOp) (r c kk : Nat) : Nat :=
  Nat.lor (snanFlag (xETA o.w) (codeA s t o r kk)) (snanFlag (xETB o.w) (codeB s t o kk c))

/-- The new value of C[r][c] with its flags (04 R112, R113). -/
def mmaElem (s : State) (t : Nat) (o : MatOp) (r c : Nat) : Nat × Nat :=
  let old := accElem s t (xACD o.w) r c
  let k := dimK o.dims
  if xETA o.w = 8 then
    (upto k).foldl (fun acc kk =>
      let a := codeA s t o r kk
      let b := codeB s t o kk c
      let (x, f) := exFma 0 (decodeF .f64 a) (decodeF .f64 b) (decodeF .f64 acc.1)
      let n := narrow .f64 0 (xOvf o.w) 0 x
      (n.code, Nat.lor acc.2 (Nat.lor (mmaSnan s t o r c kk) (Nat.lor f n.flags)))) (old, 0)
  else
    let terms := (upto k).flatMap fun kk => mmaTerm s t o r c kk
    let sn := (upto k).foldl (fun f kk => Nat.lor f (mmaSnan s t o r c kk)) (snanFlag 9 old)
    let (x, f) := exSum (decodeF .f32 old :: terms.map Prod.fst)
    let n := narrow .f32 0 (xOvf o.w) 0 x
    (n.code, Nat.lor (terms.foldl (fun f p => Nat.lor f p.2) sn) (Nat.lor f n.flags))

/-- Rows × columns of a block. -/
def cells (m n : Nat) : List (Nat × Nat) := (upto m).flatMap fun r => (upto n).map fun c => (r, c)

/-- An MMA completes: every element is computed from the accumulator as it was. -/
def mmaDone (t : Nat) (o : MatOp) : M Unit := do
  let s ← cur
  let a := xACD o.w
  (cells (dimM o.dims) (dimN o.dims)).forM fun p =>
    emit (.acc t (accKey (accF64 s t a) a p.1 p.2) (BitVec.ofNat 64 (mmaElem s t o p.1 p.2).1))
  setFlags t ((cells (dimM o.dims) (dimN o.dims)).foldl (fun f p => Nat.lor f (mmaElem s t o p.1 p.2).2) 0)

/-- An MLD completes (04 R108, R110). -/
def mldDone (t : Nat) (o : MatOp) : M Unit := do
  let s ← cur
  let a := xACD o.w
  let f64 := xETA o.w == 8
  setTag t a f64 (accF64 s t a != f64)
  (cells (dimM o.dims) (dimN o.dims)).forM fun p =>
    emit (.acc t (accKey f64 a p.1 p.2)
      (BitVec.ofNat 64 (pondNum s t (o.a + p.1 * dimLDA o.dims + p.2 * etBytes (xETA o.w)) (etBytes (xETA o.w)))))

/-- An element of an MST: rounded once, after the exact product with the output scale (04 R109). -/
def mstElem (s : State) (t : Nat) (o : MatOp) (r c : Nat) : Nres :=
  let a := xACD o.w
  let et := if accF64 s t a then 8 else 9
  let x := accElem s t a r c
  let (v, f) := if xSC o.w then exMul (etVal et x) (decodeF .f32 (wf o.ss 31 0)) else (etVal et x, 0)
  let n := toTy (xETA o.w) (xRnd o.w) (xOvf o.w) 0 v
  let sf := Nat.lor (snanFlag et x) (if xSC o.w then snanFlag 9 (wf o.ss 31 0) else 0)
  { n with flags := Nat.lor n.flags (Nat.lor f sf) }

/-- An MST completes. -/
def mstDone (t : Nat) (o : MatOp) : M Unit := do
  let s ← cur
  (cells (dimM o.dims) (dimN o.dims)).forM fun p =>
    emit (.pond t (o.a + p.1 * dimLDA o.dims + p.2 * etBytes (xETA o.w))
      (bytesOf (etBytes (xETA o.w)) (mstElem s t o p.1 p.2).code))
  setFlags t ((cells (dimM o.dims) (dimN o.dims)).foldl (fun f p => Nat.lor f (mstElem s t o p.1 p.2).flags) 0)

/-- A matrix instruction completes. -/
def matDone (t : Nat) (o : MatOp) : M Unit :=
  if oOP o.w ≤ 0x93 then mmaDone t o else if oOP o.w = 0x95 then mldDone t o else mstDone t o

/-- The oldest matrix instruction of a tile completes (04 R103, R117). -/
def matStep (t : Nat) : M Unit := do
  let s ← cur
  match (tileOf s t).core.mat with
  | [] => pure ()
  | o :: l =>
    modCore t fun c => { c with mat := l }
    matDone t o

/-- The tile waits while a pending matrix instruction satisfies p: at most two are pending. -/
def matWait (t : Nat) (p : MatOp → Bool) : M Unit := do
  let s ← cur
  whenB ((tileOf s t).core.mat.any p) (matStep t)
  let s ← cur
  whenB ((tileOf s t).core.mat.any p) (matStep t)

/-- The matrix unit drains (04 R118). -/
def matDrain (t : Nat) : M Unit := matWait t fun _ => true

/-- Before a tile store to pond memory, and before a load from it (04 R117). -/
def waitStore (t : Nat) (l : List Pa) : M Unit := whenB (anyPond l) (matDrain t)
def waitLoad (t : Nat) (l : List Pa) : M Unit := whenB (anyPond l) (matWait t fun o => oOP o.w == 0x96)

/-- Before an instruction that reads or writes accumulator a (04 R117). -/
def waitAcc (t a : Nat) : M Unit := matWait t fun o => xACD o.w == a

/-- A load of bytes into a function of their values. -/
def tileLoad (t : Nat) (l : List Nat) (k : List Byte → M Unit) : M Unit :=
  tileAccess t aRead l fun ps => do
    waitLoad t ps
    let s ← cur
    k (ps.map (paByte s))

/-- A store of bytes. -/
def tileStore (t : Nat) (l : List (Nat × Byte)) (k : M Unit) : M Unit :=
  tileAccess t aWrite (l.map Prod.fst) fun ps => do
    waitStore t ps
    paWrite (ps.zip (l.map Prod.snd))
    k

end Sys2Proof.Machine
end

