-- ==== Sys2Proof/Machine/Flags.lean ====
section
/-! DEFINITION. Scalar results with their flags: the floating operations of 03 R80, R81 on F64 and F32 registers, and
the integer operations of R80, R81. -/
namespace Sys2Proof.Machine

/-- The Spring output for scalar stochastic rounding: stream 0, index SRBASE (03 R85, DEDUCED, log entry 22). -/
def scalarG (s : State) (t rnd : Nat) : Nat :=
  if rnd = 4 then spring (tileSeed s t) 0 (getCsr s t csrSRTID).toNat (getCsr s t csrSRBASE).toNat else 0

/-- A format's code in a scalar register (03 R80): an F32 occupies bits 31:0. -/
def fcode (f : Fmt) (v : W64) : Nat := v.toNat % 2 ^ f.width

/-- NV for signalling operands. -/
def snan1 (f : Fmt) (a : Nat) : Nat := b2n (isSNaN f a) * fNV
def snan2 (f : Fmt) (a b : Nat) : Nat := Nat.lor (snan1 f a) (snan1 f b)

/-- A floating result narrowed by RND and OVF, with its flags: those of the operation, of signalling operands and of
the narrowing (03 R71). -/
def fres (f : Fmt) (rnd ovf g sn : Nat) (x : ExF) : Nat × Nat :=
  let n := narrow f rnd ovf g x.1
  (n.code, Nat.lor sn (Nat.lor x.2 n.flags))

/-- FADD, FSUB, FMUL, FDIV, FMIN, FMAX on two codes. -/
def fbin (op : Nat → Ex → Ex → ExF) (f : Fmt) (rnd ovf g a b : Nat) : Nat × Nat :=
  fres f rnd ovf g (snan2 f a b) (op rnd (decodeF f a) (decodeF f b))

/-- A comparison of two codes: 0 where an operand is a NaN; its flags are those of signalling operands. -/
def fcmp (p : Ordering → Bool) (f : Fmt) (a b : Nat) : Nat × Nat :=
  (match exCmp (decodeF f a) (decodeF f b) with
   | some o => b2n (p o)
   | none => 0,
   snan2 f a b)

/-- Integer division truncated toward zero (03 R81). -/
def divS (a b : W64) : W64 :=
  if b = 0 then BitVec.allOnes 64 else w64I (Int.tdiv a.toInt b.toInt)
def remS (a b : W64) : W64 := if b = 0 then a else w64I (Int.tmod a.toInt b.toInt)
def divU (a b : W64) : W64 := if b = 0 then BitVec.allOnes 64 else BitVec.ofNat 64 (a.toNat / b.toNat)
def remU (a b : W64) : W64 := if b = 0 then a else BitVec.ofNat 64 (a.toNat % b.toNat)

/-- High 64 bits of a product. -/
def mulHS (a b : W64) : W64 := w64I (a.toInt * b.toInt / 2 ^ 64)
def mulHU (a b : W64) : W64 := BitVec.ofNat 64 (a.toNat * b.toNat / 2 ^ 64)

/-- 1 or 0. -/
def boolW (c : Bool) : W64 := if c then 1 else 0

/-- Signed less-than. -/
def ltS (a b : W64) : Bool := decide (a.toInt < b.toInt)
def ltU (a b : W64) : Bool := decide (a.toNat < b.toNat)

/-- Shifts by bits 5:0. -/
def shL (a b : W64) : W64 := a <<< (b.toNat % 64)
def shR (a b : W64) : W64 := a >>> (b.toNat % 64)
def saR (a b : W64) : W64 := w64I (a.toInt / 2 ^ (b.toNat % 64))

end Sys2Proof.Machine
end

