-- ==== Sys2Proof/Machine/System.lean ====
section
/-! DEFINITION. The meanings of the system instructions (03 R70, R77, R96, R100, 14 R416, R420, R424). -/
namespace Sys2Proof.Machine

/-- Numbers of the control and status registers that CSRR may name (03 R70). -/
def csrListed (n : Nat) : Bool :=
  n ≤ 3 || (0x10 ≤ n && n ≤ 0x15) || (0x20 ≤ n && n ≤ 0x24) || (0x30 ≤ n && n ≤ 0x32)

/-- Those of type RW. -/
def csrWritable (n : Nat) : Bool := n ≤ 3 || (0x10 ≤ n && n ≤ 0x15) || n == 0x20 || n == 0x21 || n == 0x24

/-- What a write stores (03 R70). -/
def csrStored (n : Nat) (v : W64) : W64 :=
  if n = csrVL then BitVec.ofNat 64 (min v.toNat 2048)
  else if n = csrTCTL then BitVec.ofNat 64 (v.toNat % 16)
  else if n = csrFFLAGS then BitVec.ofNat 64 (v.toNat % 128)
  else if 0x10 ≤ n ∧ n ≤ 0x13 then BitVec.ofNat 64 (v.toNat % 2 ^ 32)
  else if n = csrTVEC then BitVec.ofNat 64 (v.toNat / 8 * 8)
  else v

/-- A reserved code for QD or FXR (03 R70). -/
def tctlReserved (v : W64) : Bool := wf v 3 2 == 3 || wf v 1 0 == 3

/-- TILEID and VIID (03 R70). -/
def tileId (s : State) (t : Nat) : W64 :=
  let i := (posOf s t).getD 0
  BitVec.ofNat 64 (i / 12 * 256 + i % 12)
def viid (s : State) (t : Nat) : W64 :=
  BitVec.ofNat 64 (tileVi s t * 256 + (tileOf s t).core.inc.toNat)

/-- RESERVED_OPCODE: a word that is ILLEGAL by its encoding (03 R74). -/
def execReservedOpcode (t : TileNo) (w : W64) (s : State) : Host.Outcome State Fault Refusal :=
  act (issue t (!legalWord w) w (pure ())) s

/-- CSRR (03 R70, R100). A read of FFLAGS waits for the matrix unit (04 R115); CYCLE is a free value (DESIGN CHOICE, log entry 8). -/
def execCsrr (t : TileNo) (w : W64) (s : State) : Host.Outcome State Fault Refusal :=
  act (issue t (opIs 0x40 w) w do
    let n := wf w 11 0
    if !csrListed n then raise t xIllegal w
    else if n = 0x30 then do
      let c ← takeFree
      writeS t (oSD w) c
    else
      whenB (n == csrFFLAGS) (matDrain t)
      let s ← cur
      writeS t (oSD w) (if n = 0x31 then tileId s t else if n = 0x32 then viid s t else getCsr s t n)) s

/-- CSRW (03 R70, R100). -/
def execCsrw (t : TileNo) (w : W64) (s : State) : Host.Outcome State Fault Refusal :=
  act (issue t (opIs 0x41 w) w do
    let s ← cur
    let n := wf w 11 0
    let v := getS s t (oSA w)
    if !csrWritable n || (n == csrTCTL && tctlReserved v) then raise t xIllegal w
    else
      whenB (n == csrFFLAGS) (matDrain t)
      emit (.csr t n (csrStored n v))
      commit t) s

/-- FENCE (03 R100): every store of the tile is acknowledged when its instruction commits. -/
def execFence (t : TileNo) (w : W64) (s : State) : Host.Outcome State Fault Refusal :=
  act (issue t (opIs 0x42 w) w (commit t)) s

/-- TRAP (03 R94, R100): EADDR is IMM32, sign-extended as format I has it. -/
def execTrap (t : TileNo) (w : W64) (s : State) : Host.Outcome State Fault Refusal :=
  act (issue t (opIs 0x43 w) w (raise t xTrap (w64I (oImm w)))) s

/-- ERET (03 R96, R100). -/
def execEret (t : TileNo) (w : W64) (s : State) : Host.Outcome State Fault Refusal :=
  act (issue t (opIs 0x44 w) w do
    let s ← cur
    if (tileOf s t).core.ih then do
      eret t
      countEv 1 1 t (some (tileVi s t)) 1
    else raise t xIllegal w) s

/-- VSETVL (03 R77). -/
def execVsetvl (t : TileNo) (w : W64) (s : State) : Host.Outcome State Fault Refusal :=
  act (issue t (opIs 0x45 w) w do
    let s ← cur
    let n := BitVec.ofNat 64 (min (getS s t (oSA w)).toNat (vlmax (wf w 3 0)))
    emit (.csr t csrVL n)
    writeS t (oSD w) n) s

/-- VSETVL.FFR (03 R77): VL holds at most 2,048 (R70). -/
def execVsetvlFfr (t : TileNo) (w : W64) (s : State) : Host.Outcome State Fault Refusal :=
  act (issue t (opIs 0x46 w) w do
    let s ← cur
    let n := csrStored csrVL (getCsr s t csrFFR)
    emit (.csr t csrVL n)
    writeS t (oSD w) n) s

/-- Slot of a tile in its VI, for a record's SOURCE (14 R422). -/
def recSource (s : State) (t : Nat) : Nat := (tileSlot s (tileVi s t) t).getD 0

/-- The current phase of a tile closes and the given one opens (14 R420). The cycles of the closed phase are a free
value (DESIGN CHOICE, log entry 8). -/
def phaseTo (t p : Nat) : M Unit := do
  let s ← cur
  let v := tileVi s t
  let c := (tileOf s t).core
  whenB (flag s (F.TELEM_VI_REC_CTL_PHASEEN v) && recMode s v != 2) do
    let f ← takeFree
    recOrGap v recPhase (recSource s t) c.phaseStart (bytesOf 4 c.phase.toNat ++ bytesOf 4 (wf f 31 0))
  modCore t fun c => { c with phase := BitVec.ofNat 16 p, phaseStart := nowNs s }

/-- PHASE (14 R420). -/
def execPhase (t : TileNo) (w : W64) (s : State) : Host.Outcome State Fault Refusal :=
  act (issue t (opIs 0x47 w) w do
    phaseTo t (wf w 15 0)
    commit t) s

/-- SNAP (14 R416). -/
def execSnap (t : TileNo) (w : W64) (s : State) : Host.Outcome State Fault Refusal :=
  act (issue t (opIs 0x48 w) w do
    let s ← cur
    let v := tileVi s t
    commit t
    whenB (flag s (F.TELEM_VI_REC_CTL_SNAPEN v) && bit (getF s F.TELEM_SNAP_CTL_EN) 2) (trigger 4 (wf w 15 0) t v)) s

/-- TIME (03 R100, 14 R423, R424): in RECORD it stalls uncommitted while its record has no room. -/
def timeOf (t : Nat) (w : W64) : M Unit := do
  let s ← cur
  let v := tileVi s t
  let now := nowNs s
  if recMode s v = 2 ∧ flag s (F.TELEM_VI_REC_CTL_LIVETIME v) = false then do
    let r ← replayTime v (recSource s t)
    writeS t (oSD w) (BitVec.ofNat 64 (r.getD now))
  else if recMode s v = 1 then do
    let ok ← recTry v recTime (recSource s t) now (bytesOf 8 0)
    if ok then writeS t (oSD w) (BitVec.ofNat 64 now)
    else modCore t fun c => { c with state := .stall, stall := .record w }
  else writeS t (oSD w) (BitVec.ofNat 64 now)

/-- TIME. -/
def execTime (t : TileNo) (w : W64) (s : State) : Host.Outcome State Fault Refusal :=
  act (issue t (opIs 0x49 w) w (timeOf t w)) s

end Sys2Proof.Machine
end

