-- ==== Sys2Proof/Machine/EngineIssue.lean ====
section
/-! DEFINITION. Engine-issue instructions of DMA and signals (06 R170, R184-R189, 03 R98, R99), the commands that end
their waits, and the signal frames. -/
namespace Sys2Proof.Machine

/-! Statuses (03 R98). -/

/-- Accepted. -/
def issueOk (t : Nat) (w : W64) : M Unit := writeS t (oSD w) 0
/-- ALLOT. -/
def issueAllot (t : Nat) (w : W64) : M Unit := writeS t (oSD w) 1
/-- REFUSED with the engine's code. -/
def issueRefused (t : Nat) (w : W64) (code : Nat) : M Unit := writeS t (oSD w) (BitVec.ofNat 64 (2 + code * 2 ^ 16))
/-- The tile stalls with nothing committed (03 R99). -/
def issueStall (t : Nat) (w : W64) : M Unit := modCore t fun c => { c with state := .stall, stall := .engine w }

/-! DMA.PUT. -/

/-- The own-pond alias of a VA in the submitting tile's terms (05 R138). -/
def ownPond (s : State) (t va : Nat) : Nat :=
  if 0xFF0000000000 ≤ va ∧ va < 0xFF0000300000 then
    match tileSlot s (tileVi s t) t with
    | some j => 0xFE0000000000 + j * 0x400000 + (va - 0xFF0000000000)
    | none => va
  else va

/-- A descriptor with the alias resolved: a VA in the submitting VI is SRC, and DST of a local one. -/
def resolveAlias (s : State) (t : Nat) (l : List W64) : List W64 :=
  let l := l.set 0 (BitVec.ofNat 64 (ownPond s t (dSrc l)))
  if dLocal l then l.set 1 (BitVec.ofNat 64 (ownPond s t (dDst l))) else l

/-- Whether a VA run of a VI names the pond of a tile. -/
def namesPond (s : State) (v t va len : Nat) : Bool :=
  match tileSlot s v t with
  | some j =>
    decide (va < 0xFE0000000000 + j * 0x400000 + pondSize) && decide (0xFE0000000000 + j * 0x400000 < va + max 1 len)
  | none => false

/-- Whether a descriptor of a VI reads or writes the pond of a tile (13 R396). -/
def descUses (s : State) (v t : Nat) (l : List W64) : Bool :=
  let c := dCv s v l
  (!dSrcHm l && namesPond s v t (dSrc l) (srcLen c (dLen l))) ||
  (dLocal l && !dDstHm l && namesPond s v t (dDst l) (cvCount c (dLen l) * cvDst c))

/-- Whether a migration holds a new descriptor (13 R396). -/
def migHolds (s : State) (v : Nat) (l : List W64) : Bool :=
  match s.sys.faults.mig with
  | some m => tileVi s m.old == v && descUses s v m.old l
  | none => false

/-- Words of 64 bytes. -/
def wordsOf (l : List Byte) : List W64 := (chunks 8 l).map fun b => BitVec.ofNat 64 (ofBytes b)

/-- DMA.PUT (06 R170): the descriptor is read, checked, and accepted, refused, or the tile stalls. -/
def dmaPut (t : Nat) (w : W64) : M Unit := do
  let s ← cur
  let v := tileVi s t
  let a := (getS s t (oSA w)).toNat
  if a % 64 ≠ 0 then raise t xAlign (BitVec.ofNat 64 a)
  else
    tileAccess t aRead (addrs a 64) fun ps => do
      let s ← cur
      let l := wordsOf (ps.map (paByte s))
      let lq := (getS s t (oSB w)).toNat
      let q := qOf s v lq
      match dmaCheck s v false q.isSome l with
      | some code => issueRefused t w code
      | none =>
        if allotDesc s v ≤ viOut s v then issueAllot t w
        else
          match q with
          | none => issueRefused t w rQueue
          | some q =>
            if h : q < 1024 then
              let q' : QRef := .dma ⟨q, h⟩
              if 2 ^ getF s (F.DMA_Q_CFG_DEPTH q) ≤ qOut s q' ∨ migHolds s v (resolveAlias s t l) = true then
                issueStall t w
              else do
                let seq := smGet 0 s.sys.dma.seqs q
                modDma fun y => { y with seqs := smSet 0 y.seqs q ((seq + 1) % 2 ^ 32) }
                acceptDesc q' v seq (resolveAlias s t l)
                issueOk t w
            else issueRefused t w rQueue

/-- DMA.PUT. -/
def execDmaPut (t : TileNo) (w : W64) (s : State) : Host.Outcome State Fault Refusal :=
  act (issue t (opIs 0xB0 w) w (dmaPut t w)) s

/-! Signals. -/

/-- The counter in SA, or the refusal SIGNAL (06 R174). -/
def withCtr (t : Nat) (w : W64) (k : Nat → M Unit) : M Unit := do
  let s ← cur
  match ctrOf s (tileVi s t) (getS s t (oSA w)).toNat with
  | some c => k c
  | none => issueRefused t w rSignal

/-- A value in bits 31:0 of SB. -/
def sigVal (s : State) (t : Nat) (w : W64) : Nat := wf (getS s t (oSB w)) 31 0

/-- SIG.ADD of a value; 0 changes nothing (06 R186). -/
def sigAdd (t : Nat) (w : W64) : M Unit := withCtr t w fun c => do
  let s ← cur
  whenB (sigVal s t w != 0) (ctrAdd c (sigVal s t w))
  issueOk t w

/-- SIG.SUB. -/
def sigSub (t : Nat) (w : W64) : M Unit := withCtr t w fun c => do
  let s ← cur
  ctrSub c (sigVal s t w)
  issueOk t w

/-- SIG.SET. -/
def sigSet (t : Nat) (w : W64) : M Unit := withCtr t w fun c => do
  let s ← cur
  ctrSet c (sigVal s t w)
  issueOk t w

/-- SIG.READ: the counter into the register of SB, then the status into SD. -/
def sigRead (t : Nat) (w : W64) : M Unit := withCtr t w fun c => do
  let s ← cur
  emit (.sreg t (oSB w) (BitVec.ofNat 64 (ctrWord s c)))
  issueOk t w

/-- A SIGNAL frame (11 R321). -/
def sendSignal (v inc dev dvi dinc ctr : Nat) (fence : Bool) (amount : W32) : M Unit := do
  let s ← cur
  send (.send 0 (mkHdr s 2 dev dvi dinc v inc 0
    (BitVec.ofNat 64 (ctr % 2 ^ 15 + b2n fence * 2 ^ 15 + amount.toNat * 2 ^ 16)) 0) [])

/-- Descriptors of a VI outstanding to a device (06 R187). -/
def devDescs (s : State) (v dev : Nat) : List (QRef × Nat) :=
  (s.sys.dma.descs.filter fun d =>
    d.vi == v && (if dLocal d.words then selfDev s else dDev d.words) == dev).map fun d => (d.q, d.seq)

/-- SIG.REMOTE (06 R187). -/
def sigRemote (t : Nat) (w : W64) : M Unit := do
  let s ← cur
  let v := tileVi s t
  let r := getS s t (oSC w)
  let dev := wf r 14 0
  let dvi := wf r 18 15
  let dinc := wf r 26 19
  let ctr := wf (getS s t (oSA w)) 14 0
  let amount := BitVec.ofNat 32 (sigVal s t w)
  let fence := bit (oImm16 w) 0
  if !reachable s dev 0 || (dev == selfDev s && !viPresent s dvi) then issueRefused t w rRoute
  else
    (if fence && !(devDescs s v dev).isEmpty then
      modDma fun y =>
        { y with
          heldSigs := y.heldSigs ++ [{ id := y.nextHeld, vi := v, inc := viInc s v, dev, dvi, dinc, ctr, amount,
                                       waits := devDescs s v dev }]
          nextHeld := y.nextHeld + 1 }
     else sendSignal v (viInc s v) dev dvi dinc ctr fence amount)
    issueOk t w

/-- SIG_REMOTE_RELEASE (06 R187): once no descriptor that it waits for is outstanding. -/
def execSigRemoteRelease (v : ViNo) (held : Nat) (s : State) : Host.Outcome State Fault Refusal :=
  act (do
    let s ← cur
    match s.sys.dma.heldSigs.find? fun h => h.vi == v.val && h.id == held with
    | none => pure ()
    | some h =>
      whenB (enginesRun s && h.waits.all fun p => (findDesc s p.1 p.2).isNone) do
        modDma fun y => { y with heldSigs := y.heldSigs.filter fun x => x.id != h.id }
        sendSignal h.vi h.inc h.dev h.dvi h.dinc h.ctr true h.amount) s

def execSigAdd (t : TileNo) (w : W64) (s : State) : Host.Outcome State Fault Refusal :=
  act (issue t (opIs 0xB1 w) w (sigAdd t w)) s
def execSigSub (t : TileNo) (w : W64) (s : State) : Host.Outcome State Fault Refusal :=
  act (issue t (opIs 0xB2 w) w (sigSub t w)) s
def execSigSet (t : TileNo) (w : W64) (s : State) : Host.Outcome State Fault Refusal :=
  act (issue t (opIs 0xB3 w) w (sigSet t w)) s
def execSigRead (t : TileNo) (w : W64) (s : State) : Host.Outcome State Fault Refusal :=
  act (issue t (opIs 0xB4 w) w (sigRead t w)) s
def execSigRemote (t : TileNo) (w : W64) (s : State) : Host.Outcome State Fault Refusal :=
  act (issue t (opIs 0xB5 w) w (sigRemote t w)) s

/-- SIGNAL (06 R186, R179): an arriving signal adds to its counter, or is dropped, counted and answered. -/
def execSignal (a : Addr) (ctr : BitVec 15) (_fence : Bool) (amount : W32) (s : State) :
    Host.Outcome State Fault Refusal :=
  act (inbound a [0] do
    let s ← cur
    match (if destOk s a then ctrOf s a.dvi ctr.toNat else none) with
    | some c => ctrAdd c amount.toNat
    | none => do
      dropFor a.dvi
      send (.send 0 (mkHdr s 8 a.sdev a.svi a.sinc a.dvi a.dinc 0
        (BitVec.ofNat 64 (ctr.toNat + amount.toNat * 2 ^ 16)) 0) [])) s

/-- SIG_NACK (06 R186): of the current incarnation only. -/
def execSigNack (a : Addr) (_ctr : BitVec 15) (_amount : W32) (s : State) : Host.Outcome State Fault Refusal :=
  act (inbound a [0] do
    let s ← cur
    whenB (destOk s a) (addSat (F.SIG_VI_STAT_NACK a.dvi) 1)) s

/-- SIG_CTR_WRITE (06 R195): a write of SIG_CTR sets VALUE and clears OVF and UNF; DRIFT clears by writing 1. -/
def sigCtrWrite (c : Nat) (val : W64) : M Unit := do
  ctrSet c (wf val 31 0)
  whenB (bit val.toNat 34) (putF (F.SIG_CTR_DRIFT c) 0)

/-- SIG_CTR_WRITE. -/
def execSigCtrWrite (c : CtrNo) (val : W64) (s : State) : Host.Outcome State Fault Refusal :=
  act (do
    let s ← cur
    whenB (live s) (sigCtrWrite c.val val)) s

/-! WAIT (06 R188). -/

/-- The test of a WAIT: the status it completes with. -/
def waitTest (s : State) (c thr : Nat) : Option Nat :=
  if flag s (F.SIG_CTR_OVF c) || flag s (F.SIG_CTR_UNF c) then some 4
  else if thr ≤ ctrVal s c then some 0 else none

/-- Completion of a WAIT with its status: the threshold is consumed with OK. -/
def waitEnd (t sd c thr : Nat) (consume : Bool) (st : Nat) : M Unit := do
  let s ← cur
  whenB (consume && st == 0) do
    putF (F.SIG_CTR_VALUE c) (ctrVal s c - thr)
    ctrChanged c
  modDma fun y => { y with waiters := y.waiters.filter fun p => p.2 != t }
  countEv 0x0C (if st = 3 then 3 else 2) (c / 16384) (some (tileVi s t)) 1
  writeS t sd (BitVec.ofNat 64 st)

/-- WAIT: it completes, or the tile sleeps with nothing committed. -/
def waitOp (t : Nat) (w : W64) : M Unit := withCtr t w fun c => do
  let s ← cur
  let thr := sigVal s t w
  let consume := bit (oImm16 w) 0
  match waitTest s c thr with
  | some st => waitEnd t (oSD w) c thr consume st
  | none => do
    modDma fun y => { y with waiters := y.waiters ++ [(c, t)] }
    modCore t fun x =>
      { x with state := .stall, stall := .wait c thr consume (nowNs s) (getS s t (oSC w)).toNat (oSD w) }

/-- WAIT. -/
def execWait (t : TileNo) (w : W64) (s : State) : Host.Outcome State Fault Refusal :=
  act (issue t (opIs 0xB6 w) w (waitOp t w)) s

/-- A sleeping WAIT is tested again. -/
def waitAgain (t : Nat) : M Unit := do
  let s ← cur
  match (tileOf s t).core.state, (tileOf s t).core.stall with
  | .stall, .wait c thr consume _ _ sd =>
    match waitTest s c thr with
    | some st => waitEnd t sd c thr consume st
    | none => pure ()
  | _, _ => pure ()

/-- WAIT_WAKE (06 R188): the sleepers of a counter in arrival order, each CONSUME before the next test. -/
def execWaitWake (c : CtrNo) (s : State) : Host.Outcome State Fault Refusal :=
  act (do
    let s ← cur
    whenB (enginesRun s && !s.sys.power.critHold)
      ((s.sys.dma.waiters.filter fun p => p.1 == c.val).forM fun p => waitAgain p.2)) s

/-- WAIT_TIMEOUT (06 R188): a WAIT with a timeout completes with TIMEOUT when its test does not. -/
def execWaitTimeout (t : TileNo) (s : State) : Host.Outcome State Fault Refusal :=
  act (do
    let s ← cur
    match (tileOf s t).core.state, (tileOf s t).core.stall with
    | .stall, .wait c thr consume _ timeout sd =>
      whenB (enginesRun s && !s.sys.power.critHold && timeout != 0)
        (waitEnd t sd c thr consume ((waitTest s c thr).getD 3))
    | _, _ => pure ()) s

end Sys2Proof.Machine
end

