-- ==== Sys2Proof/Machine/Group.lean ====
section
/-! DEFINITION. Group contexts (07 R196-R208, R228): creation, closing, exclusion and rejoining, and the states of R203. -/
namespace Sys2Proof.Machine

/-! Names. -/

def stFree : Nat := 0
def stJoining : Nat := 1
def stActive : Nat := 2
def stSuspended : Nat := 3
def stClosing : Nat := 4
def stFailed : Nat := 5

/-- Refusals of 07 R204. -/
def gcConfig : Nat := 1
def gcTable : Nat := 2
def gcRoute : Nat := 3
def gcMismatch : Nat := 4
def gcFeature : Nat := 5
def gcPlacement : Nat := 6
def gcTimeout : Nat := 7

/-- End codes of 07 R217. -/
def geXlate : Nat := 1
def geExcluded : Nat := 2
def geMismatch : Nat := 3
def geGrid : Nat := 5

def grpState (s : State) (g : Nat) : Nat := getF s (F.COL_GRP_CTL_STATE g)
def setState (g st : Nat) : M Unit := putF (F.COL_GRP_CTL_STATE g) st

/-- MODE: 0 ledger, 1 deep, 2 canonical. -/
def grpMode (s : State) (g : Nat) : Nat := getF s (F.COL_GRP_CFG_MODE g)
def grpWidth (s : State) (g : Nat) : Nat := getF s (F.COL_GRP_CFG_WIDTH g)
def grpCut (s : State) (g : Nat) : Nat := getF s (F.COL_GRP_CFG_CUT g)
def grpFeat (s : State) (g : Nat) : Nat := getF s (F.COL_GRP_CFG_FEAT g)

/-- The rank that acts for rank 0 (07 R228). -/
def coordinator (s : State) (g : Nat) : Nat :=
  ((upto (grpN s g)).find? fun r => !(grpSt s g).excluded.contains r).getD 0

/-- The context of a VI with a GID that is not FREE. -/
def ctxOf (s : State) (v gid : Nat) : Option Nat :=
  (viGrps s v).find? fun g => grpState s g != stFree && grpGid s g == gid

/-- Live generations and barriers (07 R236). -/
def liveGens (l : List Gen) : List Gen := l.filter fun x => x.state != .done
def liveCount (s : State) (g : Nat) : Nat := (liveGens (grpSt s g).gens).length

/-- A generation by its number. -/
def findGen (s : State) (g gen : Nat) : Option Gen := (grpSt s g).gens.find? fun x => !x.barrier && x.num == gen
def putGen (g : Nat) (x : Gen) : M Unit :=
  modGrp g fun y => { y with gens := y.gens.map fun z => if !z.barrier && z.num == x.num then x else z }

/-- A control message that reaches a context of a current incarnation (01 R17, 07 R207). -/
def colCtl (a : Addr) (gid : W32) (k : Nat → M Unit) : M Unit := inbound a [0] do
  let s ← cur
  if destOk s a then
    match ctxOf s a.dvi gid.toNat with
    | some g => k g
    | none => pure ()
  else pure ()

/-! A generation ends (07 R216, R217). -/

/-- Its Tarn blocks and deep slots on this device, with their Mere buffers (08 R245). -/
def tarnFree (g gen : Nat) (keep : TWin → Bool) : M Unit := do
  let s ← cur
  let gone := s.sys.tarn.units.flatMap fun p => p.2.blocks.filter fun b => b.ctx == g && b.gen == gen && !keep b
  mereDrop (gone.flatMap fun b => b.mere)
  modSys fun y =>
    { y with tarn := { y.tarn with units := y.tarn.units.filterMap fun p =>
        let u : TUnit :=
          { p.2 with blocks := p.2.blocks.filter fun b => !(b.ctx == g && b.gen == gen && !keep b)
                     deepSlots := p.2.deepSlots.filter fun d => !(d.1 == g && d.2.1 == gen) }
        if u = {} then none else some (p.1, u) } }

/-- The header that names the landing of a generation, for its waiting cells. -/
def genHdr (s : State) (g gen chunk : Nat) : Hdr :=
  mkHdr s 3 (selfDev s) 0 0 0 0 0 (BitVec.ofNat 64 (g + gen * 2 ^ 32)) (BitVec.ofNat 64 chunk)
def genHdrOf (g gen : Nat) (h : Hdr) : Bool := h.kind == 3 && h.k0 == BitVec.ofNat 64 (g + gen * 2 ^ 32)

/-- Accesses of a generation no longer wait. -/
def genUnpark (v g gen : Nat) : M Unit :=
  let mine := fun (p : Parked) => match p.who with
    | .col a b _ => a == g && b == gen
    | .recvCol a b _ => a == g && b == gen
    | _ => false
  modMmu v fun m =>
    { m with recs := m.recs.map fun r => { r with parked := r.parked.filter fun p => !mine p }
             waiting := m.waiting.filter fun p => !mine p }

/-- What a generation holds is freed: spill, cells, windows, parked accesses. -/
def genFree (g : Nat) (x : Gen) : M Unit := do
  let s ← cur
  mereDrop x.mere
  dropCells (genHdrOf g x.num)
  genUnpark (grpVi s g) g x.num
  tarnFree g x.num fun _ => false

/-- A generation has failed with a code: its status record and GSIG are still to come. One whose part is committed
keeps its state (07 R212). -/
def genFail (g code : Nat) (x : Gen) : M Unit :=
  if x.barrier || x.state == .done || x.state == .committed || x.state == .ended then pure ()
  else do
    let s ← cur
    genFree g x
    putGen g { x with state := .ended, code, spill := [], mere := [], held := [] }
    whenB (x.op == 0xB8 && wf (dWord x.words 3) 15 13 == 3)
      (modGrp g fun y => { y with grids := y.grids ++ [(x.num, none)] })
    addSat (F.COL_GRP_STAT_ABORTS g) 1
    countEv 4 2 (dieOfGrp g) (grpOwner s g) 1

/-- CLOSING with no live generation gives FREE (07 R203). -/
def closeCheck (g : Nat) : M Unit := do
  let s ← cur
  whenB (grpState s g == stClosing && liveCount s g == 0) do
    setState g stFree
    setGrp g {}

/-- A barrier that is due takes a free slot (06 R190). -/
def placeBarrier (g : Nat) : M Unit := do
  let s ← cur
  let x := grpSt s g
  whenB (x.barrierDue && decide (liveCount s g < 16))
    (setGrp g { x with gens := x.gens ++ [{ num := getF s (F.COL_GRP_GEN_NEXT g), barrier := true }]
                       barrierDue := false })

/-! Creation (07 R202). -/

/-- The configuration is out of range (07 R197-R200, R202 step 1). -/
def cfgBad (s : State) (g : Nat) : Bool :=
  let n := grpN s g
  4 < grpCut s g ||
  !((grpMode s g ≤ 1 && grpWidth s g ≤ 1) || (grpMode s g == 2 && grpWidth s g ≤ 2)) ||
  n == 0 || 32768 < n || n ≤ grpRank s g || getF s (F.COL_GRP_CFG_WEIGHT g) == 0 ||
  getF s (F.COL_GRP_CFG_REALIGN g) < 4 || 14 < getF s (F.COL_GRP_CFG_REALIGN g) ||
  getF s (F.COL_GRP_CFG_STALL g) == 0 || 1000 < getF s (F.COL_GRP_CFG_STALL g) || 1024 ≤ grpFeat s g ||
  (grpCut s g == 2 && (getF s (F.COL_GRP_SEQ_SEQPOS g) == 0 || 2 ^ 24 < n * getF s (F.COL_GRP_SEQ_SEQPOS g)))

/-- The member table, or none where it is invalid (07 R201). -/
def readTable (s : State) (v g : Nat) : Option (List W64) :=
  let ipa := getF s (F.COL_GRP_MEMB_TBL g) * 4096
  let n := grpN s g
  if allotHbm s v < ipa + 8 * n then none
  else
    let l := (chunks 8 (ipaRead s v ipa (8 * n))).map fun b => BitVec.ofNat 64 (ofBytes b)
    if l.all (fun w => wf w 63 27 == 0) && distinctB (l.map fun w => wf w 18 0) then some l else none

/-- Another context holds the group: the same GID and rank 0, in the same VI or under the same rank (07 R196, R202,
DEDUCED, log entry 35). -/
def gidTaken (s : State) (v g : Nat) (tbl : List W64) : Bool :=
  s.sys.col.grps.any fun p =>
    p.1 != g && (grpState s p.1 == stJoining || grpState s p.1 == stActive || grpState s p.1 == stSuspended ||
      grpState s p.1 == stClosing) &&
    grpGid s p.1 == grpGid s g &&
    (p.2.members.headD 0).toNat % 2 ^ 19 == (tbl.headD 0).toNat % 2 ^ 19 &&
    (grpOwner s p.1 == some v || grpRank s p.1 == grpRank s g)

/-- A device of the table is absent from the map. -/
def tableAbsent (s : State) (tbl : List W64) : Bool :=
  match s.sys.topo.active with
  | some img => !tbl.all fun w => imgPresent img (membDev w)
  | none => true

/-- Sites of a table. -/
def tableSites (s : State) (tbl : List W64) : List Nat :=
  match s.sys.topo.active with
  | some img => (tbl.map fun w => siteOf img (membDev w)).foldl (fun l x => if l.contains x then l else l ++ [x]) []
  | none => []

/-- Features that MODE, WIDTH and the span imply (07 R200). -/
def impliedFeat (s : State) (g : Nat) (tbl : List W64) : Nat :=
  Nat.lor (match grpMode s g, grpWidth s g with
    | 0, 1 => 1
    | 1, 0 => 2
    | 1, _ => 4
    | 2, _ => 8
    | _, _ => 0) (if 1 < (tableSites s tbl).length then 2 ^ 9 else 0)

/-- The placement rules (07 R206). -/
def placementOk (s : State) (g : Nat) (tbl : List W64) : Bool :=
  match grpCut s g with
  | 0 => decide (tbl.length ≤ 32) && tbl.all fun w => podOf (membDev w) == podOf (membDev (tbl.headD 0))
  | 1 => decide ((tableSites s tbl).length ≤ 1)
  | 2 => decide ((tableSites s tbl).length ≤ 1)
  | _ => true

/-- The CRC of a JOIN over configuration and table (07 R202, byte layout: DESIGN CHOICE, log entry 36). -/
def groupCrc (s : State) (g : Nat) (tbl : List W64) : Nat :=
  crc32c (bytesOf 4 (grpGid s g) ++ bytesOf 4 (grpN s g) ++ bytesOf 1 (grpCut s g) ++ bytesOf 1 (grpMode s g) ++
    bytesOf 1 (grpWidth s g) ++ bytesOf 1 (getF s (F.COL_GRP_CFG_WEIGHT g)) ++
    bytesOf 1 (getF s (F.COL_GRP_CFG_REALIGN g)) ++ bytesOf 2 (getF s (F.COL_GRP_CFG_STALL g)) ++
    bytesOf 2 (grpFeat s g) ++ bytesOf 8 (getR s (R.COL_GRP_SEED0 g)) ++ bytesOf 8 (getR s (R.COL_GRP_SEED1 g)) ++
    bytesOf 4 (getF s (F.COL_GRP_SEQ_SEQPOS g)) ++ wordBytes tbl)

/-- The context fails with a code (07 R203, R204). -/
def grpFailed (g code : Nat) : M Unit := do
  setState g stFailed
  putF (F.COL_GRP_STAT_CODE g) code

/-- Step 1 of 07 R202: the first failure, or the table. -/
def createCheck (s : State) (v g : Nat) : Nat × List W64 :=
  if cfgBad s g then (gcConfig, [])
  else
    match readTable s v g with
    | none => (gcTable, [])
    | some tbl =>
      if gidTaken s v g tbl then (gcConfig, []) else if tableAbsent s tbl then (gcRoute, []) else (0, tbl)

/-- Join timeout in ns (07 R202). -/
def joinTmo (s : State) : Nat := max 1 (getF s F.COL_JOIN_TMO_MS) * msNs

/-- JOIN to a member: capabilities and CRC in its payload (DESIGN CHOICE, log entry 37). -/
def sendJoin (g : Nat) (dest : W64) : M Unit := do
  let s ← cur
  colMsg g dest 0 msgJoin (grpRank s g) 0
    (bytesOf 2 Config.capabilities ++ bytesOf 4 (groupCrc s g (grpSt s g).members))

/-- A context becomes ACTIVE. -/
def activate (g next : Nat) : M Unit := do
  putF (F.COL_GRP_GEN_NEXT g) next
  setState g stActive

/-- Rank 0 holds every JOIN: ACCEPT or REFUSE to every member (07 R202 steps 3 and 4). -/
def joinDecide (g : Nat) : M Unit := do
  let s ← cur
  let x := grpSt s g
  whenB (grpState s g == stJoining && x.joins.length == grpN s g) do
    let caps := x.joins.foldl (fun c j => Nat.land c j.caps) (2 ^ 16 - 1)
    let code :=
      if !x.joins.all (fun j => j.crc == groupCrc s g x.members) then gcMismatch
      else if Nat.land (grpFeat s g) caps != grpFeat s g then gcFeature
      else if !placementOk s g x.members then gcPlacement else 0
    if code = 0 then do
      colMsgAll g 0 msgAccept (grpRank s g) 0 []
      activate g 0
    else
      colMsgAll g 0 msgRefuse (grpRank s g) code []
      grpFailed g code

/-- A JOIN of a rank, once. -/
def addJoin (g : Nat) (j : Join) : M Unit := do
  modGrp g fun x => if x.joins.any fun i => i.rank == j.rank then x else { x with joins := x.joins ++ [j] }
  joinDecide g

/-- This member's own JOIN. -/
def ownJoin (s : State) (g : Nat) : Join :=
  { rank := grpRank s g, sdev := selfDev s, svi := grpVi s g, sinc := viInc s (grpVi s g), caps := Config.capabilities % 2 ^ 16,
    crc := groupCrc s g (grpSt s g).members }

/-- JOINs held for a rank 0 context (07 R202). -/
def takeOrphans (v g : Nat) : M Unit := do
  let s ← cur
  let mine := fun (o : OrphanJoin) => o.dvi == v && o.gid == grpGid s g
  (s.sys.col.orphans.filter fun o => mine o && decide (nowNs s ≤ o.at_ + joinTmo s)).forM fun o => addJoin g o.join
  modSys fun y => { y with col := { y.col with orphans := y.col.orphans.filter fun o => !mine o } }

/-- CREATE and REJOIN (07 R202, R228). -/
def grpCreate (g : Nat) (rejoin : Bool) : M Unit := do
  let s ← cur
  match grpOwner s g with
  | none => pure ()
  | some v =>
    if !enginesRun s || grpState s g != stFree then pure ()
    else
      setGrp g {}
      putF (F.COL_GRP_STAT_REPLAYS g) 0
      putF (F.COL_GRP_STAT_CODE g) 0
      putR (R.COL_GRP_G g) 0
      let s ← cur
      let r := createCheck s v g
      if r.1 ≠ 0 then grpFailed g r.1
      else
        putF (F.COL_GRP_CFG_FEAT g) (Nat.lor (grpFeat s g) (impliedFeat s g r.2))
        setGrp g { members := r.2, since := nowNs s, rejoin }
        setState g stJoining
        let s ← cur
        if rejoin then (otherMembers s g).forM fun p => sendJoin g p.2
        else if grpRank s g = 0 then do
          addJoin g (ownJoin s g)
          takeOrphans v g
        else sendJoin g (r.2.headD 0)

/-- CREATE. -/
def execCreate (g : GrpNo) (s : State) : Host.Outcome State Fault Refusal := act (grpCreate g.val false) s
/-- REJOIN. -/
def execRejoin (g : GrpNo) (s : State) : Host.Outcome State Fault Refusal := act (grpCreate g.val true) s

/-- A rejoining rank at the coordinator (07 R228 steps 4 and 5). -/
def rejoinCheck (g : Nat) (a : Addr) (j : Join) : M Unit := do
  let s ← cur
  let x := grpSt s g
  let w : W64 := BitVec.ofNat 64 (a.sdev % 2 ^ 15 + a.svi % 16 * 2 ^ 15 + a.sinc % 256 * 2 ^ 19)
  let tbl := x.members.set j.rank w
  if !x.excluded.contains j.rank || j.crc != groupCrc s g tbl then
    colMsg g w 0 msgRefuse (grpRank s g) gcMismatch []
  else if Nat.land (grpFeat s g) j.caps != grpFeat s g then colMsg g w 0 msgRefuse (grpRank s g) gcFeature []
  else
    setGrp g { x with members := tbl, excluded := x.excluded.filter fun r => r != j.rank }
    let next := getF s (F.COL_GRP_GEN_NEXT g)
    colMsgAll g next msgAccept j.rank 0 (bytesOf 8 w.toNat)
    whenB ((x.excluded.filter fun r => r != j.rank).isEmpty && grpState s g == stSuspended && !x.placement)
      (setState g stActive)

/-- JOIN (07 R202, R228). -/
def execJoin (a : Addr) (gid : W32) (rank : Nat) (caps : BitVec 16) (crc : W32) (s : State) :
    Host.Outcome State Fault Refusal :=
  act (inbound a [0] do
    let s ← cur
    let j : Join := { rank, sdev := a.sdev, svi := a.svi, sinc := a.sinc, caps := caps.toNat, crc := crc.toNat }
    if destOk s a then
      match ctxOf s a.dvi gid.toNat with
      | none => modSys fun y =>
          { y with col := { y.col with orphans :=
              y.col.orphans ++ [{ gid := gid.toNat, dvi := a.dvi, join := j, at_ := nowNs s }] } }
      | some g =>
        if coordinator s g ≠ grpRank s g then pure ()
        else if grpState s g = stJoining ∧ (grpSt s g).rejoin = false then
          whenB (decide (rank < grpN s g)) (addJoin g j)
        else whenB (grpState s g == stActive || grpState s g == stSuspended) (rejoinCheck g a j)
    else pure ()) s

/-- ACCEPT (07 R202, R228). -/
def execAccept (a : Addr) (gid : W32) (next : W32) (rejoined : Option MemberEntry) (s : State) :
    Host.Outcome State Fault Refusal :=
  act (colCtl a gid fun g => do
    let s ← cur
    if grpState s g = stJoining then activate g next.toNat
    else
      match rejoined with
      | none => pure ()
      | some m =>
        whenB (grpState s g == stActive || grpState s g == stSuspended) do
          let x := grpSt s g
          let ex := x.excluded.filter fun r => r != m.rank
          setGrp g { x with members := x.members.set m.rank m.word, excluded := ex }
          whenB (ex.isEmpty && !x.placement) (setState g stActive)) s

/-- REFUSE (07 R202). -/
def execRefuse (a : Addr) (gid : W32) (code : Byte) (s : State) : Host.Outcome State Fault Refusal :=
  act (colCtl a gid fun g => do
    let s ← cur
    whenB (grpState s g == stJoining) (grpFailed g code.toNat)) s

/-- JOIN_TIMEOUT (07 R202): rank 0 refuses the group. -/
def execJoinTimeout (g : GrpNo) (s : State) : Host.Outcome State Fault Refusal :=
  act (do
    let s ← cur
    whenB (enginesRun s && grpState s g == stJoining && grpRank s g == 0 && !(grpSt s g).rejoin) do
      colMsgAll g 0 msgRefuse (grpRank s g) gcTimeout []
      grpFailed g gcTimeout) s

/-- JOIN_WAIT_TIMEOUT (07 R202): a member that has heard no answer fails on its own. -/
def execJoinWaitTimeout (g : GrpNo) (s : State) : Host.Outcome State Fault Refusal :=
  act (do
    let s ← cur
    whenB (enginesRun s && grpState s g == stJoining) (grpFailed g gcTimeout)) s

/-! Closing (07 R205). -/

/-- CLOSE: of a FAILED context it frees; in JOINING, ACTIVE and SUSPENDED it sends LEAVE and enters CLOSING. -/
def grpClose (g : Nat) : M Unit := do
  let s ← cur
  if !enginesRun s then pure ()
  else if grpState s g = stFailed then do
    setState g stFree
    setGrp g {}
  else whenB (grpState s g == stJoining || grpState s g == stActive || grpState s g == stSuspended) do
    colMsgAll g (getF s (F.COL_GRP_GEN_NEXT g)) msgLeave (grpRank s g) 0 []
    setState g stClosing
    closeCheck g

/-- CLOSE. -/
def execClose (g : GrpNo) (s : State) : Host.Outcome State Fault Refusal := act (grpClose g.val) s

/-- LEAVE (07 R205). -/
def execLeave (a : Addr) (gid : W32) (s : State) : Host.Outcome State Fault Refusal :=
  act (colCtl a gid fun g => do
    let s ← cur
    whenB (grpState s g == stJoining || grpState s g == stActive || grpState s g == stSuspended) do
      setState g stClosing
      closeCheck g) s

/-! Exclusion (07 R228). -/

/-- A rank is excluded: the open generations end, and the group is suspended. -/
def excludeRank (g rank : Nat) : M Unit := do
  let s ← cur
  whenB (grpState s g == stActive || grpState s g == stSuspended || grpState s g == stClosing) do
    modGrp g fun x => { x with excluded := if x.excluded.contains rank then x.excluded else x.excluded ++ [rank] }
    putF (F.COL_GRP_STAT_EXCL g) 1
    putF (F.COL_GRP_STAT_EXRANK g) rank
    (grpSt s g).gens.forM fun x => genFail g geExcluded x
    whenB (grpState s g == stActive) (setState g stSuspended)

/-- Sixteen aborts in succession without a commit (13 R387). -/
def abortLimit : Nat := 16

/-- EXCLUDE (07 R228). A member that is itself excluded at the replay limit is faulted (13 R387, DEDUCED, log entry 38). -/
def execExclude (a : Addr) (gid : W32) (rank : Nat) (s : State) : Host.Outcome State Fault Refusal :=
  act (colCtl a gid fun g => do
    let s ← cur
    let limit := (grpSt s g).gens.any fun x => abortLimit ≤ x.aborters.length
    excludeRank g rank
    whenB (rank == grpRank s g && limit)
      (viFault (grpVi s g) causeReplayLimit 4 g (BitVec.ofNat 64 (grpGid s g)))) s

/-! Launch tokens (07 R215). -/

/-- GROUP_TOKEN_REFILL. -/
def execGroupTokenRefill (g : GrpNo) (s : State) : Host.Outcome State Fault Refusal :=
  act (do
    let s ← cur
    whenB (enginesRun s && decide ((grpSt s g).tokens < 16)) (modGrp g fun x => { x with tokens := x.tokens + 1 })) s

/-- DEVICE_TOKEN_REFILL. -/
def execDeviceTokenRefill (s : State) : Host.Outcome State Fault Refusal :=
  act (do
    let s ← cur
    whenB (enginesRun s && decide (s.sys.col.devTokens < 64))
      (modSys fun y => { y with col := { y.col with devTokens := y.col.devTokens + 1 } })) s

end Sys2Proof.Machine
end

