-- ==== Sys2Proof/Machine/CollIssue.lean ====
section
/-! DEFINITION. The collective instructions (07 R209, R211, R219-R225, R229): checks, acceptance and the barrier of 06
R190. -/
namespace Sys2Proof.Machine

/-! The collective descriptor (07 R222). -/

def cSrc (l : List W64) : Nat := wf (dWord l 0) 47 0
def cDst (l : List W64) : Nat := wf (dWord l 1) 47 0
def cCount (l : List W64) : Nat := wf (dWord l 2) 39 0
def cSet (l : List W64) : Nat := wf (dWord l 3) 3 0
def cDet (l : List W64) : Nat := wf (dWord l 3) 7 4
def cRnd (l : List W64) : Nat := wf (dWord l 3) 10 8
def cOvf (l : List W64) : Nat := wf (dWord l 3) 12 11
def cRop (l : List W64) : Nat := wf (dWord l 3) 15 13
def cGmode (l : List W64) : Bool := bit (dWord l 3).toNat 16
def cG (l : List W64) : Nat := wf (dWord l 3) 28 17
def cLand (l : List W64) : Bool := bit (dWord l 3).toNat 29
def cScl (l : List W64) : Bool := bit (dWord l 3).toNat 30
def cEsc (l : List W64) : Bool := bit (dWord l 3).toNat 31
def cScale (l : List W64) : Nat := wf (dWord l 3) 63 32
def cSrtid (l : List W64) : Nat := (dWord l 4).toNat
def cStat (l : List W64) : Nat := wf (dWord l 5) 47 0
def cArg (l : List W64) : Nat := wf (dWord l 5) 63 48
def cCsig (l : List W64) : Nat := wf (dWord l 6) 14 0
def cCsigEn (l : List W64) : Bool := bit (dWord l 6).toNat 15
def cGsig (l : List W64) : Nat := wf (dWord l 6) 30 16
def cGsigEn (l : List W64) : Bool := bit (dWord l 6).toNat 31
def cInc (l : List W64) : Nat := wf (dWord l 6) 47 32
def cChunk (l : List W64) : Nat := wf (dWord l 6) 51 48
def cAux (l : List W64) : Nat := wf (dWord l 7) 47 0
/-- The token word (07 R229). -/
def tkH (l : List W64) : Nat := wf (dWord l 4) 15 0
def tkCap (l : List W64) : Nat := wf (dWord l 4) 31 16
def tkEloc (l : List W64) : Nat := wf (dWord l 4) 41 32
def tkK (l : List W64) : Nat := wf (dWord l 4) 45 42

def opAllred : Nat := 0xB8
def opRedscat : Nat := 0xB9
def opAllgath : Nat := 0xBA
def opBcast : Nat := 0xBB
def opReduce : Nat := 0xBC
def opDispatch : Nat := 0xBD
def opCombine : Nat := 0xBE
def opRing : Nat := 0xBF

/-- Operations with a ROP, and token operations. -/
def opReduces (op : Nat) : Bool := op == opAllred || op == opRedscat || op == opReduce
def opTokens (op : Nat) : Bool := op == opDispatch || op == opCombine
/-- Sums in the group's mode (07 R199). -/
def opSums (op : Nat) (l : List W64) : Bool := op == opCombine || (opReduces op && cRop l == 0)
/-- Copies. -/
def opCopies (op : Nat) : Bool := op == opAllgath || op == opBcast || op == opRing || op == opDispatch

/-- The accumulation format of a canonical group as an element type (07 R199). -/
def accType (width : Nat) : Nat := if width = 0 then 8 else if width = 1 then 9 else 11

/-- Whether SET widens exactly to the accumulation format (07 R224). -/
def canonSet (width set : Nat) : Bool :=
  match width with
  | 0 => etArith set
  | 1 => set == 9 || set == 10 || set == 11
  | _ => set == 11

/-! Refusals (07 R225). -/

def crRsvd : Nat := 0x11
def crGroup : Nat := 0x12
def crState : Nat := 0x13
def crType : Nat := 0x14
def crDeep : Nat := 0x15
def crGrid : Nat := 0x16
def crSignal : Nat := 0x17
def crAlign : Nat := 0x18
def crToken : Nat := 0x19
def crCut : Nat := 0x1A
def crFeature : Nat := 0x1B
def crArg : Nat := 0x1C

/-- RSVD. -/
def cRsvd (op : Nat) (l : List W64) : Bool :=
  wf (dWord l 0) 63 48 != 0 || wf (dWord l 1) 63 48 != 0 || wf (dWord l 2) 63 40 != 0 || wf (dWord l 6) 63 52 != 0 ||
  wf (dWord l 7) 63 48 != 0 || 4 < cRnd l || cOvf l == 3 || 3 < cRop l || (!opReduces op && cRop l != 0) ||
  8 < cChunk l || (op != opDispatch && cAux l != 0) || (opTokens op && wf (dWord l 4) 63 46 != 0) ||
  ((opTokens op || op == opRing) && cRnd l == 4)

/-- TYPE (07 R224). -/
def cTypeOk (s : State) (g op : Nat) (l : List W64) : Bool :=
  let mode := grpMode s g
  let ledger := opSums op l && mode == 0
  (!cLand l || (ledger && (op == opAllred || op == opRedscat))) && (!cScl l || opCopies op) &&
  (if opSums op l then
    (cLand l || etArith (cDet l)) &&
    (match mode with
     | 0 => etArith (cSet l)
     | 1 => op != opCombine && (if grpWidth s g = 0 then cSet l != 8 && (etArith (cSet l) || etShort (cSet l))
              else cSet l == 8)
     | _ => canonSet (grpWidth s g) (cSet l))
   else if opReduces op then etArith (cSet l) && etArith (cDet l)
   else if cScl l then etShort (cSet l) && etArith (cDet l)
   else etMove (cSet l) && etMove (cDet l))

/-- SIGNAL. -/
def cSignalOk (s : State) (v : Nat) (l : List W64) : Bool :=
  (!cCsigEn l || (ctrOf s v (cCsig l)).isSome) && (!cGsigEn l || (ctrOf s v (cGsig l)).isSome) &&
  (!(cCsigEn l || cGsigEn l) || cInc l != 0)

/-- Bytes of a landed element. -/
def cDetBytes (s : State) (g : Nat) (l : List W64) : Nat :=
  if cLand l then (if grpWidth s g = 0 then 8 else 16) else etBytes (cDet l)

/-- ALIGN. -/
def cAlignOk (s : State) (g op : Nat) (l : List W64) : Bool :=
  let rank := grpRank s g
  let src := cScl l || (op == opBcast && cArg l != rank) || cSrc l % max 1 (etBytes (cSet l)) == 0
  let dst := (op == opReduce && cArg l != rank) || cDst l % max 1 (cDetBytes s g l) == 0
  src && dst && cAux l % 4 == 0 && cStat l % 8 == 0

/-- TOKEN (07 R229). -/
def cTokenOk (op : Nat) (l : List W64) : Bool :=
  !opTokens op ||
  (tkH l != 0 && tkCap l != 0 && tkEloc l != 0 && decide (tkEloc l ≤ 512) && tkK l != 0 && decide (tkK l ≤ 8) &&
    decide (cCount l ≤ 2 ^ 24))

/-- CUT. -/
def cCutOk (s : State) (g op : Nat) : Bool :=
  (!opTokens op || grpCut s g == 1) && (op != opRing || grpCut s g == 2 || grpCut s g == 4)

/-- FEATURE (07 R200). -/
def cFeatureOk (s : State) (g op : Nat) (l : List W64) : Bool :=
  let f := grpFeat s g
  (cRnd l != 4 || bit f 4) && (!(cScl l && cEsc l) || bit f 5) && (cSet l != 15 || bit f 6) &&
  (!opTokens op || bit f 7) && (op != opRing || bit f 8)

/-- ARG: a root, or a ring step (07 R225, R226). -/
def cArgOk (s : State) (g op : Nat) (l : List W64) : Bool :=
  if op = opBcast ∨ op = opReduce then decide (cArg l < grpN s g)
  else if op = opRing then decide (2 ≤ grpN s g ∧ cArg l % 2 ^ 15 ≤ grpN s g - 2)
  else true

/-- The refusal of a collective, in the order of 07 R225. -/
def collCheck (s : State) (v op : Nat) (grp : Option Nat) (l : List W64) : Option Nat :=
  if cRsvd op l then some crRsvd
  else
    match grp with
    | none => some crGroup
    | some g =>
      if grpState s g ≠ stActive then some crState
      else if !cTypeOk s g op l then some crType
      else if opSums op l ∧ grpMode s g = 1 ∧ 4096 < cCount l then some crDeep
      else if opSums op l ∧ grpMode s g = 0 ∧ cGmode l = true ∧ (grpSt s g).maxGen = none then some crGrid
      else if !cSignalOk s v l then some crSignal
      else if !cAlignOk s g op l then some crAlign
      else if !cTokenOk op l then some crToken
      else if !cCutOk s g op then some crCut
      else if !cFeatureOk s g op l then some crFeature
      else if !cArgOk s g op l then some crArg
      else none

/-! Acceptance. -/

/-- The digest (07 R211). -/
def collDigest (op : Nat) (l : List W64) : Nat :=
  crc32c (bytesOf 1 op ++ bytesOf 1 (cSet l) ++
    bytesOf 1 (cRop l + 8 * b2n (cGmode l) + 16 * b2n (cScl l) + 32 * b2n (cEsc l)) ++ [0] ++ bytesOf 2 (cArg l) ++
    bytesOf 2 (if cGmode l then 0 else cG l) ++ bytesOf 8 (cCount l) ++
    bytesOf 8 (if opTokens op then (dWord l 4).toNat else 0))

/-- Bytes 0-31 of a generation's Talus record (13 R380), and the whole record when it opens. -/
def talusHead (s : State) (g : Nat) (x : Gen) : List Byte :=
  [1, BitVec.ofNat 8 (grpVi s g), BitVec.ofNat 8 (viInc s (grpVi s g)), BitVec.ofNat 8 x.attempt] ++ bytesOf 4 x.num ++
    bytesOf 2 g ++ bytesOf 6 0 ++ bytesOf 8 x.low ++ bytesOf 8 x.map
def talusGen (g : Nat) (x : Gen) (all : Bool) : M Unit := do
  let s ← cur
  talusWrite (dieOfGrp g) x.slot 0 (talusHead s g x ++ (if all then bytesOf 32 0 ++ wordBytes x.words else []))

/-- The aliases of SRC, DST, STAT and AUX resolved (05 R138). -/
def resolveColl (s : State) (t : Nat) (l : List W64) : List W64 :=
  let fix := fun (i : Nat) => BitVec.ofNat 64 (setBits (dWord l i).toNat 47 0 (ownPond s t (wf (dWord l i) 47 0)))
  [fix 0, fix 1, dWord l 2, dWord l 3, dWord l 4, fix 5, dWord l 6, fix 7]

/-- What other members have told of a generation before it was issued here. -/
def earlyOf (x : Gen) (l : List Early) : Gen :=
  l.foldl (fun x e => match e with
    | .arrive n r => if n = x.num then { x with arrive := x.arrive ++ [r] } else x
    | .credit n r _ c => if n = x.num then { x with credits := x.credits ++ [(r, c)] } else x
    | .counts n r c => if n = x.num then { x with counts := x.counts ++ [(r, c)] } else x
    | .abort _ _ _ _ => x) x

/-- A generation number of an early message. -/
def Early.gen : Early → Nat
  | .arrive n _ => n
  | .credit n _ _ _ => n
  | .counts n _ _ => n
  | .abort n _ _ _ => n

/-- Whether the credits held for a generation carry another digest (07 R211). -/
def earlyMismatch (num digest : Nat) (l : List Early) : Bool :=
  l.any fun e => match e with
    | .credit n _ d _ => n == num && d != digest
    | _ => false

/-- The generation of an accepted descriptor (07 R209). -/
def newGen (s : State) (g op : Nat) (l : List W64) : Gen :=
  let num := getF s (F.COL_GRP_GEN_NEXT g)
  { num, op, words := l, digest := collDigest op l, slot := talusSlot s (dieOfGrp g)
    grid := toI 12 (cG l)
    maxOf := if opSums op l && grpMode s g == 0 && cGmode l then (grpSt s g).maxGen else none }

/-- Counters named by a descriptor (06 R190). -/
def namedCtrs (s : State) (v : Nat) (l : List W64) : List Nat :=
  (if cCsigEn l then (ctrOf s v (cCsig l)).toList else []) ++ (if cGsigEn l then (ctrOf s v (cGsig l)).toList else [])

/-- The argument of ABORT (13 R382). -/
def abortArg (attempt cause : Nat) (go : Bool) : Nat := attempt % 256 + cause % 16 * 256 + b2n go * 4096

/-- The end code that an abort without replay carries as its cause (DESIGN CHOICE, log entry 39). -/
def endsAt : Early → Nat
  | .abort _ _ _ cause => cause - 8
  | _ => 0

/-- A generation has left the window of 16 behind NEXT (07 R210). -/
def inWindow (next num : Nat) : Bool := (next + 2 ^ 32 - num) % 2 ^ 32 ≤ 32

/-- Acceptance: the next number, the record, and the barrier after every P-th generation (07 R209, 06 R190). An abort
that came before ends or counts the attempt (07 R211, 13 R383). -/
def acceptGen (g op : Nat) (l : List W64) : M Unit := do
  let s ← cur
  let v := grpVi s g
  let y := grpSt s g
  let x := earlyOf (newGen s g op l) y.early
  let att := y.early.foldl (fun a e => match e with
    | .abort n k _ _ => if n = x.num then k else a
    | _ => a) 0
  let x := { x with attempt := att, replays := att }
  let next := (x.num + 1) % 2 ^ 32
  let since := y.sinceBarrier + 1
  let due := since ≥ 2 ^ getF s (F.COL_GRP_CFG_REALIGN g)
  setGrp g
    { y with gens := (y.gens.filter fun z => z.state != .done || inWindow next z.num) ++ [x]
             early := y.early.filter fun e => e.gen != x.num
             sinceBarrier := if due then 0 else since
             barrierDue := y.barrierDue || due
             ctrs := y.ctrs ++ (namedCtrs s v l).filter fun c => !y.ctrs.contains c
             maxGen := if op = opAllred ∧ cRop l = 3 then some x.num else y.maxGen }
  putF (F.COL_GRP_GEN_NEXT g) next
  talusGen g x true
  (if earlyMismatch x.num x.digest y.early then do
    colMsgAll g x.num msgAbort (grpRank s g) (abortArg ((x.attempt + 1) % 256) (8 + geMismatch) false) []
    genFail g geMismatch x
   else
    match y.early.find? fun e => e.gen == x.num && endsAt e != 0 with
    | some e => genFail g (endsAt e) x
    | none => pure ())
  placeBarrier g

/-- Whether a collective names the pond of a tile of its VI (13 R396). -/
def collUses (s : State) (v t : Nat) (l : List W64) : Bool :=
  namesPond s v t (cSrc l) (cCount l * max 1 (etBytes (cSet l))) || namesPond s v t (cDst l) (cCount l * 16) ||
  namesPond s v t (cStat l) 8 || namesPond s v t (cAux l) 4

/-- Whether a migration holds a new collective that names the tile's pond (13 R396). -/
def migHoldsColl (s : State) (v : Nat) (l : List W64) : Bool :=
  match s.sys.faults.mig with
  | some m => tileVi s m.old == v && collUses s v m.old l
  | none => false

/-- A COLL instruction (07 R209, R220). -/
def collOp (op t : Nat) (w : W64) : M Unit := do
  let s ← cur
  let v := tileVi s t
  let a := (getS s t (oSA w)).toNat
  if a % 64 ≠ 0 then raise t xAlign (BitVec.ofNat 64 a)
  else
    tileAccess t aRead (addrs a 64) fun ps => do
      let s ← cur
      let l := wordsOf (ps.map (paByte s))
      let grp := grpOf s v (getS s t (oSB w)).toNat
      match collCheck s v op grp l, grp with
      | some code, _ => issueRefused t w code
      | none, none => issueRefused t w crGroup
      | none, some g => do
        placeBarrier g
        let s ← cur
        if (grpSt s g).barrierDue = true ∨ 16 ≤ liveCount s g ∨ migHoldsColl s v (resolveColl s t l) = true then
          issueStall t w
        else do
          acceptGen g op (resolveColl s t l)
          issueOk t w

def execCollAllred (t : TileNo) (w : W64) (s : State) : Host.Outcome State Fault Refusal :=
  act (issue t (opIs opAllred w) w (collOp opAllred t w)) s
def execCollRedscat (t : TileNo) (w : W64) (s : State) : Host.Outcome State Fault Refusal :=
  act (issue t (opIs opRedscat w) w (collOp opRedscat t w)) s
def execCollAllgath (t : TileNo) (w : W64) (s : State) : Host.Outcome State Fault Refusal :=
  act (issue t (opIs opAllgath w) w (collOp opAllgath t w)) s
def execCollBcast (t : TileNo) (w : W64) (s : State) : Host.Outcome State Fault Refusal :=
  act (issue t (opIs opBcast w) w (collOp opBcast t w)) s
def execCollReduce (t : TileNo) (w : W64) (s : State) : Host.Outcome State Fault Refusal :=
  act (issue t (opIs opReduce w) w (collOp opReduce t w)) s
def execCollDispatch (t : TileNo) (w : W64) (s : State) : Host.Outcome State Fault Refusal :=
  act (issue t (opIs opDispatch w) w (collOp opDispatch t w)) s
def execCollCombine (t : TileNo) (w : W64) (s : State) : Host.Outcome State Fault Refusal :=
  act (issue t (opIs opCombine w) w (collOp opCombine t w)) s
def execCollRing (t : TileNo) (w : W64) (s : State) : Host.Outcome State Fault Refusal :=
  act (issue t (opIs opRing w) w (collOp opRing t w)) s

/-! Instructions that have stalled (03 R99). -/

/-- The operation of an engine-issue word. -/
def engineOp (t : Nat) (w : W64) : M Unit :=
  if oOP w = 0xB0 then dmaPut t w else collOp (oOP w) t w

/-- STALLED_ISSUE_PROCEED: the instruction makes its checks again; a TIME tries its record again (14 R423). -/
def execStalledIssueProceed (t : TileNo) (s : State) : Host.Outcome State Fault Refusal :=
  act (do
    let s ← cur
    let c := (tileOf s t).core
    let again := fun (m : M Unit) => do
      emit (.core t { c with state := .run, stall := .none })
      let s ← cur
      if canIssue s t then m else emit (.core t c)
    match c.state, c.stall with
    | .stall, .engine w => again (engineOp t w)
    | .stall, .record w => again (timeOf t w)
    | _, _ => pure ()) s

end Sys2Proof.Machine
end

