-- ==== Sys2Proof/Machine/Reduce.lean ====
section
/-! DEFINITION. The reductions of a block (08 R247-R254): what a contribution holds, how contributions combine, and
what leaves; and the wire form of deep sums (R251). -/
namespace Sys2Proof.Machine

/-- How a generation reduces (07 R199, R224). -/
inductive Red where
  /-- Ledger words of a width. -/
  | ledger (width : Nat)
  /-- Deep sums, of F64 inputs or of the narrower family. -/
  | deep (f64 : Bool)
  /-- Canonical sums in an accumulation format. -/
  | canon (f : Fmt)
  /-- MAX 1, MIN 2, MAXABS 3 over codes of a format. -/
  | select (rop : Nat) (f : Fmt)
  deriving DecidableEq, Repr

/-! The wire form of deep sums (08 R251). -/

/-- Limbs of an accumulator of inputs. -/
def deepLimbs (f64 : Bool) : Nat := if f64 then 68 else 10

/-- The least number of limbs that hold an integer, over at most n. -/
def limbCount (a : Int) (n : Nat) : Nat :=
  ((upto (n + 1)).find? fun t => decide (-(2 ^ (32 * t) : Int) ≤ 2 * a ∧ 2 * a < 2 ^ (32 * t))).getD n

/-- Lowest limb that is not zero. -/
def lowLimb (a : Int) (n : Nat) : Nat := ((upto n).find? fun j => !decide (a % 2 ^ (32 * (j + 1)) = 0)).getD 0

/-- An element in wire form: the smallest CNT, and for it the largest LO. -/
def deepWire (f64 : Bool) (d : Deep) : List Byte :=
  let n := deepLimbs f64
  let lo := if d.acc = 0 then 0 else lowLimb d.acc n
  let cnt := if d.acc = 0 then 0 else limbCount d.acc n - lo
  bytesOf 3 (lo + cnt * 2 ^ 7 + b2n d.nan * 2 ^ 14 + b2n d.pinf * 2 ^ 15 + b2n d.ninf * 2 ^ 16) ++
    bytesOf (4 * cnt) (ofI (32 * cnt) (d.acc / 2 ^ (32 * lo)))

/-- An element read from the front of bytes; none where it is malformed. -/
def deepUnwire (f64 : Bool) (l : List Byte) : Option (Deep × List Byte) :=
  let h := ofBytes (l.take 3)
  let lo := bits h 6 0
  let cnt := bits h 13 7
  let rest := l.drop 3
  if l.length < 3 ∨ rest.length < 4 * cnt ∨ bits h 23 17 ≠ 0 ∨ deepLimbs f64 < lo + cnt then none
  else
    let d : Deep :=
      { acc := if cnt = 0 then 0 else toI (32 * cnt) (ofBytes (rest.take (4 * cnt))) * 2 ^ (32 * lo)
        nan := bit h 14, pinf := bit h 15, ninf := bit h 16 }
    if deepWire f64 d = l.take (3 + 4 * cnt) then some (d, rest.drop (4 * cnt)) else none

/-- Elements in wire form, at most n; and whether one is malformed. -/
def deepElems (f64 : Bool) : Nat → List Byte → List Deep × Bool
  | 0, _ => ([], false)
  | _, [] => ([], false)
  | n + 1, l =>
    match deepUnwire f64 l with
    | none => ([], true)
    | some (d, rest) =>
      let r := deepElems f64 n rest
      (d :: r.1, r.2)

/-! Selection (07 R224, 08 R254). -/

/-- Whether a value is NaN or infinite. -/
def exNonfinite : Ex → Bool
  | .fin _ _ _ _ => false
  | _ => true

def exIsNan : Ex → Bool
  | .nan => true
  | _ => false

/-- The selected one of values. -/
def selectEx (rop : Nat) (l : List Ex) : Ex :=
  if rop = 3 then ((l.filter fun x => !exNonfinite x).map exAbs).foldl (exMin true) (.fin false 0 1 0)
  else
    match l.filter fun x => !exIsNan x with
    | [] => .nan
    | x :: r => r.foldl (exMin (rop == 1)) x

/-- The selected code. -/
def selectCode (rop : Nat) (f : Fmt) (l : List Nat) : Nat := (narrow f 0 0 0 (selectEx rop (l.map (decodeF f)))).code

/-! Contributions. -/

/-- A contribution of a block: ledger words, deep sums or codes. -/
structure Contrib where
  words : List Int := []
  deep : List Deep := []
  codes : List Nat := []
  deriving DecidableEq, Repr

/-- Bytes of a code of a format. -/
def fmtBytes (f : Fmt) : Nat := f.width / 8

/-- A contribution as it travels. -/
def Red.encode (k : Red) (c : Contrib) : List Byte :=
  match k with
  | .ledger w => packBlock w c.words
  | .deep f64 => c.deep.flatMap (deepWire f64)
  | .canon f => c.codes.flatMap (bytesOf (fmtBytes f))
  | .select _ f => c.codes.flatMap (bytesOf (fmtBytes f))

/-- A contribution read; none where the block is malformed (08 R249). -/
def Red.decode (k : Red) (l : List Byte) : Option Contrib :=
  match k with
  | .ledger w =>
    match unpackBlock w l with
    | some (ws, []) => some { words := ws }
    | _ => none
  | .deep f64 =>
    let r := deepElems f64 32 l
    if r.2 || r.1.length > 32 then none else some { deep := r.1 }
  | .canon f => if l.length % fmtBytes f = 0 then some { codes := codesIn (fmtBytes f) l } else none
  | .select _ f => if l.length % fmtBytes f = 0 then some { codes := codesIn (fmtBytes f) l } else none

/-- Element k of several lists of codes. -/
def column (k : Nat) (l : List (List Nat)) : List Nat := l.map fun x => x.getD k 0

/-- The reduction of contributions in the order of their index (08 R247-R254). -/
def Red.reduce (k : Red) (l : List Contrib) : Contrib :=
  match k with
  | .ledger w => { words := match l with
      | [] => []
      | c :: r => r.foldl (fun a b => (a.zip b.words).map fun p => ledgerAdd w p.1 p.2) c.words }
  | .deep _ => { deep := match l with
      | [] => []
      | c :: r => r.foldl (fun a b => (a.zip b.deep).map fun p => Deep.join p.1 p.2) c.deep }
  | .canon f =>
    let cs := l.map Contrib.codes
    { codes := (upto (cs.headD []).length).map fun j => canonicalSum f (column j cs) }
  | .select rop f =>
    let cs := l.map Contrib.codes
    { codes := (upto (cs.headD []).length).map fun j => selectCode rop f (column j cs) }

/-- A source block of codes as a contribution (07 R224): its watch counts of saturation, non-finite inputs and grid
flushes; `g` gives the Spring output of element j. -/
def Red.contribute (k : Red) (set : Nat) (grid : Int) (rnd ovf : Nat) (g : Nat → Nat) (codes : List Nat) :
    Contrib × Nat × Nat × Nat :=
  match k with
  | .ledger w =>
    let rs := (indexed 0 codes).map fun p => toLedger (etVal set p.2) grid w rnd ovf (g p.1)
    ({ words := rs.map LedgerRes.word }, sumOf LedgerRes.sat rs, sumOf LedgerRes.nonfin rs,
      sumOf LedgerRes.gridflush rs)
  | .deep f64 => ({ deep := codes.map fun c => Deep.add f64 {} (etVal set c) }, 0, 0, 0)
  | .canon f => ({ codes := codes.map fun c => (narrow f 0 1 0 (etVal set c)).code }, 0, 0, 0)
  | .select _ _ => ({ codes }, 0, 0, 0)

/-- Values of a reduced block, exact. -/
def Red.values (k : Red) (grid : Int) (c : Contrib) : List Ex :=
  match k with
  | .ledger w => c.words.map (ledgerVal w grid)
  | .deep f64 => c.deep.map (Deep.val f64)
  | .canon f => c.codes.map (decodeF f)
  | .select _ f => c.codes.map (decodeF f)

end Sys2Proof.Machine
end

