-- ==== Sys2Proof/Machine/CollGeom.lean ====
section
/-! DEFINITION. The geometry of a generation (07 R221, R223, R227, R230-R233): chunks, shards, who contributes and who
lands what, and its progress (13 R381). -/
namespace Sys2Proof.Machine

/-- Elements of a chunk (07 R223); tokens for a token operation (DEDUCED, log entry 40). -/
def chunkElems (l : List W64) : Nat := 4096 * 2 ^ cChunk l * 8 / etWidth (cSet l) / 32 * 32

/-- Shard size (07 R221). -/
def shardSize (count n : Nat) : Nat := 32 * cdiv count (32 * max 1 n)

/-- Shard of a rank: from, to. -/
def shardOf (count n r : Nat) : Nat × Nat :=
  (min count (r * shardSize count n), min count ((r + 1) * shardSize count n))

/-- Chunks that a member sends, by number: of its slots for COMBINE, else of the vector. -/
def chunkCount (op : Nat) (l : List W64) : Nat :=
  cdiv (if op = opCombine then tkEloc l * tkCap l else cCount l) (max 1 (chunkElems l))

/-- Elements of chunk c. -/
def chunkSpan (op : Nat) (l : List W64) (c : Nat) : Nat × Nat :=
  let total := if op = opCombine then tkEloc l * tkCap l else cCount l
  (min total (c * chunkElems l), min total ((c + 1) * chunkElems l))

/-- The common part of two spans. -/
def meet (a b : Nat × Nat) : Nat × Nat := (max a.1 b.1, max (max a.1 b.1) (min a.2 b.2))

/-- Elements that a member contributes. -/
def sendSpan (s : State) (g : Nat) (x : Gen) : Nat × Nat :=
  let n := grpN s g
  let c := cCount x.words
  if x.op = opAllgath then shardOf c n (grpRank s g)
  else if x.op = opBcast ∧ cArg x.words ≠ grpRank s g then (0, 0)
  else if x.op = opCombine then (0, tkEloc x.words * tkCap x.words)
  else (0, c)

/-- Elements that land in a member's DST. -/
def landSpan (s : State) (g : Nat) (x : Gen) : Nat × Nat :=
  let n := grpN s g
  let c := cCount x.words
  if x.op = opRedscat then shardOf c n (grpRank s g)
  else if x.op = opReduce ∧ cArg x.words ≠ grpRank s g then (0, 0)
  else (0, c)

/-- Whether a member contributes to, or lands, a part of chunk c. -/
def sendsChunk (s : State) (g : Nat) (x : Gen) (c : Nat) : Bool :=
  let m := meet (chunkSpan x.op x.words c) (sendSpan s g x)
  decide (m.1 < m.2)
def landsChunk (s : State) (g : Nat) (x : Gen) (c : Nat) : Bool :=
  let m := meet (chunkSpan x.op x.words c) (landSpan s g x)
  !opTokens x.op && decide (m.1 < m.2)

/-- First element of DST's vector, and of SRC's. -/
def dstBase (s : State) (g : Nat) (x : Gen) : Nat := if x.op = opRedscat then (landSpan s g x).1 else 0
def srcBase (s : State) (g : Nat) (x : Gen) : Nat := if x.op = opAllgath then (sendSpan s g x).1 else 0

/-- The rank whose device reduces element e: a deep sum has one node (08 R250, DEDUCED, log entry 41). -/
def nodeOf (s : State) (g : Nat) (x : Gen) (e : Nat) : Nat :=
  if x.op = opReduce then cArg x.words
  else if opSums x.op x.words ∧ grpMode s g = 1 then 0
  else e / max 1 (shardSize (cCount x.words) (grpN s g))

/-- The neighbour that a RING sends to (07 R233). -/
def ringTo (s : State) (g : Nat) (x : Gen) : Nat :=
  let n := grpN s g
  if bit (cArg x.words) 15 then (grpRank s g + n - 1) % max 1 n else (grpRank s g + 1) % max 1 n

/-- The ranks that a block at element e goes to. -/
def blockTo (s : State) (g : Nat) (x : Gen) (e : Nat) : List Nat :=
  if opReduces x.op then [nodeOf s g x e]
  else if x.op = opRing then [ringTo s g x]
  else upto (grpN s g)

/-- The reduction of a summing or selecting generation (07 R199, R224). -/
def genRed (s : State) (g : Nat) (x : Gen) : Option Red :=
  if opSums x.op x.words then
    match grpMode s g with
    | 0 => some (.ledger (if grpWidth s g = 0 then 64 else 128))
    | 1 => some (.deep (grpWidth s g != 0))
    | _ => (etFmt (accType (grpWidth s g))).map .canon
  else if opReduces x.op then (etFmt (cSet x.words)).map (.select (cRop x.words))
  else none

/-- Class of the data of a generation (07 R220); replays travel in TC1. -/
def dataTc (x : Gen) : Nat :=
  if x.attempt ≠ 0 then 1
  else if opReduces x.op then 2
  else if opTokens x.op then 4
  else if x.op = opRing then 5
  else 3

/-- Seed of a group (07 R236). -/
def grpSeed (s : State) (g : Nat) : List Nat :=
  [getF s (F.COL_GRP_SEED0_K0 g), getF s (F.COL_GRP_SEED0_K1 g), getF s (F.COL_GRP_SEED1_K2 g),
   getF s (F.COL_GRP_SEED1_K3 g)]

/-- Spring output of element i of a generation's vector in a stream (02 R62, 07 R224). -/
def genG (s : State) (g : Nat) (x : Gen) (stream i : Nat) : Nat :=
  if cRnd x.words = 4 then spring (grpSeed s g) stream (cSrtid x.words) i else 0

/-! Progress (13 R381). -/

/-- Whether chunk c is committed. -/
def chunkDone (x : Gen) (c : Nat) : Bool := decide (c < x.low) || bit x.map (c - x.low)

/-- LOW passes every committed chunk, and MAP shifts. -/
def passLow : Nat → Nat → Nat → Nat × Nat
  | 0, low, map => (low, map)
  | n + 1, low, map => if bit map 0 then passLow n (low + 1) (map / 2) else (low, map)

/-- A chunk commits. -/
def withCommit (x : Gen) (c : Nat) : Gen :=
  if chunkDone x c then x
  else
    let map := Nat.lor x.map (2 ^ (c - x.low))
    let r := passLow (map.log2 + 1) x.low map
    { x with low := r.1, map := r.2 }

/-- Chunks sent and not committed. -/
def openChunks (x : Gen) : Nat := cnt (fun c => !chunkDone x c) x.sent

/-- Blocks of chunk c that land here: block numbers within the chunk, from and to. -/
def landBlocks (s : State) (g : Nat) (x : Gen) (c : Nat) : Nat × Nat :=
  let sp := chunkSpan x.op x.words c
  let m := meet sp (landSpan s g x)
  ((m.1 - sp.1) / 32, cdiv (m.2 - sp.1) 32)

/-! Token operations (07 R229-R232). -/

/-- Blocks of a token. -/
def tokenBlocks (l : List W64) : Nat := cdiv (tkH l) 32

/-- Counts of a rank for this member's experts. -/
def countsOf (x : Gen) (r : Nat) : List Nat := ((x.counts.find? fun p => p.1 == r).map (·.2)).getD []

/-- Whether every rank has told its counts. -/
def countsAll (s : State) (g : Nat) (x : Gen) : Bool := (upto (grpN s g)).all fun r => x.counts.any fun p => p.1 == r

/-- Slot of the i-th route of a rank to a local expert (07 R231). -/
def slotOf (x : Gen) (rank e i : Nat) : Nat := sumOf (fun r => (countsOf x r).getD e 0) (upto rank) + i

/-- Routes that name a local expert, over the ranks. -/
def expertTotal (s : State) (g : Nat) (x : Gen) (e : Nat) : Nat :=
  sumOf (fun r => (countsOf x r).getD e 0) (upto (grpN s g))

/-- Tokens that a member drops (07 R231). -/
def droppedTokens (s : State) (g : Nat) (x : Gen) : Nat :=
  sumOf (fun e => expertTotal s g x e - tkCap x.words) (upto (tkEloc x.words))

/-- Slots that fill. -/
def filledSlots (s : State) (g : Nat) (x : Gen) : Nat :=
  sumOf (fun e => min (expertTotal s g x e) (tkCap x.words)) (upto (tkEloc x.words))

/-- Contributions that come back to this member in a COMBINE. -/
def combineTotal (s : State) (g : Nat) (x : Gen) : Nat :=
  sumOf (fun r => sumOf id (countsOf x r)) (upto (grpN s g))

/-- Whether every block of chunk c has landed; of a token operation, every token (07 R216). -/
def chunkLanded (s : State) (g : Nat) (x : Gen) (c : Nat) : Bool :=
  if x.op = opDispatch then
    countsAll s g x && x.landed.length == filledSlots s g x * tokenBlocks x.words
  else if x.op = opCombine then countsAll s g x && x.summed == combineTotal s g x * tokenBlocks x.words
  else
    let b := landBlocks s g x c
    (upto (b.2 - b.1)).all fun k => x.landed.contains (c, b.1 + k)

/-- Chunks that a generation's Talus record counts: a token operation has one more, for all that lands. -/
def commitCount (x : Gen) : Nat := chunkCount x.op x.words + b2n (opTokens x.op)

/-- Whether a member's part is committed: what lands has landed, and what it sends has been sent (07 R212). -/
def partDone (s : State) (g : Nat) (x : Gen) : Bool :=
  decide (commitCount x ≤ x.low) &&
  (upto (chunkCount x.op x.words)).all fun c => !sendsChunk s g x c || x.sent.contains c

end Sys2Proof.Machine
end

