-- ==== Sys2Proof/Machine/Abort.lean ====
section
/-! DEFINITION. Abort and replay of generations (13 R382-R387, 07 R212), and the windows of generation numbers (07
R210). -/
namespace Sys2Proof.Machine

/-! Numbers (07 R210). -/

/-- Ahead of NEXT, or live and just ended. -/
def genAhead (s : State) (g gen : Nat) : Bool := (gen + 2 ^ 32 - getF s (F.COL_GRP_GEN_NEXT g)) % 2 ^ 32 < 16
def genBehind (s : State) (g gen : Nat) : Bool :=
  let d := (getF s (F.COL_GRP_GEN_NEXT g) + 2 ^ 32 - gen) % 2 ^ 32
  0 < d && d ≤ 32

/-- A message about a generation: of a live one, of one not issued here yet, or of neither; outside the window it is
dropped and counted. -/
def withGen (g gen : Nat) (k : Gen → M Unit) (early : M Unit) : M Unit := do
  let s ← cur
  match findGen s g gen with
  | some x => k x
  | none =>
    if genAhead s g gen then early
    else if genBehind s g gen then pure ()
    else watch (grpVi s g) wStale 1

/-- What is told of a generation that is not issued here yet. -/
def putEarly (g : Nat) (e : Early) : M Unit :=
  modGrp g fun y => { y with early := if y.early.contains e then y.early else y.early ++ [e] }

/-! Causes (13 R382). -/

def acLink : Nat := 1
def acStall : Nat := 2
def acMalformed : Nat := 3
def acUnit : Nat := 4

/-- A generation that is aborted and not replayed ends on every member with a code (07 R217, DESIGN CHOICE, log entry 39). -/
def abortEnd (g : Nat) (x : Gen) (code : Nat) : M Unit := do
  let s ← cur
  colMsgAll g x.num msgAbort (grpRank s g) (abortArg ((x.attempt + 1) % 256) (8 + code) false) []
  genFail g code x

/-- A newer attempt, modulo 256. -/
def newerAttempt (a b : Nat) : Bool := 0 < (a + 256 - b) % 256 && (a + 256 - b) % 256 < 128

/-- Frames that a member still holds are sent again for others, in TC1 under the new attempt (13 R385, 07 R212). -/
def resendHeld (x : Gen) : M Unit :=
  (x.held.filter fun h => x.state == .committed || x.state == .done || chunkDone x h.1).forM fun h =>
    send (.send 1 { h.2.1 with k1 := BitVec.ofNat 64 (setBits h.2.1.k1.toNat 7 0 x.attempt) } h.2.2)

/-- GO: the uncommitted chunks are to be sent and to land again (13 R385). -/
def goTake (g : Nat) (x : Gen) : M Unit := do
  let s ← cur
  addSat (F.COL_GRP_STAT_REPLAYS g) 1
  addWrap (F.TALUS_STAT_REPLAYS (dieOfGrp g)) 1
  countEv 4 3 (dieOfGrp g) (grpOwner s g) 1
  let c ← takeFree
  postErr { cls := 2, unit := 4, index := g, code := bits c.toNat 7 0, vi := grpOwner s g, inc := viInc s (grpVi s g),
            overlap := false, info := BitVec.ofNat 64 x.num }
  let x : Gen := { x with replays := x.replays + (x.attempt + 256 - x.replays % 256) % 256, acks := [] }
  let x : Gen :=
    if x.state == .aborting then
      { x with state := .running, sent := x.sent.filter fun c => chunkDone x c && !landsChunk s g x c
               landed := if opTokens x.op then [] else x.landed.filter fun p => chunkDone x p.1, summed := 0 }
    else x
  putGen g x
  whenB (x.state != .ended) (talusGen g x false)
  resendHeld x

/-- The rank that has reported the most of the aborts, the lowest on a tie (13 R387). -/
def worstRank (l : List Nat) : Nat :=
  l.foldl (fun b r =>
    let cb := cnt (fun y => y == b) l
    let cr := cnt (fun y => y == r) l
    if cb < cr ∨ (cb = cr ∧ r < b) then r else b) (l.headD 0)

/-- A rank is excluded by the coordinator: every member is told (13 R386, R387). -/
def excludeAll (g rank : Nat) : M Unit := do
  let s ← cur
  colMsgAll g (getF s (F.COL_GRP_GEN_NEXT g)) msgExclude rank 0 []
  excludeRank g rank

/-- The replay limit at the coordinator (13 R387). -/
def limitCheck (g : Nat) (x : Gen) : M Unit := do
  let s ← cur
  whenB (decide (abortLimit ≤ x.aborters.length) && coordinator s g == grpRank s g) do
    let r := worstRank x.aborters
    excludeAll g r
    whenB (r == grpRank s g) (viFault (grpVi s g) causeReplayLimit 4 g (BitVec.ofNat 64 x.num))

/-- An acknowledgement at the member that collects: with the last one it sends GO (13 R384, R385). -/
def ackTake (g : Nat) (x : Gen) (rank : Nat) : M Unit := do
  let s ← cur
  let x : Gen := { x with acks := if x.acks.contains rank then x.acks else x.acks ++ [rank] }
  putGen g x
  whenB ((upto (grpN s g)).all fun r => x.acks.contains r || (grpSt s g).excluded.contains r) do
    colMsgAll g x.num msgAbort (grpRank s g) (abortArg x.attempt 0 true) []
    goTake g x

/-- ABORT_ACK to a rank, or to this member itself. -/
def sendAck (g : Nat) (gen attempt place : Nat) : M Unit := do
  let s ← cur
  match (grpSt s g).members[place]? with
  | some w => colMsg g w gen msgAbortAck (grpRank s g) attempt []
  | none => pure ()

/-- An abort of a newer attempt takes effect (13 R383): sending stops, windows, spill and parked accesses of the
uncommitted chunks are freed, and, every write being done, the acknowledgement goes to the coordinator. -/
def abortTake (g : Nat) (x : Gen) (attempt rank : Nat) : M Unit := do
  let s ← cur
  if !newerAttempt attempt x.attempt || x.state == .ended then pure ()
  else
    let x : Gen := { x with attempt, aborters := x.aborters ++ [rank], acks := [] }
    (if x.state == .committed || x.state == .done then putGen g x
     else do
      mereDrop x.mere
      dropCells (genHdrOf g x.num)
      genUnpark (grpVi s g) g x.num
      tarnFree g x.num fun b => chunkDone x b.chunk
      putGen g { x with state := .aborting, spill := [], mere := [] })
    limitCheck g x
    let s ← cur
    match findGen s g x.num with
    | none => pure ()
    | some y =>
      if y.state = .ended then pure ()
      else if coordinator s g = grpRank s g then ackTake g y (grpRank s g)
      else sendAck g x.num attempt (coordinator s g)

/-- This member detects a fault of a generation: ABORT to every member (13 R382). -/
def abortStart (g : Nat) (x : Gen) (cause : Nat) : M Unit := do
  let s ← cur
  whenB (!x.barrier && x.state != .ended && x.state != .aborting) do
    let a := (x.attempt + 1) % 256
    colMsgAll g x.num msgAbort (grpRank s g) (abortArg a cause false) []
    abortTake g x a (grpRank s g)

/-- ABORT (13 R383). -/
def execAbort (a : Addr) (gid gen : W32) (rank : Nat) (attempt : Byte) (cause : BitVec 4) (s : State) :
    Host.Outcome State Fault Refusal :=
  act (colCtl a gid fun g =>
    withGen g gen.toNat
      (fun x => do
        if 8 < cause.toNat then genFail g (cause.toNat - 8) x
        else abortTake g x attempt.toNat rank)
      (do
        let s ← cur
        putEarly g (.abort gen.toNat attempt.toNat rank cause.toNat)
        whenB (decide (cause.toNat ≤ 8)) (sendAck g gen.toNat attempt.toNat (coordinator s g)))) s

/-- ABORT with GO = 1 (13 R385). -/
def execAbortGo (a : Addr) (gid gen : W32) (attempt : Byte) (s : State) : Host.Outcome State Fault Refusal :=
  act (colCtl a gid fun g =>
    withGen g gen.toNat
      (fun x => whenB (x.attempt == attempt.toNat && x.replays % 256 != x.attempt && x.state != .ended) (goTake g x))
      (pure ())) s

/-- ABORT_ACK (13 R384). -/
def execAbortAck (a : Addr) (gid gen : W32) (rank : Nat) (attempt : Byte) (s : State) :
    Host.Outcome State Fault Refusal :=
  act (colCtl a gid fun g =>
    withGen g gen.toNat
      (fun x => whenB (x.attempt == attempt.toNat && x.replays % 256 != x.attempt && x.state != .ended)
        (ackTake g x rank))
      (pure ())) s

/-- ABORT_ACK_TIMEOUT (13 R386). -/
def execAbortAckTimeout (g : GrpNo) (gen : W32) (s : State) : Host.Outcome State Fault Refusal :=
  act (do
    let s ← cur
    match findGen s g gen.toNat with
    | none => pure ()
    | some x =>
      whenB (enginesRun s && coordinator s g == grpRank s g && x.replays % 256 != x.attempt && x.state != .ended)
        (((upto (grpN s g)).filter fun r => !(x.acks.contains r || (grpSt s g).excluded.contains r)).forM fun r =>
          excludeAll g r)) s

/-- GO_TIMEOUT (13 R386): the acknowledgement goes to the lowest rank that still answers. -/
def execGoTimeout (g : GrpNo) (gen : W32) (answering : List Nat) (s : State) : Host.Outcome State Fault Refusal :=
  act (do
    let s ← cur
    match findGen s g gen.toNat with
    | none => pure ()
    | some x =>
      whenB (enginesRun s && x.replays % 256 != x.attempt && x.state != .ended) do
        match (upto (grpN s g)).find? fun r => answering.contains r with
        | none => pure ()
        | some r => if r = grpRank s g then ackTake g x r else sendAck g x.num x.attempt r) s

/-- RING_STALL (07 R234). -/
def execRingStall (g : GrpNo) (gen : W32) (s : State) : Host.Outcome State Fault Refusal :=
  act (do
    let s ← cur
    match findGen s g gen.toNat with
    | none => pure ()
    | some x =>
      whenB (enginesRun s && x.state == .running) do
        putF (F.COL_GRP_STAT_STALL g) 1
        event 0x04 1 g
        countEv 4 4 (dieOfGrp g) (grpOwner s g) 1
        whenB (flag s (F.COL_GRP_CFG_STALLPOL g)) (abortStart g x acStall)) s

/-! Losses (09 R268, 13 R382, R388). -/

/-- A frame of this device is reported lost: its descriptor waits for a resend, or its generation aborts. -/
def reportLost (f : DivFrame) : M Unit := do
  let s ← cur
  whenB (f.hdr.sdev == BitVec.ofNat 15 (selfDev s)) do
    if f.hdr.kind = 0 then
      let queue := wf f.hdr.k0 9 0
      let seq := wf f.hdr.k0 41 10
      modDma fun y =>
        { y with descs := y.descs.map fun d =>
            if d.vi = f.hdr.svi.toNat ∧ d.inc = f.hdr.sinc.toNat ∧ d.seq = seq ∧ qNum d.q = queue ∧
                dLocal d.words = false ∧ d.state ≠ .acked
            then { d with state := .lost } else d }
    else whenB (f.hdr.kind == 3) do
      match ctxOf s f.hdr.svi.toNat (wf f.hdr.k0 31 0) with
      | none => pure ()
      | some g =>
        match findGen s g (wf f.hdr.k0 63 32) with
        | none => pure ()
        | some x => whenB (x.attempt == wf f.hdr.k1 7 0) (abortStart g x acLink)

end Sys2Proof.Machine
end

