-- ==== Sys2Proof/Machine/CollRun.lean ====
section
/-! DEFINITION. What a generation does (07 R11, R212, R215-R219, R226-R233, 08 R255, R259): launch, sending, landing,
commit, and its end. -/
namespace Sys2Proof.Machine

/-! Slots free (07 R209). -/

/-- Zero-count generations that have launched and have no earlier live one send ARRIVE (07 R218). -/
def arriveCheck (g : Nat) : M Unit := do
  let s ← cur
  let live := (liveGens (grpSt s g).gens).filter fun x => !x.barrier
  match live with
  | [] => pure ()
  | x :: _ =>
    whenB (x.state == .running && cCount x.words == 0 && !x.arrive.contains (grpRank s g)) do
      let x : Gen := { x with arrive := x.arrive ++ [grpRank s g] }
      colMsgAll g x.num msgArrive (grpRank s g) 0 []
      putGen g { x with state := if (upto (grpN s g)).all fun r => x.arrive.contains r then .committed else x.state }

/-- A live slot has become free. -/
def slotFreed (g : Nat) : M Unit := do
  placeBarrier g
  arriveCheck g
  closeCheck g

/-- RUNNING with its part done gives COMMITTED (07 R212). -/
def partCheck (g num : Nat) : M Unit := do
  let s ← cur
  match findGen s g num with
  | none => pure ()
  | some x => whenB (x.state == .running && cCount x.words != 0 && partDone s g x) (putGen g { x with state := .committed })

/-! Launch (07 R212, R215, R219, R231). -/

/-- Whether a member's route drains (11 R340). -/
def grpDrains (s : State) (g tc : Nat) : Bool := (otherMembers s g).any fun p => draining s (membDev p.2) tc

/-- The grid of a generation: none while it waits, and the failure of the MAXABS generation (07 R219). -/
def genGrid (s : State) (g : Nat) (x : Gen) : Option (Option Int) :=
  match x.maxOf with
  | none => some (some x.grid)
  | some m => ((grpSt s g).grids.find? fun p => p.1 == m).map (·.2)

/-- Route word (07 R230): rank and expert, or none; and whether it counts as NONE for its range. -/
def routeOf (n : Nat) (l : List W64) (w : Nat) : Option (Nat × Nat) × Bool :=
  let r := bits w 14 0
  let e := bits w 23 15
  if bit w 31 then (none, false) else if n ≤ r ∨ tkEloc l ≤ e then (none, true) else (some (r, e), false)

/-- Origin word (07 R230). -/
def originWord (rank token k : Nat) : Nat := rank % 2 ^ 15 + token % 2 ^ 24 * 2 ^ 15 + k % 8 * 2 ^ 39 + 2 ^ 63

/-- Bytes of a token of SRC. -/
def tokenSrcBytes (l : List W64) : Nat :=
  if cScl l then match etFmt (cSet l) with
    | some f => tokenBlocks l * stridedSize f (cEsc l)
    | none => 0
  else tkH l * etBytes (cSet l)

/-- Where a token operation's table lies: the routes, or the origins behind the slots; and its bytes. -/
def tableAt (x : Gen) : Nat × Nat :=
  if x.op = opDispatch then (cAux x.words, 4 * cCount x.words * tkK x.words)
  else (cSrc x.words + tkEloc x.words * tkCap x.words * tokenSrcBytes x.words, 8 * tkEloc x.words * tkCap x.words)

/-- The marker of an access that is not a chunk's. -/
def markTable : Nat := 2 ^ 40
def markStat : Nat := 2 ^ 40 + 1

/-- A source access of a generation that faults: it parks, or with RANGE the generation ends (05 R149, R156). -/
def colFault (g : Nat) (x : Gen) (mark : Nat) (f : Nat × Nat × Nat × Nat × Nat) : M Unit := do
  let s ← cur
  let (va, code, stage, level, ipa) := f
  mmuFault (grpVi s g) va code stage level ipa agCol aRead 0 (.col g x.num mark) (nowNs s)
  whenB (code == fRange) (abortEnd g x geXlate)

/-- Bytes that a generation reads at a VA, or it parks. -/
def colRead (g : Nat) (x : Gen) (mark va n : Nat) (k : List Byte → M Unit) : M Unit := do
  let s ← cur
  let r := xlPrefix s (grpVi s g) aRead (addrs va n)
  match r.2 with
  | some f => colFault g x mark f
  | none => k (r.1.map (paByte s))

/-- Valid slots of a COMBINE by their place: rank, token, k. -/
def origins (l : List Byte) : List (Nat × Nat × Nat × Nat) :=
  (indexed 0 ((chunks 8 l).map ofBytes)).filterMap fun p =>
    if bit p.2 63 then some (p.1, bits p.2 14 0, bits p.2 38 15, bits p.2 41 39) else none

/-- Routes of a DISPATCH: token, k, rank, expert; and those counted as NONE. -/
def routes (n : Nat) (l : List W64) (b : List Byte) : List (Nat × Nat × Nat × Nat) × Nat :=
  let ws := indexed 0 ((chunks 4 b).map ofBytes)
  (ws.filterMap fun p => (routeOf n l p.2).1.map fun r => (p.1 / tkK l, p.1 % tkK l, r.1, r.2),
   cnt (fun p => (routeOf n l p.2).2) ws)

/-- Counts for rank d: by local expert for DISPATCH, in all for COMBINE. -/
def countsFor (s : State) (g : Nat) (x : Gen) (b : List Byte) (d : Nat) : List Nat :=
  if x.op = opDispatch then
    let rs := (routes (grpN s g) x.words b).1
    (upto (tkEloc x.words)).map fun e => cnt (fun r => r.2.2.1 == d && r.2.2.2 == e) rs
  else [cnt (fun o => o.2.1 == d) (origins b)]

/-- Receive credit for this member's DST (07 R212, R233). -/
def postCredit (g : Nat) (x : Gen) : M Unit := do
  let s ← cur
  colMsgAll g x.num msgCredit (grpRank s g) x.digest (bytesOf 8 (chunkCount x.op x.words))
  putGen g { x with credits := x.credits ++ [(grpRank s g, chunkCount x.op x.words)] }

/-- The counts of a token operation have all arrived: DST takes data (07 R231). -/
def countsCheck (g num : Nat) : M Unit := do
  let s ← cur
  match findGen s g num with
  | none => pure ()
  | some x =>
    whenB (x.state == .running && countsAll s g x && !(x.credits.any fun p => p.1 == grpRank s g)) (postCredit g x)

/-- Tokens are taken, and the generation runs. -/
def launchRun (g : Nat) (x : Gen) (grid : Int) : M Unit := do
  modGrp g fun y => { y with tokens := y.tokens - 1 }
  modSys fun y => { y with col := { y.col with devTokens := y.col.devTokens - 1 } }
  let x : Gen := { x with state := .running, grid }
  putGen g x
  if opTokens x.op && cCount x.words != 0 then countsCheck g x.num
  else postCredit g x
  arriveCheck g

/-- The first phase of a token operation: counts to every other member (07 R231, message: DESIGN CHOICE, log entry 42). -/
def launchTokens (g : Nat) (x : Gen) (grid : Int) : M Unit :=
  colRead g x markTable (tableAt x).1 (tableAt x).2 fun b => do
    let s ← cur
    whenB (x.op == opDispatch) (watch (grpVi s g) wRoute (routes (grpN s g) x.words b).2)
    (otherMembers s g).forM fun p =>
      colMsg g p.2 x.num msgArrive (grpRank s g) 1 ((countsFor s g x b p.1).flatMap (bytesOf 4))
    launchRun g { x with counts := x.counts ++ [(grpRank s g, countsFor s g x b (grpRank s g))] } grid

/-- Launch of an ISSUED generation once its tokens and its grid are there. -/
def genLaunch (g gen : Nat) : M Unit := do
  let s ← cur
  match findGen s g gen with
  | none => pure ()
  | some x =>
    whenB (enginesRun s && x.state == .issued && decide (0 < (grpSt s g).tokens) && decide (0 < s.sys.col.devTokens) &&
        !grpDrains s g (dataTc x)) do
      match genGrid s g x with
      | none => pure ()
      | some none => genFail g geGrid x
      | some (some grid) =>
        if opTokens x.op && cCount x.words != 0 then launchTokens g x grid else launchRun g x grid

/-- GENERATION_LAUNCH. -/
def execGenerationLaunch (g : GrpNo) (gen : W32) (s : State) : Host.Outcome State Fault Refusal :=
  act (genLaunch g.val gen.toNat) s

/-! Messages between members. -/

/-- CREDIT (07 R211, R233). -/
def execCredit (a : Addr) (gid gen : W32) (rank : Nat) (digest : W32) (chunks : Nat) (s : State) :
    Host.Outcome State Fault Refusal :=
  act (colCtl a gid fun g =>
    withGen g gen.toNat
      (fun x =>
        if digest.toNat ≠ x.digest then whenB (x.state != .ended && x.state != .done) (abortEnd g x geMismatch)
        else putGen g { x with credits := x.credits.filter (fun p => p.1 != rank) ++ [(rank, chunks)] })
      (putEarly g (.credit gen.toNat rank digest.toNat chunks))) s

/-- ARRIVE (07 R218). -/
def execArrive (a : Addr) (gid gen : W32) (rank : Nat) (s : State) : Host.Outcome State Fault Refusal :=
  act (colCtl a gid fun g =>
    withGen g gen.toNat
      (fun x => do
        let s ← cur
        let x : Gen := { x with arrive := if x.arrive.contains rank then x.arrive else x.arrive ++ [rank] }
        putGen g
          (if x.state == .running && cCount x.words == 0 && (upto (grpN s g)).all fun r => x.arrive.contains r then
            { x with state := .committed } else x))
      (putEarly g (.arrive gen.toNat rank))) s

/-- DISPATCH_COUNT_ARRIVE (07 R231). -/
def execDispatchCountArrive (a : Addr) (gid gen : W32) (rank : Nat) (counts : List Nat) (s : State) :
    Host.Outcome State Fault Refusal :=
  act (colCtl a gid fun g =>
    withGen g gen.toNat
      (fun x => do
        whenB (opTokens x.op && !(x.counts.any fun p => p.1 == rank))
          (putGen g { x with counts := x.counts ++ [(rank, counts)] })
        countsCheck g x.num)
      (putEarly g (.counts gen.toNat rank counts))) s

/-! Landing (07 R216, R221, R224, 08 R248, R251, R255). -/

/-- What a payload lands: bytes, exact values, elements, and whether a block is malformed. -/
structure ColLanded where
  r : Landed
  vals : List Ex
  count : Nat

/-- Values landed in a type, from element i of the vector. -/
def landVals (s : State) (g : Nat) (x : Gen) (i : Nat) (vals : List Ex) (bad : Bool) : ColLanded :=
  { r := landedOf (cDet x.words) ((indexed 0 vals).map fun p =>
      toTy (cDet x.words) (cRnd x.words) (cOvf x.words) (genG s g x 0 (i + p.1)) p.2) bad
    vals, count := vals.length }

/-- The chunk header of a scaled payload is well formed (11 R321). -/
def sclHdrOk (l : List W64) (b : List Byte) : Bool :=
  decide (8 ≤ b.length) && bits (ofBytes (b.drop 4 |>.take 4)) 31 5 == 0 &&
  bits (ofBytes (b.drop 4 |>.take 1)) 3 0 == cSet l && bit (ofBytes (b.drop 4 |>.take 1)) 4 == cEsc l

/-- Landing of a scaled payload (08 R255): decoded by the SCALE of its own frame. -/
def landScaled (s : State) (g : Nat) (x : Gen) (i n : Nat) (b : List Byte) : ColLanded :=
  match etFmt (cSet x.words) with
  | none => { r := { data := [] }, vals := [], count := 0 }
  | some f =>
    if !sclHdrOk x.words b then { r := { data := [], bad := true }, vals := [], count := 0 }
    else
      let bl := scaledBlocks f (cEsc x.words) true (cdiv n 32) (b.drop 8)
      let rs := decodeBlocks f (cDet x.words) (cRnd x.words) (cOvf x.words) (fun k => genG s g x 0 (i + k))
        (decodeF .f32 (ofBytes (b.take 4))) 0 n bl.1
      { r := landedOf (cDet x.words) rs bl.2, vals := [], count := rs.length }

/-- Landing of at most n elements from element i. -/
def landElems (s : State) (g : Nat) (x : Gen) (i n : Nat) (b : List Byte) : ColLanded :=
  match genRed s g x with
  | some (.ledger w) =>
    let p := ledgerWords w true n b
    let vals := p.1.map (ledgerVal w x.grid)
    if cLand x.words then
      { r := { data := p.1.flatMap fun v => bytesOf (w / 8) (ofI w v), bad := p.2 }, vals, count := p.1.length }
    else landVals s g x i vals p.2
  | some (.deep f64) =>
    let p := deepElems f64 n b
    landVals s g x i (p.1.map (Deep.val f64)) p.2
  | some (.canon f) => landVals s g x i (((codesIn (fmtBytes f) b).take n).map (decodeF f)) false
  | some (.select _ f) => landVals s g x i (((codesIn (fmtBytes f) b).take n).map (decodeF f)) false
  | none =>
    if cScl x.words then landScaled s g x i n b
    else
      let cs := (codesIn (etBytes (cSet x.words)) b).take n
      if cSet x.words = cDet x.words then { r := { data := b.take (n * etBytes (cSet x.words)) }, vals := [], count := cs.length }
      else
        { r := landedOf (cDet x.words) ((indexed 0 cs).map fun p =>
            convert (cSet x.words) (cDet x.words) (cRnd x.words) (cOvf x.words) (genG s g x 0 (i + p.1)) p.2) false
          vals := [], count := cs.length }

/-- Writes landed bytes; what does not translate parks and waits in spill (05 R13, R156, R159). -/
def colWrite (g num chunk va : Nat) (l : List Byte) : M Unit := do
  let s ← cur
  let v := grpVi s g
  match findGen s g num with
  | none => pure ()
  | some x =>
    let f ← (if x.spill.isEmpty then engWrite v va l else pure (some (0, 0, 0, 0, 0, 0)))
    match f with
    | none => pure ()
    | some (k, fva, code, stage, level, ipa) => do
      whenB x.spill.isEmpty
        (mmuFault v fva code stage level ipa agRecv aWrite 0 (.recvCol g num chunk) (nowNs s))
      if x.spill.isEmpty && code == fRange then abortEnd g x geXlate
      else
        putGen g { x with spill := x.spill ++ [(chunk, va + k, l.drop k)] }
        let b ← mereTakeN (mereOwner v (dataTc x)) (viInc s v) 1
        let s ← cur
        match b, findGen s g num with
        | some bs, some x => putGen g { x with mere := x.mere ++ bs }
        | none, some _ => waitCells v (viInc s v) (dataTc x) (genHdr s g num chunk) (cellsOf (l.length - k))
        | _, none => pure ()

/-- The spilled bytes of a generation are written again from the front (05 R156). -/
def colUnspill (g num : Nat) : Nat → M Unit
  | 0 => pure ()
  | n + 1 => do
    let s ← cur
    match findGen s g num with
    | none => pure ()
    | some x =>
      match x.spill with
      | [] => do
        mereDrop x.mere
        dropCells (genHdrOf g num)
        putGen g { x with mere := [] }
      | (c, va, l) :: rest => do
        let f ← engWrite (grpVi s g) va l
        match f with
        | none => do
          putGen g { x with spill := rest }
          colUnspill g num n
        | some (k, fva, code, stage, level, ipa) => do
          putGen g { x with spill := (c, va + k, l.drop k) :: rest }
          mmuFault (grpVi s g) fva code stage level ipa agRecv aWrite 0 (.recvCol g num c) (nowNs s)
          whenB (code == fRange) (abortEnd g x geXlate)

/-- Elements of the four comparators of a VI (08 R259). -/
def cmpElems (s : State) (v : Nat) : List Nat := (upto 4).map fun k => getF s (F.TARN_VI_CMP_CFG_ELEM v k)

/-- The larger of two F64 codes. -/
def maxF64 (a : W64) (x : Ex) : W64 := BitVec.ofNat 64 (narrow .f64 0 1 0 (exMin true (decodeF .f64 a.toNat) x)).code

/-- The landed value of element k: what DST holds, as F64. -/
def landedVal (x : Gen) (r : ColLanded) (k : Nat) : W64 :=
  let n := etBytes (cDet x.words)
  BitVec.ofNat 64 (narrow .f64 0 1 0
    (if cLand x.words then r.vals.getD k .nan
     else etVal (cDet x.words) (ofBytes ((r.r.data.drop (k * n)).take n)))).code

/-- What a landing leaves on the generation: blocks, the maximum of a MAXABS, and samples for the comparators. -/
def withLanded (s : State) (g : Nat) (x : Gen) (chunk first i : Nat) (r : ColLanded) : Gen :=
  let bl := (upto (cdiv r.count 32)).map fun k => (chunk, first + k)
  let es := (cmpElems s (grpVi s g)).filter fun e => decide (i ≤ e ∧ e < i + r.count)
  { x with
    landed := x.landed ++ bl.filter fun b => !x.landed.contains b
    maxAbs := if cRop x.words = 3 then r.vals.foldl maxF64 x.maxAbs else x.maxAbs
    samples := (x.samples.filter fun p => !es.contains p.1) ++ es.map fun e => (e, landedVal x r (e - i)) }

/-- Landing of a run of blocks of a chunk. -/
def landRun (g num chunk first : Nat) (b : List Byte) : M Unit := do
  let s ← cur
  match findGen s g num with
  | none => pure ()
  | some x =>
    let sp := chunkSpan x.op x.words chunk
    let m := meet sp (landSpan s g x)
    let i := sp.1 + first * 32
    let r := landElems s g x i (m.2 - i) b
    if i < m.1 ∨ r.count = 0 ∧ r.r.bad = false then pure ()
    else
      watchLanded (grpVi s g) r.r
      putGen g (withLanded s g x chunk first i r)
      colWrite g num chunk (cDst x.words + (i - dstBase s g x) * cDetBytes s g x.words) r.r.data
      whenB r.r.bad do
        watch (grpVi s g) wMalformed 1
        let s' ← cur
        match findGen s' g num with
        | some x => abortStart g x acMalformed
        | none => pure ()

/-- Landing of blocks of a token (07 R230-R232); `tok` tells its source, and of a COMBINE how many contributions it
sums (DESIGN CHOICE, log entry 12). -/
def landToken (g num first idx : Nat) (tok : TokenRef) (b : List Byte) : M Unit := do
  let s ← cur
  match findGen s g num with
  | none => pure ()
  | some x =>
    let l := x.words
    let disp := x.op == opDispatch
    let place := if disp then tok.expert * tkCap l + slotOf x tok.rank tok.expert idx else tok.token
    let fits := if disp then decide (slotOf x tok.rank tok.expert idx < tkCap l) && countsAll s g x
      else decide (tok.token < cCount l)
    whenB (fits && !x.landed.contains (place, first)) do
      let h := tkH l
      let r := landElems s g x (place * h + first * 32) (h - first * 32) b
      watchLanded (grpVi s g) r.r
      let x := withLanded s g x place first 0 { r with vals := [] }
      putGen g { x with samples := [], summed := x.summed + tok.k * cdiv r.count 32 }
      colWrite g num (chunkCount x.op l) (cDst l + (place * h + first * 32) * etBytes (cDet l)) r.r.data
      whenB (disp && first == 0)
        (colWrite g num (chunkCount x.op l) (cDst l + tkEloc l * tkCap l * h * etBytes (cDet l) + 8 * place)
          (bytesOf 8 (originWord tok.rank tok.token tok.k)))
      whenB r.r.bad do
        watch (grpVi s g) wMalformed 1
        let s' ← cur
        match findGen s' g num with
        | some x => abortStart g x acMalformed
        | none => pure ()

/-- COL_DATA (07 R211, R216, 08 R244): a landing frame. -/
def execColData (a : Addr) (f : ColFrame) (s : State) : Host.Outcome State Fault Refusal :=
  act (inbound a [1, 2, 3, 4, 5] do
    let s ← cur
    if !destOk s a then dropFor a.dvi
    else
      match ctxOf s a.dvi f.gid.toNat with
      | none => pure ()
      | some g =>
        match findGen s g f.gen.toNat with
        | none => watch (a.dvi % 16) wStale 1
        | some x =>
          if newerAttempt x.attempt f.attempt.toNat then watch (a.dvi % 16) wStale 1
          else if f.digest.toNat ≠ x.digest then
            whenB (x.state != .ended && x.state != .done) (abortEnd g x geMismatch)
          else if x.state ≠ .running ∨ f.attempt.toNat ≠ x.attempt then pure ()
          else
            match f.tok with
            | some tok => landToken g x.num f.first f.chunk tok f.payload
            | none => whenB (!chunkDone x f.chunk) (landRun g x.num f.chunk f.first f.payload)) s

/-! Sending (07 R11, R221-R224, R226, 08 R255). -/

/-- SRC bytes of elements from e0 to e1 of a member's part: offset and length. -/
def srcBytes (s : State) (g : Nat) (x : Gen) (e0 e1 : Nat) : Nat × Nat :=
  let l := x.words
  let k := e0 - srcBase s g x
  match (if cScl l then etFmt (cSet l) else none) with
  | some f => (k / 32 * stridedSize f (cEsc l), cdiv (e1 - e0) 32 * stridedSize f (cEsc l))
  | none => (k * etWidth (cSet l) / 8, cdiv ((e1 - e0) * etWidth (cSet l)) 8)

/-- A scaled block as it travels: a zero block goes as its code alone (02 R42, 08 R255). -/
def packScaled (b : List Byte) : List Byte := if b.headD 0 = 255 then [255] else b

/-- Codes of a run. -/
def codesRun (l : List W64) (n : Nat) (b : List Byte) : List Nat := unpackW (etWidth (cSet l)) n (ofBytes b)

/-- The blocks of a run in wire form, from block `first`, element i of the vector: with the watch counts of saturation,
non-finite inputs and grid flushes. -/
def wireBlocks (s : State) (g : Nat) (x : Gen) (first i n : Nat) (b : List Byte) :
    List (Nat × List Byte) × Nat × Nat × Nat :=
  match genRed s g x with
  | some k =>
    let cs := (indexed 0 (chunks 32 (codesRun x.words n b))).map fun p =>
      (first + p.1, Red.contribute k (cSet x.words) x.grid (cRnd x.words) (cOvf x.words)
        (fun j => genG s g x (grpRank s g) (i + 32 * p.1 + j)) p.2)
    (cs.map fun p => (p.1, Red.encode k p.2.1), sumOf (fun p => p.2.2.1) cs, sumOf (fun p => p.2.2.2.1) cs,
      sumOf (fun p => p.2.2.2.2) cs)
  | none =>
    match (if cScl x.words then etFmt (cSet x.words) else none) with
    | some f =>
      ((indexed first (chunks (stridedSize f (cEsc x.words)) b)).map fun p => (p.1, packScaled p.2), 0, 0, 0)
    | none => (indexed first (chunks (4 * etWidth (cSet x.words)) b), 0, 0, 0)

/-- Blocks gathered into payloads of at most `limit` bytes. -/
def gather (limit : Nat) : List (Nat × List Byte) → List (Nat × List Byte)
  | [] => []
  | (k, l) :: rest =>
    match gather limit rest with
    | (j, m) :: r => if j = k + 1 ∧ l.length + m.length ≤ limit then (k, l ++ m) :: r else (k, l) :: (j, m) :: r
    | [] => [(k, l)]

/-- The chunk header of a scaled payload (11 R321). -/
def sclHdr (l : List W64) : List Byte :=
  if cScl l then bytesOf 4 (cScale l) ++ bytesOf 4 (cSet l + 16 * b2n (cEsc l)) else []

/-- K0 and K1 of COL_DATA (11 R321). -/
def colK0 (s : State) (g : Nat) (x : Gen) : W64 := BitVec.ofNat 64 (grpGid s g + x.num % 2 ^ 32 * 2 ^ 32)
def colK1 (s : State) (g : Nat) (x : Gen) (chunk block : Nat) : W64 :=
  BitVec.ofNat 64 (x.attempt % 256 + grpRank s g % 1024 * 2 ^ 8 + chunk % 2 ^ 28 * 2 ^ 18 + block % 2 ^ 16 * 2 ^ 46)

/-- COL_DATA frames of a payload to a rank; they are held for the replays of other members. -/
def sendCol (g num chunk wire block dest : Nat) (pay : List Byte) : M Unit := do
  let s ← cur
  match findGen s g num, (grpSt s g).members[dest]? with
  | some x, some w =>
    (chunks 4096 pay).forM fun p => do
      let h := mkHdr s 3 (membDev w) (membVi w) (membInc w) (grpVi s g) (viInc s (grpVi s g)) p.length (colK0 s g x)
        (colK1 s g x wire block)
      send (.send (dataTc x) h p)
      let s' ← cur
      match findGen s' g num with
      | some y => putGen g { y with held := y.held ++ [(chunk, h, p)] }
      | none => pure ()
  | _, _ => pure ()

/-- Ranks that chunk c goes to. -/
def chunkTo (s : State) (g : Nat) (x : Gen) (c : Nat) : List Nat :=
  if opTokens x.op then upto (grpN s g)
  else
    let m := meet (chunkSpan x.op x.words c) (sendSpan s g x)
    ((upto (cdiv (m.2 - m.1) 32)).flatMap fun k => blockTo s g x (m.1 + 32 * k)).eraseDups

/-- Whether every rank that chunk c goes to has posted its credit. -/
def credited (s : State) (g : Nat) (x : Gen) (c : Nat) : Bool :=
  (chunkTo s g x c).all fun r => x.credits.any fun p => p.1 == r && decide (c < p.2 ∨ opTokens x.op = true)

/-- A chunk has been sent; one that lands nothing here needs no more (13 R381). -/
def chunkSent (g num c : Nat) : M Unit := do
  let s ← cur
  match findGen s g num with
  | none => pure ()
  | some x =>
    let x : Gen := { x with sent := x.sent ++ [c] }
    let x := if landsChunk s g x c then x else withCommit x c
    putGen g x
    talusGen g x false
    partCheck g num

/-- The blocks of a chunk leave: to the ranks of each, or, in a group of one, they land (07 R226). -/
def sendBlocks (g : Nat) (x : Gen) (c : Nat) (base : Nat) (bl : List (Nat × List Byte)) : M Unit := do
  let s ← cur
  let limit := if cScl x.words then 4088 else 4096
  if grpN s g = 1 then
    let red := bl.map fun p => (p.1, match genRed s g x with
      | some k => ((Red.decode k p.2).map fun v => Red.encode k (Red.reduce k [v])).getD p.2
      | none => p.2)
    (gather limit red).forM fun p => landRun g x.num c p.1 (sclHdr x.words ++ p.2)
  else
    (chunkTo s g x c).forM fun r =>
      (gather limit (bl.filter fun p => (blockTo s g x (base + 32 * p.1)).contains r)).forM fun p =>
        sendCol g x.num c c p.1 r (sclHdr x.words ++ p.2)

/-- A chunk of a vector. -/
def sendVector (g : Nat) (x : Gen) (c : Nat) : M Unit := do
  let s ← cur
  let sp := chunkSpan x.op x.words c
  let m := meet sp (sendSpan s g x)
  let o := srcBytes s g x m.1 m.2
  colRead g x c (cSrc x.words + o.1) o.2 fun b => do
    let s ← cur
    let r := wireBlocks s g x ((m.1 - sp.1) / 32) m.1 (m.2 - m.1) b
    watch (grpVi s g) wSat r.2.1
    watch (grpVi s g) wNonfinite r.2.2.1
    watch (grpVi s g) wGridflush r.2.2.2
    whenB (grpN s g == 1 && opReduces x.op && cRop x.words == 3)
      (watch (grpVi s g) wNonfinite
        (cnt (fun e => exNonfinite (etVal (cSet x.words) e)) (codesRun x.words (m.2 - m.1) b)))
    sendBlocks g x c sp.1 r.1
    chunkSent g x.num c

/-- A token's H elements leave for a rank, or land here in a group of one; its origin word goes in front (DESIGN CHOICE, log entry 12). -/
def sendToken (g : Nat) (x : Gen) (c place dest wire : Nat) (tok : TokenRef) (b : List Byte) : M Unit := do
  let s ← cur
  let r := wireBlocks s g x 0 (place * tkH x.words) (tkH x.words) b
  watch (grpVi s g) wSat r.2.1
  watch (grpVi s g) wNonfinite r.2.2.1
  watch (grpVi s g) wGridflush r.2.2.2
  let limit := if cScl x.words then 4080 else 4088
  (gather limit r.1).forM fun p =>
    if grpN s g = 1 ∧ x.op = opDispatch then landToken g x.num p.1 wire tok (sclHdr x.words ++ p.2)
    else sendCol g x.num c wire p.1 dest (bytesOf 8 (originWord tok.rank tok.token tok.k) ++ sclHdr x.words ++ p.2)

/-- A chunk of tokens of a DISPATCH (07 R230, R231). -/
def sendDispatch (g : Nat) (x : Gen) (c : Nat) : M Unit := do
  let l := x.words
  let sp := chunkSpan x.op l c
  let tb := tokenSrcBytes l
  colRead g x c (tableAt x).1 (tableAt x).2 fun rb =>
    colRead g x c (cSrc l + sp.1 * tb) ((sp.2 - sp.1) * tb) fun b => do
      let s ← cur
      let rs := (routes (grpN s g) l rb).1
      (indexed 0 rs).forM fun p => do
        let (t, k, d, e) := p.2
        let idx := cnt (fun q => q.2.2.1 == d && q.2.2.2 == e) (rs.take p.1)
        whenB (decide (sp.1 ≤ t ∧ t < sp.2))
          (sendToken g x c t d idx { rank := grpRank s g, token := t, k, expert := e } ((b.drop ((t - sp.1) * tb)).take tb))
      chunkSent g x.num c

/-- A chunk of slots of a COMBINE (07 R232). -/
def sendCombine (g : Nat) (x : Gen) (c : Nat) : M Unit := do
  let l := x.words
  let sp := chunkSpan x.op l c
  let tb := tokenSrcBytes l
  colRead g x c (tableAt x).1 (tableAt x).2 fun ob =>
    colRead g x c (cSrc l + sp.1 * tb) ((sp.2 - sp.1) * tb) fun b => do
      let s ← cur
      (origins ob).forM fun o =>
        whenB (decide (sp.1 ≤ o.1 ∧ o.1 < sp.2 ∧ o.2.1 < grpN s g))
          (sendToken g x c o.2.2.1 o.2.1 o.2.2.1
            { rank := o.2.1, token := o.2.2.1, k := o.2.2.2, expert := o.1 / tkCap l }
            ((b.drop ((o.1 - sp.1) * tb)).take tb))
      chunkSent g x.num c

/-- Whether a generation's access of a mark is parked. -/
def colParked (s : State) (g num mark : Nat) : Bool :=
  (mmuSt s (grpVi s g)).recs.any (fun r => r.parked.any fun p => p.who == .col g num mark) ||
  (mmuSt s (grpVi s g)).waiting.any fun p => p.who == .col g num mark

/-- A chunk is read and sent, once receive credit allows (07 R11, R233, 13 R381). -/
def sendChunk (g gen c : Nat) : M Unit := do
  let s ← cur
  match findGen s g gen with
  | none => pure ()
  | some x =>
    whenB (enginesRun s && x.state == .running && cCount x.words != 0 && decide (c < chunkCount x.op x.words) &&
        sendsChunk s g x c && !x.sent.contains c && decide (c < x.low + 64) && credited s g x c &&
        !colParked s g gen c) do
      if x.op = opDispatch then sendDispatch g x c
      else if x.op = opCombine then sendCombine g x c
      else sendVector g x c

/-- CHUNK_SEND. -/
def execChunkSend (g : GrpNo) (gen : W32) (chunk : Nat) (s : State) : Host.Outcome State Fault Refusal :=
  act (sendChunk g.val gen.toNat chunk) s

/-! Commit (07 R216, 13 R381). -/

/-- A member counter of a group is raised, and its EXPECTED tally with it (06 R190, 07 R216). -/
def memberSignal (v k n : Nat) : M Unit := do
  let s ← cur
  match ctrOf s v k with
  | none => pure ()
  | some c => do
    modDma fun y => { y with expected := smSet 0 y.expected c ((smGet 0 y.expected c + n) % 2 ^ 32) }
    ctrAdd c n

/-- A chunk commits: CSIG, and its Talus record. -/
def commitChunk (g : Nat) (x : Gen) (c : Nat) : M Unit := do
  let s ← cur
  whenB (cCsigEn x.words) (memberSignal (grpVi s g) (cCsig x.words) (cInc x.words))
  let x := { withCommit x c with aborters := [] }
  putGen g x
  talusGen g x false
  partCheck g x.num

/-- The slots that no token takes, and the tokens that no contribution reaches (07 R231, R232). -/
def fillTokens (g : Nat) (x : Gen) : M Unit := do
  let s ← cur
  let l := x.words
  let db := etBytes (cDet l)
  if x.op = opDispatch then
    (upto (tkEloc l)).forM fun e =>
      (upto (tkCap l - expertTotal s g x e)).forM fun j =>
        let place := e * tkCap l + expertTotal s g x e + j
        colWrite g x.num (chunkCount x.op l) (cDst l + tkEloc l * tkCap l * tkH l * db + 8 * place) (bytesOf 8 0)
  else
    (upto (cCount l)).forM fun t =>
      whenB (!x.landed.any fun p => p.1 == t)
        (colWrite g x.num (chunkCount x.op l) (cDst l + t * tkH l * db) (bytesOf (tkH l * db) 0))

/-- CHUNK_COMMIT (07 R216, 13 R381): of a chunk whose blocks have all landed and been written. -/
def execChunkCommit (g : GrpNo) (gen : W32) (chunk : Nat) (s : State) : Host.Outcome State Fault Refusal :=
  act (do
    let s ← cur
    match findGen s g gen.toNat with
    | none => pure ()
    | some x =>
      let last := chunkCount x.op x.words
      let c := if opTokens x.op then last else chunk
      let ready := fun (x : Gen) => x.spill.all fun p => p.1 != c
      whenB (enginesRun s && x.state == .running && cCount x.words != 0 && !chunkDone x c && ready x &&
          chunkLanded s g x c && (opTokens x.op || landsChunk s g x c)) do
        if opTokens x.op then do
          fillTokens g x
          let s' ← cur
          match findGen s' g x.num with
          | none => pure ()
          | some y => whenB (ready y && y.state == .running) (commitChunk g y c)
        else commitChunk g x c) s

/-! The end of a generation (07 R216, R217, R219, 08 R259). -/

/-- An F64 operation rounded with RNE. -/
def f64Of (x : Ex) : Ex := decodeF .f64 (narrow .f64 0 1 0 x).code

/-- A sample of a comparator (08 R259). -/
def cmpSample (v k : Nat) (code : W64) : M Unit := do
  let s ← cur
  let x := decodeF .f64 code.toNat
  let ref := decodeF .f64 (getF s (F.TARN_VI_CMP_REF_REF v k))
  let seen := getF s (F.TARN_VI_CMP_STAT_SEEN v k)
  let factor := decodeF .f32 (getF s (F.TARN_VI_CMP_FACTOR_FACTOR v k))
  let spiked := exCmp x (f64Of (exMul factor ref).1) == some .gt
  let nonfin := exNonfinite x
  let spike := nonfin || (seen != 0 && decide (getF s (F.TARN_VI_CMP_CFG_WARM v k) ≤ seen) && spiked)
  putF (F.TARN_VI_CMP_LAST_LAST v k) code.toNat
  (if spike then pure ()
   else if seen = 0 then putF (F.TARN_VI_CMP_REF_REF v k) code.toNat
   else
    let d := f64Of (exAdd 0 x (exNeg ref)).1
    let m := f64Of (exScale (-(getF s (F.TARN_VI_CMP_CFG_ALPHA v k) : Int)) d)
    putF (F.TARN_VI_CMP_REF_REF v k) (narrow .f64 0 1 0 (exAdd 0 ref m).1).code)
  putF (F.TARN_VI_CMP_STAT_SEEN v k) (min (seen + 1) 0xFFFF)
  whenB spike do
    putF (F.TARN_VI_CMP_STAT_SPIKE v k) 1
    whenB nonfin (putF (F.TARN_VI_CMP_STAT_NONFIN v k) 1)
    addSat (F.TARN_VI_CMP_STAT_SPIKES v k) 1
    event 0x05 9 (4 * v + k)
    watchNote v

/-- The comparators of a VI sample a generation that is DONE. -/
def cmpSamples (g : Nat) (x : Gen) : M Unit := do
  let s ← cur
  let v := grpVi s g
  let root := x.op == opReduce && cArg x.words == grpRank s g
  whenB ((x.op == opAllred || root) && cRop x.words == 0) <|
    (upto 4).forM fun k =>
      let e := getF s (F.TARN_VI_CMP_CFG_ELEM v k)
      whenB (flag s (F.TARN_VI_CMP_CFG_EN v k) &&
          getF s (F.TARN_VI_CMP_CFG_GRP v k) + getF s (F.COL_VI_CFG_BASE v) == g && decide (e < cCount x.words)) do
        match x.samples.find? fun p => p.1 == e with
        | some p => cmpSample v k p.2
        | none => pure ()

/-- The grid exponent is latched (07 R219). -/
def latchG (g : Nat) (x : Gen) : M Unit := do
  let s ← cur
  whenB (x.op == opAllred && cRop x.words == 3) do
    let i := autoGrid (if grpWidth s g = 0 then 64 else 128) (decodeF .f64 x.maxAbs.toNat)
    whenB (grpMode s g == 0) do
      putF (F.COL_GRP_G_GV g) 1
      putF (F.COL_GRP_G_G g) (ofI 12 i)
    let next := getF s (F.COL_GRP_GEN_NEXT g)
    modGrp g fun y => { y with grids := (y.grids.filter fun p => inWindow next p.1) ++ [(x.num, some i)] }

/-- The status record (07 R217). -/
def statusRecord (s : State) (g : Nat) (x : Gen) : List Byte :=
  bytesOf 8 (x.code + min 0xFF x.replays * 2 ^ 8 +
    (if x.op = opDispatch ∧ x.code = 0 then min 0xFFFF (droppedTokens s g x) else 0) * 2 ^ 16 + x.num % 2 ^ 32 * 2 ^ 32)

/-- The record has been decided: comparators and grid, GSIG, and the slot (07 R216, 08 R260). -/
def genFinish (g : Nat) (x : Gen) : M Unit := do
  let s ← cur
  let done := x.state == .committed
  whenB done do
    cmpSamples g x
    latchG g x
    countEv 4 1 (dieOfGrp g) (grpOwner s g) 1
  whenB (cGsigEn x.words) (memberSignal (grpVi s g) (cGsig x.words) (cInc x.words))
  modGrp g fun y =>
    { y with gens := if done then y.gens.map fun z => if !z.barrier && z.num == x.num then { z with state := .done } else z
        else y.gens.filter fun z => z.barrier || z.num != x.num }
  slotFreed g

/-- GEN_STATUS_ACKED (07 R216): the record is written, and acknowledged within the step; a fault of it parks. -/
def genStatus (g gen : Nat) : M Unit := do
  let s ← cur
  match findGen s g gen with
  | none => pure ()
  | some x =>
    whenB (enginesRun s && (x.state == .committed || x.state == .ended) && !colParked s g gen markStat) do
      if cStat x.words = 0 then genFinish g x
      else
        let v := grpVi s g
        let f ← engWrite v (cStat x.words) (statusRecord s g x)
        match f with
        | none => genFinish g x
        | some (_, va, code, stage, level, ipa) => do
          mmuFault v va code stage level ipa agDma aWrite 0 (.col g gen markStat) (nowNs s)
          whenB (code == fRange) do
            putF (F.COL_GRP_STAT_NOSTAT g) 1
            genFinish g x

/-- GEN_STATUS_ACKED. -/
def execGenStatusAcked (g : GrpNo) (gen : W32) (s : State) : Host.Outcome State Fault Refusal :=
  act (genStatus g.val gen.toNat) s

/-! Retried and aborted accesses (05 R156). -/

/-- A source access, or the status write, walks again. -/
def colRetry (g gen mark : Nat) : M Unit :=
  if mark = markTable then genLaunch g gen else if mark = markStat then genStatus g gen else sendChunk g gen mark

/-- A source access, or the status write, is aborted. -/
def colAbort (g gen mark : Nat) : M Unit := do
  let s ← cur
  match findGen s g gen with
  | none => pure ()
  | some x =>
    if mark = markStat then do
      putF (F.COL_GRP_STAT_NOSTAT g) 1
      genFinish g x
    else abortEnd g x geXlate

/-- An inbound landing walks again, or is aborted. -/
def recvColRetry (g gen : Nat) : M Unit := do
  let s ← cur
  match findGen s g gen with
  | none => pure ()
  | some x => colUnspill g gen (x.spill.length + 1)
def recvColAbort (g gen : Nat) : M Unit := do
  let s ← cur
  match findGen s g gen with
  | none => pure ()
  | some x => abortEnd g x geXlate

/-! The re-alignment barrier (06 R190). -/

/-- A counter whose ARRIVED has drifted from EXPECTED by d. -/
def realignCtr (g c gen : Nat) : M Unit := do
  let s ← cur
  let exp := smGet 0 s.sys.dma.expected c
  let d := toI 32 ((getF s (F.SIG_ARR_ARRIVED c) + 2 ^ 32 - exp) % 2 ^ 32)
  whenB (d != 0) do
    putF (F.SIG_CTR_DRIFT c) 1
    whenB (!flag s (F.COL_GRP_CFG_REPORT_ONLY g)) do
      (if 0 < d then ctrSub c d.toNat
       else
        let n := ctrVal s c + d.natAbs
        if n > 0xFFFFFFFF then do
          putF (F.SIG_CTR_VALUE c) 0xFFFFFFFF
          putF (F.SIG_CTR_OVF c) 1
          ctrEvent c 1
          ctrChanged c
        else do
          putF (F.SIG_CTR_VALUE c) n
          ctrChanged c)
      putF (F.SIG_ARR_ARRIVED c) exp
    send (.report 2 (bytesOf 4 (ofI 32 d) ++ bytesOf 4 (grpGid s g) ++ bytesOf 4 gen ++ bytesOf 4 c))

/-- REALIGN_CHECK: the barrier at the front of the live generations compares, and frees its slot. -/
def execRealignCheck (g : GrpNo) (s : State) : Host.Outcome State Fault Refusal :=
  act (do
    let s ← cur
    match liveGens (grpSt s g).gens with
    | [] => pure ()
    | b :: _ =>
      whenB (enginesRun s && b.barrier) do
        (grpSt s g).ctrs.forM fun c => realignCtr g c b.num
        let done := (grpSt s g).gens.filter fun z => z.state == .done
        modGrp g fun y =>
          { y with gens := done ++ ((liveGens (grpSt s g).gens).drop 1) }
        slotFreed g) s

end Sys2Proof.Machine
end

