-- ==== Sys2Proof/Machine/Hbm.lean ====
section
/-! DEFINITION. Errors of the HBM and the retirement of its channels (05 R150, 13 R394, R403). -/
namespace Sys2Proof.Machine

/-- A free choice between two: what the spec does not let the model know. -/
def takeBit : M Bool := do
  let c ← takeFree
  return c.toNat % 2 == 1

/-- An entry of the error queue about an HBM channel; its code is a free value. -/
def hbmPost (cls c : Nat) (info : W64) : M Unit := do
  let k ← takeFree
  postErr { cls, unit := 10, index := c, code := bits k.toNat 7 0, vi := none, inc := 0, overlap := false, info }

/-- The first 4 KiB page of a VI whose frame lies in a channel (05 R135, R140). -/
def pageIn (s : State) (c v : Nat) : Option Nat :=
  (upto (allotHbm s v / 4096)).find? fun p => dpaChannel ((s2Entry s v p).1 * 4096) == c

/-- The first page of any VI that lies in a channel. -/
def pageOfChannel (s : State) (c : Nat) : Option (Nat × Nat) :=
  (upto 16).findSome? fun v => if viPresent s v then (pageIn s c v).map fun p => (v, p) else none

/-- MIG is set on the 4 KiB entry of a page (05 R150). -/
def setMig (v page : Nat) : M Unit := do
  let s ← cur
  let e : S2 := { vi := v, page, frame := (s2Entry s v page).1, mig := true }
  modFaults fun y => { y with s2 := (y.s2.filter fun x => !(x.vi == v && x.page == page)) ++ [e] }

/-- A channel has no page left: it leaves service (05 R150, 13 R394). -/
def channelOut (c : Nat) : M Unit := do
  withScore (objHbm c) (modFaults fun y =>
    { y with hbmRetiring := y.hbmRetiring.filter (· != c), hbmRetired := y.hbmRetired ++ [c] })
  hbmPost 3 c 0

/-- The next entry of a channel that is being retired is put under migration, one at a time (05 R150). Where the stack
has no free frame, the retirement waits and an HBM entry is posted (13 R394). -/
def retireChannels : List Nat → M Unit
  | [] => pure ()
  | c :: rest => do
    let s ← cur
    match pageOfChannel s c with
    | none => do
      channelOut c
      retireChannels rest
    | some (v, p) => do
      let room ← takeBit
      if room then setMig v p
      else do
        hbmPost 3 c 0
        retireChannels rest

/-- The retirements go on while no entry is under migration. -/
def retireNext : M Unit := do
  let s ← cur
  whenB (!s.sys.faults.s2.any fun e => e.mig) (retireChannels s.sys.faults.hbmRetiring)

/-- A channel is to be retired. -/
def retireChannel (c : Nat) : M Unit := do
  let s ← cur
  whenB (!s.sys.faults.hbmRetiring.contains c && !s.sys.faults.hbmRetired.contains c) do
    modFaults fun y => { y with hbmRetiring := y.hbmRetiring ++ [c] }
    retireNext

/-- A corrected error: the row is replaced after its second one within a scrub pass, and the channel is retired when no
spare row of the bank is left (13 R394); whether one is left is a free choice. -/
def hbmCorrected (c row : Nat) : M Unit := do
  let s ← cur
  countEv 10 3 c none 1
  healthAdd (objHbm c) 1
  if s.sys.faults.hbmRows.contains (c, row) then do
    modFaults fun y => { y with hbmRows := y.hbmRows.erase (c, row) }
    let spare ← takeBit
    whenB (!spare) (retireChannel c)
  else modFaults fun y => { y with hbmRows := y.hbmRows ++ [(c, row)] }

/-- An uncorrectable error: 250 points, and an entry of the error queue whose INFO is a free value. -/
def hbmUncorrected (c : Nat) : M Unit := do
  healthAdd (objHbm c) 250
  let info ← takeFree
  hbmPost 2 c info

/-- HBM_ECC_ERROR (13 R394, R403). -/
def execHbmEccError (channel : Fin 256) (row : Nat) (corrected : Bool) (s : State) :
    Host.Outcome State Fault Refusal :=
  act (do
    let s ← cur
    whenB (live s) (if corrected then hbmCorrected channel row else hbmUncorrected channel)) s

end Sys2Proof.Machine
end

