-- ==== Sys2Proof/Machine/MmuService.lean ====
section
/-! DEFINITION. Fault service (05 R146, R153-R159), pre-emption and restoring of a tile (R164-R168), frame migration
(R150), and the host's accesses to memory (R162, 12 R353, R370). -/
namespace Sys2Proof.Machine

/-! Resuming (R155, R156). -/

/-- A descriptor that was parked walks again: one whose bytes come from host memory asks for them again. -/
def descRetry (q : QRef) (seq : Nat) : M Unit := do
  let s ← cur
  match findDesc s q seq with
  | none => pure ()
  | some d =>
    if d.state ≠ .parked then pure ()
    else if dSrcHm d.words then do
      putDesc { d with state := .queued }
      send (.hostRead (hqLink (qNum q)) (dSrcBus d.words) (srcLen (dCv s d.vi d.words) (dLen d.words)))
    else descMove d (dTc d.words) none

/-- A parked access walks again, with the start of its wait. -/
def agentRetry (p : Parked) : M Unit :=
  match p.who with
  | .tile t => modCore t fun c => if c.stall = .xlate then { c with state := .run, stall := .none } else c
  | .dma q seq => if h : q < 1024 then descRetry (.dma ⟨q, h⟩) seq else pure ()
  | .host q seq => if h : q < 512 then descRetry (.host ⟨q, h⟩) seq else pure ()
  | .col g gen mark => colRetry g gen mark
  | .recvDma x => rxRetry x
  | .recvCol g gen _ => recvColRetry g gen

/-- A descriptor that was parked ends with XLATE_ABORT. -/
def descAbort (q : QRef) (seq : Nat) : M Unit := do
  let s ← cur
  match findDesc s q seq with
  | some d => whenB (d.state == .parked) (descEnd d 1)
  | none => pure ()

/-- A parked access is aborted. -/
def agentAbort (p : Parked) : M Unit := do
  let s ← cur
  match p.who with
  | .tile t => whenB ((tileOf s t).core.stall == .xlate) (raise t xXlate (BitVec.ofNat 64 p.va))
  | .dma q seq => if h : q < 1024 then descAbort (.dma ⟨q, h⟩) seq else pure ()
  | .host q seq => if h : q < 512 then descAbort (.host ⟨q, h⟩) seq else pure ()
  | .col g gen mark => colAbort g gen mark
  | .recvDma x => rxAbort x
  | .recvCol g gen _ => recvColAbort g gen

/-- The records once one of them is resumed: a written one is forgotten. -/
def recsResumed (id : Nat) (l : List FaultRec) : List FaultRec :=
  (l.map fun x => if x.id = id then { x with live := false, parked := [] } else x).filter fun x => x.live || !x.inRing

/-- A record is resumed. -/
def resumeRec (v : Nat) (abort : Bool) (r : FaultRec) : M Unit := do
  modMmu v fun m => { m with recs := recsResumed r.id m.recs }
  r.parked.forM fun p => if abort then agentAbort p else agentRetry p

/-- Agents parked without a record walk again while a record can be held (R153). -/
def wakeWaiting (v : Nat) : Nat → M Unit
  | 0 => pure ()
  | n + 1 => do
    let s ← cur
    match (mmuSt s v).waiting with
    | [] => pure ()
    | p :: rest =>
      if fqFull s v ∧ 256 ≤ (heldRecs s v).length then pure ()
      else do
        modMmu v fun m => { m with waiting := rest }
        agentRetry p
        wakeWaiting v n

/-- A write of MMU_VI_RESUME (R155). -/
def mmuResume (v inc action id : Nat) : M Unit := do
  let s ← cur
  let live := (mmuSt s v).recs.filter fun r => r.live
  let rs := if action = 2 then live else live.filter fun r => r.id == id
  if !enginesRun s then pure ()
  else if inc ≠ viInc s v ∨ action = 3 ∨ (rs.isEmpty = true ∧ action ≠ 2) then putF (F.MMU_VI_FSTAT_BADRES v) 1
  else rs.forM (resumeRec v (action == 1))

/-- RETRY (R155). -/
def execRetry (v : ViNo) (inc : BitVec 8) (faultId : W32) (s : State) : Host.Outcome State Fault Refusal :=
  act (mmuResume v inc.toNat 0 faultId.toNat) s
/-- ABORT_RESUME (R156). -/
def execAbortResume (v : ViNo) (inc : BitVec 8) (faultId : W32) (s : State) : Host.Outcome State Fault Refusal :=
  act (mmuResume v inc.toNat 1 faultId.toNat) s
/-- RETRY_ALL (R155). -/
def execRetryAll (v : ViNo) (inc : BitVec 8) (s : State) : Host.Outcome State Fault Refusal :=
  act (mmuResume v inc.toNat 2 0) s

/-- A write of MMU_VI_FQ_TAIL (R153). -/
def fqTail (v tail : Nat) : M Unit := do
  putF (F.MMU_VI_FQ_TAIL_TAIL v) tail
  fqDrain v 256
  let s ← cur
  whenB (enginesRun s) (wakeWaiting v (mmuSt s v).waiting.length)

/-- FQ_TAIL_WRITE (R153). -/
def execFqTailWrite (v : ViNo) (tail : BitVec 19) (s : State) : Host.Outcome State Fault Refusal :=
  act (fqTail v tail.toNat) s

/-! Invalidation (R146). -/

/-- A write of MMU_VI_INVAL. -/
def mmuInval (v vpn : Nat) (all : Bool) : M Unit := do
  let s ← cur
  if 16 ≤ (mmuSt s v).invals.length then putF (F.MMU_VI_FSTAT_IOVF v) 1
  else do
    modMmu v fun m => { m with invals := m.invals ++ [(vpn, all)] }
    putF (F.MMU_VI_INVAL_STAT_BUSY v) 1

/-- MMU_VI_INVAL (R146). -/
def execMmuViInval (v : ViNo) (vpn : BitVec 36) (all : Bool) (s : State) : Host.Outcome State Fault Refusal :=
  act (mmuInval v vpn.toNat all) s

/-- INVAL_DONE (R146). -/
def execInvalDone (v : ViNo) (s : State) : Host.Outcome State Fault Refusal :=
  act (do
    modMmu v fun m => { m with invals := [] }
    putF (F.MMU_VI_INVAL_STAT_BUSY v) 0) s

/-! The fault-service limit (R157, R158). -/

/-- Whether a parked access of the VI has waited longer than the limit. -/
def overLimit (s : State) (v : Nat) : Bool :=
  let late := fun (p : Parked) => decide (p.since + getF s F.MMU_SVC_LIMIT_LIMIT * 1000 < nowNs s)
  (mmuSt s v).recs.any (fun r => r.parked.any late) || (mmuSt s v).waiting.any late

/-- SVC_LIMIT_EXPIRY (R157). -/
def execSvcLimitExpiry (v : ViNo) (s : State) : Host.Outcome State Fault Refusal :=
  act (do
    let s ← cur
    whenB (live s && overLimit s v) (viFault v causeSvcLimit 2 v 0)) s

/-- A write of MMU_SVC_LIMIT (R158): a value outside the range is stored as the nearer bound. -/
def svcLimit (limit : Nat) : M Unit := putF F.MMU_SVC_LIMIT_LIMIT (max 1000 (min 10000 limit))

/-- SVC_LIMIT_WRITE (R158, 00 R4): an expert field, of no VI. -/
def execSvcLimitWrite (_via : Via) (limit : BitVec 14) (s : State) : Host.Outcome State Fault Refusal :=
  act (do
    let s ← cur
    whenB (expertOn s none) (svcLimit limit.toNat)) s

/-! Migration of frames (R150). -/

/-- FRAME_MIGRATE_DONE (R150): the copy is complete, ADDR names the new frame and MIG is clear; the next entry is
taken. -/
def execFrameMigrateDone (v : ViNo) (ipaPage : Nat) (frame : Nat) (s : State) : Host.Outcome State Fault Refusal :=
  if !dpaExists (frame * 4096) then .fault (.noSuchAddress (frame * 4096))
  else
    act (do
      let s ← cur
      whenB (live s && (s2Entry s v ipaPage).2) do
        emit (.hbm (frame * 4096) (hbmRead s ((s2Entry s v ipaPage).1 * 4096) 4096))
        modFaults fun y =>
          { y with s2 := y.s2.map fun e =>
              if e.vi = v.val ∧ e.page = ipaPage then { e with frame := frame, mig := false } else e }
        retireNext) s

/-! Spill buffers (R159). -/

/-- The transfer or generation that a waiting frame belongs to takes a Mere buffer. -/
def giveBuffer (h : Hdr) (b : List (Nat × Nat)) : M Unit := do
  let s ← cur
  if h.kind = 0 then
    modDma fun y => { y with rxs := y.rxs.map fun x => if rxHdrOf x.key h then { x with mere := x.mere ++ b } else x }
  else
    let g := wf h.k0 31 0
    match findGen s g (wf h.k0 63 32) with
    | some x => putGen g { x with mere := x.mere ++ b }
    | none => pure ()

/-- Frames of a VI and class that wait move into buffers, in arrival order, while Mere has some. -/
def spillAdmit (v tc : Nat) : List DFrame → M Unit
  | [] => pure ()
  | d :: rest => do
    let b ← mereTakeN (mereOwner v tc) d.f.inc.toNat 1
    match b with
    | none => pure ()
    | some b => do
      giveBuffer d.f.hdr b
      modDiv fun y => { y with frames := y.frames.erase d }
      spillAdmit v tc rest

/-- SPILL_ADMIT (R159). -/
def execSpillAdmit (v : ViNo) (tc : Fin 8) (s : State) : Host.Outcome State Fault Refusal :=
  act (do
    let s ← cur
    whenB (enginesRun s)
      (spillAdmit v tc.val (s.sys.div.frames.filter fun d => d.landing && d.f.owner == v.val && d.f.tc == tc))) s

/-! Pre-emption and restoring (R164-R168). -/

/-- Size of a save image. -/
def imageSize : Nat := 165888

/-- Bytes of an accumulator in the layout of its tag (R166). -/
def accImage (s : State) (t a : Nat) : List Byte :=
  if accF64 s t a then
    (upto 1024).flatMap (fun k => bytesOf 8 (smGet 0 (tileOf s t).acc (a * 8192 + k)).toNat) ++ List.replicate 24576 0
  else (upto 8192).flatMap fun k => bytesOf 4 (smGet 0 (tileOf s t).acc (a * 8192 + k)).toNat

/-- CSRs of the header in its order (R166). -/
def imageCsrs : List Nat :=
  [csrVL, csrFFR, csrTCTL, csrFFLAGS, csrSRSEED 0, csrSRSEED 1, csrSRSEED 2, csrSRSEED 3, csrSRTID, csrSRBASE,
   csrTVEC, csrEPC, csrECAUSE, csrEADDR, csrESCRATCH]

/-- The save image (R166). -/
def saveImage (s : State) (t : Nat) : List Byte :=
  let c := (tileOf s t).core
  bytesOf 4 1 ++ bytesOf 1 (b2n c.ih) ++ bytesOf 1 c.tags.toNat ++ bytesOf 2 0 ++ bytesOf 8 c.pc.toNat ++
  imageCsrs.flatMap (fun n => bytesOf 8 (getCsr s t n).toNat) ++ bytesOf 8 c.tapeHead ++ bytesOf 8 c.tapeTail ++
  bytesOf 104 0 ++
  (upto 64).flatMap (fun i => bytesOf 8 (getS s t i).toNat) ++
  (upto 8).flatMap (fun i => bytesOf 128 (if i = 0 then 0 else (getP s t i).toNat)) ++
  bytesOf 256 0 ++
  (upto 32).flatMap (fun i => bytesOf 1024 (getV s t i).toNat) ++
  (upto 4).flatMap (fun a => accImage s t a)

/-- IPA of the save area, and whether it lies wholly inside the allotment. -/
def saveBase (s : State) (t : Nat) : Nat := getF s (F.TILE_SAVE_BASE t) * 4096
def saveFits (s : State) (t : Nat) : Bool := decide (saveBase s t + imageSize ≤ allotHbm s (tileVi s t))

/-- Steps 1 to 5 of a pre-emption (R165). -/
def preemptStart (t : Nat) : M Unit := do
  let s ← cur
  let c := (tileOf s t).core
  if !enginesRun s || !(c.state == .run || c.state == .stall) || c.saving != none then pure ()
  else if !saveFits s t then putF (F.TILE_SAVE_ERR t) 1
  else do
    unpark c.vi (.tile t)
    modDma fun y => { y with waiters := y.waiters.filter fun p => p.2 != t }
    matDrain t
    modCore t fun x =>
      { x with state := .run, stall := .none, xlSince := none, saving := some (.preempt (saveBase s t)) }
    let s ← cur
    ipaWrite c.vi (saveBase s t) (saveImage s t)
    putF (F.TILE_SAVE_ERR t) 0
    putF (F.TILE_SAVE_BUSY t) 1

/-- PREEMPT (R165). -/
def execPreempt (t : TileNo) (s : State) : Host.Outcome State Fault Refusal := act (preemptStart t.val) s

/-- PREEMPT_DONE (R165). -/
def execPreemptDone (t : TileNo) (s : State) : Host.Outcome State Fault Refusal :=
  act (do
    let s ← cur
    match (tileOf s t).core.saving with
    | some (.preempt _) => do
      modCore t fun c => { c with state := .preempt, saving := none }
      putF (F.TILE_SAVE_BUSY t) 0
    | _ => pure ()) s

/-- Bytes of an image from an offset. -/
def imgPart (l : List Byte) (off n : Nat) : List Byte := (l.drop off).take n
def imgWord (l : List Byte) (off n : Nat) : Nat := ofBytes (imgPart l off n)
def zeros (l : List Byte) : Bool := l.all (· == 0)

/-- Whether an image is restored (R167). -/
def imageOk (l : List Byte) : Bool :=
  imgWord l 0 4 == 1 && decide (imgWord l 4 1 < 2) && decide (imgWord l 5 1 < 16) && zeros (imgPart l 6 2) &&
  zeros (imgPart l 14 2) && zeros (imgPart l 152 104) && zeros (imgPart l 0x700 256) &&
  (upto 4).all fun a => !bit (imgWord l 5 1) a || zeros (imgPart l (0x8800 + 32768 * a + 8192) 24576)

/-- An accumulator is loaded in the layout of its tag. -/
def accLoad (t a : Nat) (f64 : Bool) (l : List Byte) : M Unit := do
  emit (.accZero t a)
  (indexed 0 (chunks (if f64 then 8 else 4) (if f64 then l.take 8192 else l))).forM fun p =>
    emit (.acc t (a * 8192 + p.1) (BitVec.ofNat 64 (ofBytes p.2)))

/-- The state of an image is loaded. -/
def imageLoad (t base : Nat) (l : List Byte) : M Unit := do
  modCore t fun c =>
    { c with pc := BitVec.ofNat 48 (imgWord l 8 6), ih := bit (imgWord l 4 1) 0
             tags := BitVec.ofNat 4 (imgWord l 5 1), tapeHead := imgWord l 136 8, tapeTail := imgWord l 144 8
             mat := [], stall := .none, xlSince := none, saving := some (.restore base) }
  (indexed 0 imageCsrs).forM fun p =>
    emit (.csr t p.2 (csrStored p.2 (BitVec.ofNat 64 (imgWord l (16 + 8 * p.1) 8))))
  (upto 64).forM fun i => emit (.sreg t i (BitVec.ofNat 64 (imgWord l (0x100 + 8 * i) 8)))
  (upto 8).forM fun i => emit (.preg t i (BitVec.ofNat 1024 (imgWord l (0x300 + 128 * i) 128)))
  (upto 32).forM fun i => emit (.vreg t i (BitVec.ofNat 8192 (imgWord l (0x800 + 1024 * i) 1024)))
  (upto 4).forM fun a => accLoad t a (bit (imgWord l 5 1) a) (imgPart l (0x8800 + 32768 * a) 32768)

/-- RESTORE reads and checks an image (R167). -/
def restoreStart (t : Nat) : M Unit := do
  let s ← cur
  let c := (tileOf s t).core
  if !enginesRun s || !(c.state == .preempt || c.state == .idle) || c.saving != none then pure ()
  else if !saveFits s t then putF (F.TILE_SAVE_ERR t) 1
  else
    let l := ipaRead s c.vi (saveBase s t) imageSize
    if !imageOk l then putF (F.TILE_SAVE_ERR t) 2
    else do
      imageLoad t (saveBase s t) l
      putF (F.TILE_SAVE_ERR t) 0
      putF (F.TILE_SAVE_BUSY t) 1

/-- RESTORE (R167). -/
def execRestore (t : TileNo) (s : State) : Host.Outcome State Fault Refusal := act (restoreStart t.val) s

/-- RESTORE_DONE (R167). -/
def execRestoreDone (t : TileNo) (s : State) : Host.Outcome State Fault Refusal :=
  act (do
    let s ← cur
    match (tileOf s t).core.saving with
    | some (.restore _) => do
      modCore t fun c => { c with state := .run, saving := none }
      putF (F.TILE_SAVE_BUSY t) 0
    | _ => pure ()) s

/-! Accesses of the host (R162, 12 R353, R370). -/

/-- Where a byte of BAR2 lies. -/
inductive Bar2 where
  | unmapped
  | fault (v ipa : Nat)
  | ok (dpa : Nat)
  deriving DecidableEq, Repr

/-- The lowest aperture that covers an offset, in units of 2 MiB. -/
def bar2At (s : State) (off : Nat) : Bar2 :=
  match (upto 16).find? fun n =>
      flag s (F.HOST_AP_EN n) && decide (getF s (F.HOST_AP_OFF n) ≤ off / 2097152) &&
      decide (off / 2097152 < getF s (F.HOST_AP_OFF n) + getF s (F.HOST_AP_SIZE n)) with
  | none => .unmapped
  | some n =>
    let v := getF s (F.HOST_AP_VI n)
    let ipa := (getF s (F.HOST_AP_IPABASE n) + off / 2097152 - getF s (F.HOST_AP_OFF n)) * 2097152 + off % 2097152
    if allotHbm s v ≤ ipa ∨ viPresent s v = false then .fault v ipa else .ok (ipaDpa s v ipa)

/-- The first byte of a run that faults: its offset, VI and IPA. -/
def bar2Fault (s : State) : List Nat → Option (Nat × Nat × Nat)
  | [] => none
  | o :: l =>
    match bar2At s o with
    | .fault v ipa => some (o, v, ipa)
    | _ => bar2Fault s l

/-- A fault of an access writes a RANGE record (R162, R472); a run outside every aperture is counted (12 R353). -/
def bar2Note (d acc : Nat) (l : List Nat) : M Unit := do
  let s ← cur
  whenB (l.any fun o => bar2At s o == .unmapped) (addSat (F.HOST_LINK_UNMAPPED d) 1)
  match bar2Fault s l with
  | some (o, v, ipa) =>
    whenB (viPresent s v) (mmuFault v o fRange 1 1 ipa agHostmmio acc d (.tile 0) (nowNs s))
  | none => pure ()

/-- BAR2_WRITE (R162). -/
def execBar2Write (d : LinkNo) (off : Nat) (bytes : List Byte) (s : State) : Host.Outcome State Fault Refusal :=
  act (do
    let s ← cur
    let l := addrs off bytes.length
    whenB (live s && flag s (F.HOST_LINK_LINKUP d)) do
      bar2Note d aWrite l
      whenB (bar2Fault s l == none) ((l.zip bytes).forM fun p =>
        match bar2At s p.1 with
        | .ok a => emit (.hbm a [p.2])
        | _ => pure ())) s

/-- BAR2_READ (R162). -/
def execBar2Read (d : LinkNo) (off : Nat) (len : Nat) (s : State) : Host.Outcome State Fault Refusal :=
  act (do
    let s ← cur
    let l := addrs off len
    whenB (live s && flag s (F.HOST_LINK_LINKUP d)) do
      bar2Note d aRead l
      send (.bytes d (l.map fun o =>
        match bar2At s o with
        | .ok a => if bar2Fault s l = none then hbmByte s a else 255
        | _ => 255) false)) s

/-- DPA of an offset in the range of the extents, in stack order, from stack i (12 R370). -/
def cxlDpa (s : State) : List Nat → Nat → Option Nat
  | [], _ => none
  | i :: l, a =>
    let n := getF s (F.HOST_CXLMEM_SIZE i) * 2 ^ 28
    if a < n then some (i * 2 ^ 36 + getF s (F.HOST_CXLMEM_BASE i) * 2 ^ 28 + a) else cxlDpa s l (a - n)

/-- A byte of the slice that exists. -/
def cxlAt (s : State) (a : Nat) : Option Nat := (cxlDpa s (upto 8) a).filter dpaExists

/-- Bytes of an access. -/
def cxlRun (a : Nat) : MemAccess → List Nat
  | .read n => addrs a n
  | .write l => addrs a l.length

/-- CXL_MEM_ACCESS (12 R370): it never faults in the slice; outside the slice no such address exists. -/
def execCxlMemAccess (d : LinkNo) (addr : Nat) (access : MemAccess) (s : State) : Host.Outcome State Fault Refusal :=
  match (cxlRun addr access).find? fun a => cxlAt s a == none with
  | some a => .fault (.noSuchAddress a)
  | none =>
    act (do
      let s ← cur
      whenB (live s && flag s (F.HOST_LINK_LINKUP d) && flag s (F.HOST_LINK_CXL d) && flag s (F.HOST_LINK_MEMEN d))
        (match access with
         | .read n => send (.bytes d ((addrs addr n).map fun a => hbmByte s ((cxlAt s a).getD 0)) false)
         | .write l => ((addrs addr l.length).zip l).forM fun p => emit (.hbm ((cxlAt s p.1).getD 0) [p.2]))) s

end Sys2Proof.Machine
end

