-- ==== Sys2Proof/Machine/Divide.lean ====
section
/-! DEFINITION. The packet buffer of Divide (09 R262-R273) and mirroring (R280-R282). -/
namespace Sys2Proof.Machine

/-! Frames as bytes (11 R321). -/

/-- The transport header. -/
def hdrBytes (h : Hdr) : List Byte :=
  bytesOf 2 h.ddev.toNat ++ bytesOf 1 (h.dvi.toNat + 16 * h.kind.toNat) ++ [h.dinc] ++ bytesOf 2 h.sdev.toNat ++
  bytesOf 1 h.svi.toNat ++ [h.sinc] ++ bytesOf 4 h.stamp.toNat ++ bytesOf 2 h.epoch.toNat ++ [h.last, 0] ++
  bytesOf 8 h.k0.toNat ++ bytesOf 8 h.k1.toNat

/-- A frame: header and payload. -/
def frameBytes (f : DivFrame) : List Byte := hdrBytes f.hdr ++ f.payload

/-! States of outputs (09 R268). -/

/-- PSTATE of a Hyora port and of an edge port. -/
def portPs (s : State) (p : Nat) : Nat := getF s (F.PORT_STAT_PSTATE p)
def edgePs (s : State) (e : Nat) : Nat := getF s (F.EDGE_STAT_PSTATE e)

/-- LSTATE codes (11 R323). -/
def lsDown : Nat := 0
def lsCapex : Nat := 1
def lsIdent : Nat := 2
def lsActive : Nat := 3
def lsNegFail : Nat := 4
def lsMiswired : Nat := 5
def lsUnmapped : Nat := 6

def portLs (s : State) (p : Nat) : Nat := getF s (F.PORT_LINK_STAT_LSTATE p)
def portAdopted (s : State) (p : Nat) : Bool := flag s (F.PORT_LINK_STAT_ADOPTED p)

/-- A state in which a port carries nothing and will not by itself. -/
def psIsDown (ps : Nat) : Bool := ps == psOff || ps == psDown || ps == psTest || ps == psFailedLock

/-- Whether an output is down. -/
def outDown (s : State) (o : Nat) : Bool :=
  if o < 64 then
    psIsDown (portPs s o) || portLs s o == lsNegFail || (portLs s o == lsMiswired && !portAdopted s o)
  else if o < 72 then psIsDown (edgePs s (o - 64))
  else false

/-! The buffer. -/

/-- Whether nothing holds a frame any more. -/
def frameGone (d : DFrame) : Bool := d.residue.isEmpty && d.unacked.isEmpty && !d.landing

/-- The buffer without the frames that nothing holds. -/
def sweepFrames : M Unit := modDiv fun y => { y with frames := y.frames.filter fun d => !frameGone d }

/-- Cells that a frame from a port held at its receiver are free (11 R332). -/
def freeCells (p tc k : Nat) : M Unit :=
  modLink p fun l => { l with freedC := smSet 0 l.freedC tc (smGet 0 l.freedC tc + k) }

/-- A frame that crosses the device on the credit of the port it came from (R269). -/
def isTransit (f : DivFrame) : Bool := decide (f.input < 64) && (f.owner == 16 || f.owner == 17)

/-- Whether a frame is still to leave by some output, or waits at its source. -/
def frameWaits (s : State) (id : Nat) : Bool :=
  (s.sys.div.frames.any fun d => d.f.id == id && !d.residue.isEmpty) || s.sys.div.held.any fun h => h.f.id == id

/-- A change of the residues: the transit frames that nothing waits for any more return their credit (11 R332). -/
def withCredit (m : M Unit) : M Unit := do
  let s ← cur
  m
  let s' ← cur
  ((s.sys.div.frames.filter fun d => isTransit d.f && frameWaits s d.f.id && !frameWaits s' d.f.id).foldl
    (fun (l : List DivFrame) d => if l.any fun f => f.id == d.f.id then l else l ++ [d.f]) []).forM fun f =>
      freeCells f.input f.tc f.cells

/-- Cells purged at an output: counted, and reported to their owners as lost (R268). -/
def purgeNote (o : Nat) (d : DFrame) (freed : Bool) : M Unit := do
  whenB freed do
    addSat (F.DIVIDE_DROP_PURGE d.die) d.f.cells
    countEv 6 4 o (if d.f.owner < 16 then some d.f.owner else none) d.f.cells
  reportLost d.f

/-- The queue of an output is purged: the output leaves every residue. -/
def purgeOut (o : Nat) : M Unit := do
  let s ← cur
  let hit := s.sys.div.frames.filter fun d => d.residue.contains o
  withCredit do
    modDiv fun y => { y with frames := y.frames.map fun d => { d with residue := d.residue.filter (· != o) } }
    sweepFrames
  hit.forM fun d => purgeNote o d (frameGone { d with residue := d.residue.filter (· != o) })

/-- A frame that a port has sent holds its cells no more. -/
def unackFrame (p id : Nat) (d : DFrame) : DFrame :=
  if d.f.id = id then { d with unacked := d.unacked.filter (· != p) } else d

/-- Frames that a port has sent and not had acknowledged are purged (R268, 11 R327). -/
def purgeUnacked (p : Nat) (l : List Sent) : M Unit := do
  let s ← cur
  let ids := l.map (·.id)
  let hit := s.sys.div.frames.filter fun d => d.unacked.contains p && ids.contains d.f.id
  modDiv fun y => { y with frames := y.frames.map fun d => l.foldl (fun d x => unackFrame p x.id d) d }
  sweepFrames
  hit.forM fun d => purgeNote p d (frameGone (unackFrame p d.f.id d))

/-- Whether a frame carries a stale incarnation (R268). -/
def frameStale (s : State) (f : DivFrame) : Bool :=
  decide (f.owner < 16) && (!viPresent s f.owner || viInc s f.owner != f.inc.toNat)

/-- A copy on one die: admitted whole, or not (R265, R269). One for an output that is down is purged. -/
def admitDie (f : DivFrame) (die : Nat) (dests : List Nat) : M Bool := do
  let s ← cur
  if admits s die f.owner f.tc.val f.cells then do
    modDiv fun y => { y with frames := y.frames ++
      [{ f, die, residue := dests, unacked := [], admitted := nowNs s, landing := false }] }
    (dests.filter fun o => outDown s o).forM purgeOut
    return true
  else return false

/-- Destinations of a frame on each die, the input removed (R265, R272). -/
def destDies (f : DivFrame) : List (Nat × List Nat) :=
  let l := f.dests.filter (· != f.input)
  ([0, 1].map fun d => (d, l.filter fun o => dieOfOut o == d)).filter fun p => !p.2.isEmpty

/-- A frame that finds no room: a mirror copy is dropped, one that lands in a VI faults it, any other waits at its
source (R269, 05 R159). -/
def noRoom (f : DivFrame) (rest : List (Nat × List Nat)) : M Unit := do
  if f.owner = 18 then addSat (F.DIVIDE_MIR_STAT_DROPPED ((f.payload.getD 2 0).toNat % 16)) 1
  else if f.owner < 16 ∧ f.input < 72 then viFault f.owner causeSpillFull 6 f.tc.val 0
  else do
    modDiv fun y => { y with held := y.held ++ [{ f, dies := rest }] }
    countEv 6 3 f.input (if f.owner < 16 then some f.owner else none) 1

/-- The dies on which a frame is not admitted. -/
def admitAll (f : DivFrame) : List (Nat × List Nat) → M (List (Nat × List Nat))
  | [] => return []
  | p :: l => do
    let ok ← admitDie f p.1 p.2
    let rest ← admitAll f l
    return if ok then rest else p :: rest

/-- Cells that have entered from an input (14 R413). -/
def cellsIn (f : DivFrame) : M Unit := countEv 6 1 f.input (if f.owner < 16 then some f.owner else none) f.cells

/-- A frame is offered to Divide (R268, R269). -/
def offer (f : DivFrame) : M Unit := do
  let s ← cur
  if frameStale s f then
    (destDies f).forM fun p => addSat (F.DIVIDE_DROP_STALE p.1) f.cells
  else do
    let rest ← admitAll f (destDies f)
    if rest.isEmpty then cellsIn f else noRoom f rest

/-! Mirroring (R280-R282). -/

/-- Whether a session takes a frame, at ingress or at egress, at a port. -/
def mirMatches (s : State) (m : Nat) (f : DivFrame) (egress : Bool) (port : Nat) : Bool :=
  let sid := getF s (F.DIVIDE_MIR_CFG_SID m)
  flag s (F.DIVIDE_MIR_CFG_EN m) && flag s (F.DIVIDE_MIR_CFG_DIR m) == egress &&
  match getF s (F.DIVIDE_MIR_CFG_STYPE m) with
  | 0 => sid % 256 == port
  | 1 => f.flow == .queue (sid % 1024)
  | 2 => f.flow == .group (BitVec.ofNat 32 sid)
  | _ => sid % 8 == f.tc.val

/-- The record of a copy, without its padding. -/
def mirRecord (s : State) (m : Nat) (f : DivFrame) (egress : Bool) (port : Nat) : List Byte :=
  let all := frameBytes f
  let t := getF s (F.DIVIDE_MIR_CFG_TRUNC m)
  let kept := if t = 0 then all else all.take (64 * t)
  bytesOf 2 (cdiv (32 + kept.length) 64) ++ bytesOf 1 m ++
  bytesOf 1 (f.tc.val + 8 * b2n egress + 16 * b2n (decide (kept.length < all.length))) ++ bytesOf 2 port ++ bytesOf 2 0 ++
  bytesOf 8 (nowNs s) ++ bytesOf 4 all.length ++ bytesOf 12 0 ++ kept

/-- A record padded to a multiple of 64 bytes. -/
def padded (l : List Byte) : List Byte := l ++ List.replicate (64 * cdiv l.length 64 - l.length) 0

/-- Bytes written into a ring of n units of 64 bytes, from unit h. -/
def ringUnits (n h : Nat) (l : List Byte) : List (Nat × List Byte) :=
  (indexed 0 (chunks 64 l)).map fun p => ((h + p.1) % n, p.2)

/-- Whether k units fit between HEAD and TAIL of a ring of n. -/
def ringFits (n head tail k : Nat) : Bool := decide ((head % n + n - tail % n) % n + k < n)

/-- A copy into the HBM ring (R282). -/
def mirRing (m : Nat) (l : List Byte) : M Unit := do
  let s ← cur
  let n := 1024 * 2 ^ getF s F.DIVIDE_MIR_RBASE_SIZE
  let h := getF s F.DIVIDE_MIR_RHEAD_HEAD
  let k := cdiv l.length 64
  if ringFits n h (getF s F.DIVIDE_MIR_RTAIL_TAIL) k then do
    (ringUnits n h l).forM fun p => emit (.hbm (getF s F.DIVIDE_MIR_RBASE_BASE * 4096 + 64 * p.1) p.2)
    putF F.DIVIDE_MIR_RHEAD_HEAD ((h + k) % n)
    addWrap (F.DIVIDE_MIR_STAT_COPIED m) 1
  else addSat (F.DIVIDE_MIR_STAT_DROPPED m) 1

/-- The host queue in ANALYSIS mode (12 R356, R363). -/
def analysisQueue (s : State) : Option Nat :=
  (touched s 0x1010010 64 512).find? fun q => flag s (F.HOST_Q_CFG_EN q) && getF s (F.HOST_Q_CFG_MODE q) == 2

/-- A copy into the host's ring (12 R363). -/
def mirHost (m : Nat) (l : List Byte) : M Unit := do
  let s ← cur
  match analysisQueue s with
  | none => addSat (F.DIVIDE_MIR_STAT_DROPPED m) 1
  | some q => do
    let n := 16 * 2 ^ getF s (F.HOST_Q_SQ_SIZE q)
    let h := getF s (F.HOST_Q_STAT_SQHEAD q)
    let k := cdiv l.length 64
    if ringFits n h (hqSt s q).cqhead k && flag s (F.HOST_LINK_LINKUP (q / 256)) then do
      (ringUnits n h l).forM fun p => send (.hostWrite (q / 256) (getF s (F.HOST_Q_SQ_BASE q) * 4096 + 64 * p.1) p.2)
      putF (F.HOST_Q_STAT_SQHEAD q) ((h + k) % n)
      addWrap (F.DIVIDE_MIR_STAT_COPIED m) 1
    else addSat (F.DIVIDE_MIR_STAT_DROPPED m) 1

/-- An identity for a frame of the device's own making. -/
def freshId : M Nat := do
  let s ← cur
  modDiv fun y => { y with nextId := y.nextId + 1 }
  return 2 ^ 64 + s.sys.div.nextId

/-- A copy to an output: charged to MIRROR, in TC7 (R281, 11 R346). -/
def mirOut (m out input dev : Nat) (l : List Byte) : M Unit := do
  let id ← freshId
  let s ← cur
  let h := mkHdr s 7 dev 0 0 0 0 l.length
    (BitVec.ofNat 64 (getF s (F.DIVIDE_MIR_STAT_COPIED m) + l.length % 65536 * 2 ^ 32)) 0
  let f : DivFrame :=
    { id, input, tc := 7, owner := 18, inc := 0, dests := [out], cells := min 16 (cellsOf l.length)
      flow := .transit input, hdr := h, payload := l }
  let ok ← admitDie f (dieOfOut out) [out]
  if ok then addWrap (F.DIVIDE_MIR_STAT_COPIED m) 1 else addSat (F.DIVIDE_MIR_STAT_DROPPED m) 1

/-- Whether port 63 is the analysis port, by the active map. -/
def analysisPort (s : State) : Option Nat :=
  match s.sys.topo.active with
  | some img => if pkKind (imgPort img 63) = 4 then some (pkDev (imgPort img 63)) else none
  | none => none

/-- A session copies a frame. -/
def mirCopy (f : DivFrame) (egress : Bool) (port m : Nat) : M Unit := do
  let s ← cur
  let l := mirRecord s m f egress port
  match getF s (F.DIVIDE_MIR_CFG_DTYPE m) with
  | 0 => mirOut m (64 + getF s (F.DIVIDE_MIR_CFG_DID m)) port 0 l
  | 1 => mirHost m (padded l)
  | 2 => mirRing m (padded l)
  | _ =>
    match analysisPort s with
    | some dev => mirOut m 63 port dev l
    | none => pure ()

/-- A frame passes the mirror sessions: each copies one in every RATE that it matches (R280). -/
def mirror (f : DivFrame) (egress : Bool) (port : Nat) : M Unit := do
  let s ← cur
  ((upto 16).filter fun m => f.owner != 18 && mirMatches s m f egress port).forM fun m => do
    let n := smGet 0 s.sys.div.mirCount m + 1
    if max 1 (getF s (F.DIVIDE_MIR_CFG_RATE m)) ≤ n then do
      modDiv fun y => { y with mirCount := smSet 0 y.mirCount m 0 }
      mirCopy f egress port m
    else modDiv fun y => { y with mirCount := smSet 0 y.mirCount m n }

/-- A write of DIVIDE_MIR_CFG (R280): a rising edge of EN restarts the count. -/
def mirCfg (m : Nat) (val : Nat) : M Unit := do
  let s ← cur
  whenB (!flag s (F.DIVIDE_MIR_CFG_EN m) && bit val 63)
    (modDiv fun y => { y with mirCount := smSet 0 y.mirCount m 0 })
  putR (R.DIVIDE_MIR_CFG m) (setBits val 54 54 0)

/-- MIRROR_ENABLE (R280). -/
def execMirrorEnable (m : Fin 16) (val : W64) (s : State) : Host.Outcome State Fault Refusal :=
  act (mirCfg m val.toNat) s

/-! Commands. -/

/-- A frame enters: it passes the sessions at ingress and is offered. -/
def enter (f : DivFrame) : M Unit := do
  mirror f false f.input
  offer f

/-- FRAME_ADMIT (R269). -/
def execFrameAdmit (f : DivFrame) (s : State) : Host.Outcome State Fault Refusal :=
  act (do
    let s ← cur
    whenB (live s) (enter f)) s

/-- HELD_FRAME_ADMIT (R269): the copies that now find room are admitted. -/
def execHeldFrameAdmit (id : Nat) (s : State) : Host.Outcome State Fault Refusal :=
  act (do
    let s ← cur
    match s.sys.div.held.find? fun h => h.f.id == id with
    | none => pure ()
    | some h =>
      whenB (live s) do
        let rest ← admitAll h.f h.dies
        modDiv fun y => { y with held := y.held.filterMap fun x =>
          if x.f.id = id then (if rest.isEmpty = true then none else some { x with dies := rest }) else some x }
        whenB rest.isEmpty (cellsIn h.f)) s

/-- FRAME_TIMER_EXPIRY (R273): a frame whose residue is not empty is purged from the remaining queues. -/
def execFrameTimerExpiry (id : Nat) (s : State) : Host.Outcome State Fault Refusal :=
  act (do
    let s ← cur
    let hit := s.sys.div.frames.filter fun d => d.f.id == id && !d.residue.isEmpty
    withCredit do
      modDiv fun y =>
        { y with frames := y.frames.map fun d => if d.f.id = id then { d with residue := [] } else d }
      sweepFrames
    hit.forM fun d => purgeNote (d.residue.headD 0) d true) s

/-- A frame on a die is discarded whole: its owner sees it lost (R271, R277). -/
def discard (die id : Nat) : M Unit := do
  let s ← cur
  let hit := s.sys.div.frames.filter fun d => d.f.id == id && d.die == die && !d.landing
  withCredit (modDiv fun y => { y with frames := y.frames.filter fun d => !(d.f.id == id && d.die == die && !d.landing) })
  hit.forM fun d => reportLost d.f

/-- DIVIDE_CELL_ERROR (R271, 13 R374, R375). -/
def execDivideCellError (die : Fin 2) (id : Nat) (code : Byte) (s : State) : Host.Outcome State Fault Refusal :=
  act (do
    let s ← cur
    whenB (live s) do
      let v := flag s F.DIVIDE_ERR_VALID
      (if v then do
        putF F.DIVIDE_ERR_OVERLAP 1
        addSat F.DIVIDE_ERR_OVFCNT 1
       else do
        putF F.DIVIDE_ERR_VALID 1
        putF F.DIVIDE_ERR_CODE code.toNat
        putF F.DIVIDE_ERR_DIE die.val)
      postErr { cls := 2, unit := 6, index := die, code := code.toNat, vi := none, inc := 0, overlap := v, info := 0 }
      discard die id) s

end Sys2Proof.Machine
end

