-- ==== Sys2Proof/Machine/Link.lean ====
section
/-! DEFINITION. The state of a Hyora link: bringing it up and down (11 R323-R326), its credits (R331, R332), sending and
replay (R327, R330), and the topology identity checks. -/
namespace Sys2Proof.Machine

/-! Classes that a link carries (R323). -/

/-- Whether a state carries frames of a class. -/
def lsCarries (ls : Nat) (adopted : Bool) (tc : Nat) : Bool :=
  ls == lsActive || (ls == lsMiswired && adopted) || (ls == lsUnmapped && tc == 7)

/-- Whether a link carries frames of a class now. -/
def linkCarries (s : State) (p tc : Nat) : Bool := lsCarries (portLs s p) (portAdopted s p) tc

/-- Whether it carries frames at all, and link messages. -/
def linkFrames (s : State) (p : Nat) : Bool := linkCarries s p 7
def linkMsgs (s : State) (p : Nat) : Bool := portPs s p == psUp && portLs s p != lsDown

/-- The sweep of this device is dirty (R337). -/
def markDirty : M Unit := modTopo fun y => { y with sweep := y.sweep.map fun w => { w with dirty := true } }

/-- Sequence space and credits start from zero (R323). -/
def linkZero (l : Link) : Link := { nonces := l.nonces, peerNonce := l.peerNonce, rtts := l.rtts, identFresh := l.identFresh }

/-- A link enters a state (R323). -/
def setLs (p new : Nat) (adopted : Bool) : M Unit := do
  let s ← cur
  let old := portLs s p
  if old = new ∧ portAdopted s p = adopted then pure ()
  else do
    let had := linkFrames s p
    let has := lsCarries new adopted 7
    let lost := (linkSt s p).sent.filter fun x => !lsCarries new adopted x.tc
    putF (F.PORT_LINK_STAT_LSTATE p) new
    putF (F.PORT_LINK_STAT_ADOPTED p) (b2n adopted)
    (if had && has then modLink p fun l => { l with sent := l.sent.filter fun x => lsCarries new adopted x.tc }
     else modLink p linkZero)
    purgeUnacked p lost
    let s ← cur
    whenB (outDown s p) (purgeOut p)
    markDirty

/-- PSTATE changes. -/
def setPs (p new : Nat) : M Unit := do
  let s ← cur
  if portPs s p = new then pure ()
  else do
    putF (F.PORT_STAT_PSTATE p) new
    markDirty
    (if new = psUp then do
      modLink p fun _ => {}
      setLs p lsCapex false
     else setLs p lsDown false)
    let s ← cur
    whenB (outDown s p) (purgeOut p)

/-! Credits (R331, R332). -/

/-- Whether the peer's credit covers k cells more. -/
def creditFor (s : State) (p tc k : Nat) : Bool :=
  let l := linkSt s p
  decide ((smGet 0 l.sentC tc + 2 ^ 24 - smGet 0 l.retC tc % 2 ^ 24 + k) % 2 ^ 24 ≤ getF s (F.PORT_LINK_CRED_PEER p tc))

/-- CRED of a class. -/
def sendCred (p tc : Nat) : M Unit := do
  let s ← cur
  send (.linkCred p tc (smGet 0 (linkSt s p).totalC tc))

/-! Sending (R327). -/

/-- Whether a port can send a frame of k cells now. -/
def linkFits (s : State) (p tc k : Nat) : Bool :=
  portPs s p == psUp && linkCarries s p tc && creditFor s p tc k && decide ((linkSt s p).sent.length < 32767)

/-- The header as a frame leaves an output: Divide writes DDEV for each output of a multicast frame (R321). -/
def outHdr (s : State) (p : Nat) (f : DivFrame) : Hdr :=
  if f.dests.length ≤ 1 then f.hdr else { f.hdr with ddev := BitVec.ofNat 15 (getF s (F.PORT_LINK_NBR_PDEV p)) }

/-- A frame leaves by a Hyora port, and its cells stay until it is acknowledged. -/
def linkSend (p : Nat) (f : DivFrame) : M Unit := do
  let s ← cur
  let l := linkSt s p
  modLink p fun y =>
    { y with nextSeq := (l.nextSeq + 1) % 65536
             sent := y.sent ++ [{ seq := l.nextSeq, id := f.id, tc := f.tc, cells := f.cells, at_ := nowNs s }]
             sentC := smSet 0 y.sentC f.tc (smGet 0 y.sentC f.tc + f.cells) }
  send (.linkFrame p l.nextSeq f.tc (outHdr s p f) f.payload)

/-- Frames are sent again in order, while the credit lasts (R330, R331). -/
def resend (p : Nat) : List Sent → M Unit
  | [] => pure ()
  | x :: rest => do
    let s ← cur
    match s.sys.div.frames.find? fun d => d.f.id == x.id && d.unacked.contains p with
    | none => resend p rest
    | some d =>
      whenB (creditFor s p x.tc x.cells) do
        modLink p fun y =>
          { y with sent := y.sent.map fun z => if z.seq = x.seq then { z with at_ := nowNs s } else z
                   sentC := smSet 0 y.sentC x.tc (smGet 0 y.sentC x.tc + x.cells) }
        addSat (F.PORT_LINK_REPLAYED_FRAMES p) 1
        send (.linkFrame p x.seq x.tc (outHdr s p d.f) d.f.payload)
        resend p rest

/-- T_REPLAY in ns (R330). -/
def tReplay (s : State) (p : Nat) : Nat := getF s (F.PORT_LINK_RTT_RTT p) + 1500

/-! Link messages (R322). -/

/-- A value that a sender draws: the nonce of a message. -/
def drawNonce (p : Nat) : M Nat := do
  let c ← takeFree
  let n := c.toNat % 65536
  modLink p fun l => { l with nonces := l.nonces ++ [n] }
  return n

/-- A link message of 64 bytes. -/
def linkMsg (msg nonce : Nat) (body : List Byte) : List Byte :=
  (bytesOf 1 msg ++ [0] ++ bytesOf 2 nonce ++ body ++ List.replicate 60 0).take 64

/-- CAP (R322, R324). -/
def sendCap (p : Nat) : M Unit := do
  let n ← drawNonce p
  let s ← cur
  send (.linkMsg p (linkMsg 1 n (bytesOf 2 (linkSt s p).peerNonce ++ bytesOf 2 0 ++ bytesOf 1 Config.linkMajor ++
    bytesOf 1 Config.linkMinor ++ bytesOf 2 (getF s (F.PORT_LINK_CFG_SACK p)) ++
    (upto 8).flatMap fun c => bytesOf 4 (getF s (F.PORT_LINK_CRED_ADV p c)))))

/-- IDENT (R322, R325). -/
def sendIdent (p : Nat) : M Unit := do
  let n ← drawNonce p
  let s ← cur
  send (.linkMsg p (linkMsg 2 n (bytesOf 2 (linkSt s p).peerNonce ++ bytesOf 2 0 ++ bytesOf 2 (selfDev s) ++
    bytesOf 1 p ++ [0] ++ bytesOf 2 (selfEpoch s) ++ bytesOf 2 0 ++ bytesOf 8 Config.serial.toNat ++
    bytesOf 4 Config.firmwareVersion)))

/-- PROBE (R322, R325). -/
def sendProbe (p : Nat) : M Unit := do
  let n ← drawNonce p
  let s ← cur
  send (.linkMsg p (linkMsg 3 n (bytesOf 4 0 ++ bytesOf 8 (nowNs s))))

/-! Identity (R325, R326). -/

/-- The state that a port's identity gives it under the active map, and whether it is adopted. -/
def identState (s : State) (p : Nat) : Nat × Bool :=
  match s.sys.topo.active with
  | none => (lsUnmapped, false)
  | some img =>
    let e := imgPort img p
    if (pkKind e = 1 ∨ pkKind e = 2) ∧ pkDev e = getF s (F.PORT_LINK_NBR_PDEV p) ∧
        pkPort e = getF s (F.PORT_LINK_NBR_PPORT p) then (lsActive, false)
    else (lsMiswired, pkKind e == 2 && pkAdopt e)

/-- The identity of a port is checked: an adopted neighbour is reported in TC7 (R326). -/
def identCheck (p : Nat) : M Unit := do
  let s ← cur
  let r := identState s p
  setLs p r.1 r.2
  whenB (r.2 && !portAdopted s p)
    (send (.report 3 (bytesOf 1 p ++ bytesOf 2 (getF s (F.PORT_LINK_NBR_PDEV p)) ++
      bytesOf 1 (getF s (F.PORT_LINK_NBR_PPORT p)))))

end Sys2Proof.Machine
end

