-- ==== Sys2Proof/Machine/PortCmd.lean ====
section
/-! DEFINITION. Port states, commands and PLLs (10 R301-R305, R473), and the states of metro paths (11 R342). -/
namespace Sys2Proof.Machine

/-! Metro paths. -/

/-- PATHST codes (11 R349). -/
def paDown : Nat := 0
def paProbing : Nat := 1
def paUp : Nat := 2
def paFailed : Nat := 3

def pathSt (s : State) (e : Nat) : Nat := getF s (F.EDGE_METRO_STAT_PATHST e)

/-- The frames of a path that are not acknowledged are lost, and their buffers are freed (11 R344). -/
def pathLose (e : Nat) : M Unit := do
  let s ← cur
  let m := metroSt s e
  mereDrop m.txMere
  modMetro e fun x => { x with sent := [], txMere := [] }
  m.sent.forM fun x => reportLost x.frame

/-- A path enters a state (11 R342, R344); in UP both sequence spaces start from zero. -/
def setPath (e new : Nat) : M Unit := do
  let s ← cur
  let old := pathSt s e
  if old = new then pure ()
  else do
    putF (F.EDGE_METRO_STAT_PATHST e) new
    whenB (new == paFailed) (addSat (F.EDGE_METRO_CNT_PATHFAIL e) 1)
    whenB (old == paUp) (pathLose e)
    whenB (new == paUp) do
      mereDrop (metroSt s e).rxMere
      modMetro e fun x => { probes := x.probes, paused := x.paused }
    whenB (new == paProbing || new == paFailed) (modMetro e fun x => { x with probes := [] })

/-! States. -/

/-- Mode of an edge port: 0 DISABLED, 1 METRO, 2 STORAGE, 3 ANALYSIS (10 R318). -/
def edgeMode (s : State) (e : Nat) : Nat :=
  let m := getF s (F.EDGE_CTL_MODE e)
  if m ≤ 3 then m else 0

/-- PSTATE of an edge port changes. -/
def setEs (e new : Nat) : M Unit := do
  let s ← cur
  if edgePs s e = new then pure ()
  else do
    putF (F.EDGE_STAT_PSTATE e) new
    markDirty
    setPath e (if new = psUp ∧ (edgeMode s e = 1 ∨ edgeMode s e = 2) then paProbing else paDown)
    let s ← cur
    whenB (outDown s (64 + e)) (purgeOut (64 + e))

/-- The PLL of a port (R303, R316). -/
def pllOf : PhyPort → Pll
  | .hyora p => .engine (Fin.ofNat 8 (p.val / 8))
  | .edge e => .edge e

/-- States of a PLL (R317): 0 OFF, 1 SETTLING, 2 LOCKED, 3 FAILED_LOCK. -/
def pllState (s : State) : Pll → Nat
  | .engine e => getF s (F.PORT_ENG_STAT_PLL e)
  | .edge e => smGet 0 s.sys.edgePll e

def setPll (n : Nat) : Pll → M Unit
  | .engine e => putF (F.PORT_ENG_STAT_PLL e) n
  | .edge e => modSys fun y => { y with edgePll := smSet 0 y.edgePll e n }

/-- The ports that a PLL serves. -/
def pllPorts : Pll → List PhyPort
  | .engine e => (upto 8).map fun i => .hyora (Fin.ofNat 64 (8 * e.val + i))
  | .edge e => [.edge e]

/-- Health object of a PLL. -/
def pllObj : Pll → Nat
  | .engine e => objEngine e
  | .edge e => objEdge e

def ppState (s : State) : PhyPort → Nat
  | .hyora p => portPs s p
  | .edge e => edgePs s e

def setPp (n : Nat) : PhyPort → M Unit
  | .hyora p => setPs p n
  | .edge e => setEs e n

def ppHeld (s : State) : PhyPort → Option Nat
  | .hyora p => (portSt s p).held
  | .edge e => (edgeSt s e).held

def setHeld (c : Option Nat) : PhyPort → M Unit
  | .hyora p => modPort p fun y => { y with held := c }
  | .edge e => modEdge e fun y => { y with held := c }

def ppRepl : PhyPort → M Unit
  | .hyora p => putF (F.PORT_STAT_REPL p) 1
  | .edge e => putF (F.EDGE_STAT_REPL e) 1

def ppErr : PhyPort → M Unit
  | .hyora p => putF (F.PORT_STAT_CMDERR p) 1
  | .edge e => putF (F.EDGE_STAT_CMDERR e) 1

def ppRetrains : PhyPort → M Unit
  | .hyora p => addSat (F.PORT_STAT_RETRAINS p) 1
  | .edge e => addSat (F.EDGE_STAT_RETRAINS e) 1

def ppObj : PhyPort → Nat
  | .hyora p => objPort p
  | .edge e => objEdge e

/-! Lanes and lane messages. -/

def modLane (p l : Nat) (g : LaneH → LaneH) : M Unit :=
  modPort p fun y => { y with lanes := smSet {} y.lanes l (g (smGet {} y.lanes l)) }
def laneSt (s : State) (p l : Nat) : LaneH := smGet {} (portSt s p).lanes l

/-- A lane's receiver has neither lock (R299). -/
def laneDrop (p l : Nat) : M Unit := do
  putF (F.PORT_LANE_STAT_CW p l) 0
  putF (F.PORT_LANE_STAT_BLK p l) 0
  modLane p l fun h => { h with markRun := 0, markMiss := 0, hdrRun := 0, hdrBad := 0, uncRun := 0 }

/-- One bit of CRC-8, x^8 + x^2 + x + 1 (R298): from the most significant, from 0. -/
def crc8Bit (c : Nat) (b : Bool) : Nat :=
  let f := (128 ≤ c) != b
  if f then Nat.xor (2 * c % 256) 7 else 2 * c % 256

/-- CRC-8 of bits 63:8 of a lane message. -/
def crc8 (w : Nat) : Nat := (upto 56).foldl (fun c i => crc8Bit c (w.testBit (63 - i))) 0

/-- A lane message of a TYPE (R298). -/
def laneMsg (type body : Nat) : W64 :=
  let w := type * 2 ^ 60 + body
  BitVec.ofNat 64 (w + crc8 w)

/-- Whether the CRC of a lane message is valid and its TYPE is the given one. -/
def laneMsgOk (m : LaneMsg) (type : Nat) : Bool := wf m 63 60 == type && crc8 m.toNat == wf m 7 0

/-- A message on every lane in lock. -/
def sendLane (p type body : Nat) : M Unit := send (.laneMsg p (laneMsg type body))

/-- The receivers in lock. -/
def lockSet (s : State) (p : Nat) : Nat :=
  sumOf (fun l => if flag s (F.PORT_LANE_STAT_BLK p l) then 2 ^ l else 0) (upto 4)

/-- Width of a set of lanes. -/
def widthOf (set : Nat) : Nat := cnt (fun l => bit set l) (upto 4)

/-- LANES (R305). -/
def sendLanes (p : Nat) : M Unit := do
  let s ← cur
  sendLane p 1 (lockSet s p * 256)

/-- The receivers of a port search, no lane is active, and no change of width or swap runs. -/
def lanesOff (p : Nat) : M Unit := do
  (upto 4).forM fun l => do
    laneDrop p l
    modLane p l fun h => { h with swapping := false, moved := false, held := false }
  modPort p fun y => { y with txNext := none, rxNext := none, farLock := 0, swapQueue := [] }
  putF (F.PORT_STAT_TXSET p) 0
  putF (F.PORT_STAT_RXSET p) 0

/-- A Hyora port enters TRAINING (R305). -/
def trainHyora (p : Nat) : M Unit := do
  lanesOff p
  setPs p psTraining

/-- A port trains. -/
def trainPort : PhyPort → M Unit
  | .hyora p => trainHyora p
  | .edge e => setEs e psTraining

/-- A port goes DOWN: its lanes carry nothing. -/
def downPort : PhyPort → M Unit
  | .hyora p => do
    lanesOff p
    setPs p psDown
  | .edge e => setEs e psDown

/-! Commands (R302). -/

/-- Codes of CMD. -/
def cmdUp : Nat := 1
def cmdRetrain : Nat := 3
def cmdTest : Nat := 4

/-- A command that the PLL no longer holds back is executed. -/
def runCmd (c : Nat) (p : PhyPort) : M Unit := do
  if c = cmdTest then setPp psTest p
  else if c = cmdRetrain then do
    ppRetrains p
    healthAdd (ppObj p) 40
    downPort p
    trainPort p
  else trainPort p

/-- A command accepted outside PENDING_CAL is executed, or held while the PLL is not in lock (R303). -/
def takeCmd (c : Nat) (p : PhyPort) : M Unit := do
  let s ← cur
  if pllState s (pllOf p) = 2 then runCmd c p
  else do
    setHeld (some c) p
    setPp psPendingCal p

/-- A command in a port that accepts it in the given states, and in PENDING_CAL by replacing the held one. -/
def portCmd (c : Nat) (states : List Nat) (p : PhyPort) : M Unit := do
  let s ← cur
  if ppState s p = psPendingCal then do
    whenB (ppHeld s p).isSome (ppRepl p)
    setHeld (some c) p
  else if states.contains (ppState s p) then takeCmd c p
  else ppErr p

/-- UP, RETRAIN and TEST. -/
def upCmd (p : PhyPort) : M Unit := portCmd cmdUp [psOff, psDown] p
def retrainCmd (p : PhyPort) : M Unit := portCmd cmdRetrain [psUp] p
def testCmd (p : PhyPort) : M Unit := portCmd cmdTest [psDown] p

/-- BYE in 8 successive message slots (R473). -/
def sendBye : PhyPort → M Unit
  | .hyora p => (upto 8).forM fun _ => sendLane p 6 0
  | .edge _ => pure ()

/-- DOWN: from UP or TRAINING after BYE (R473). Only RELOCK leaves FAILED_LOCK (R303). -/
def downCmd (p : PhyPort) : M Unit := do
  let s ← cur
  let ps := ppState s p
  if ps = psOff then ppErr p
  else do
    whenB (ps == psUp || ps == psTraining) (sendBye p)
    setHeld none p
    whenB (ps != psFailedLock) (downPort p)

/-- A PLL settles and calibrates afresh (R303). -/
def pllRestart (l : Pll) : M Unit := do
  setPll 1 l
  healthAdd (pllObj l) 40

/-- RELOCK: every port of the PLL enters PENDING_CAL holding UP. -/
def relockCmd (p : PhyPort) : M Unit := do
  let s ← cur
  if ppState s p = psFailedLock then do
    pllRestart (pllOf p)
    (pllPorts (pllOf p)).forM fun q => do
      setHeld (some cmdUp) q
      setPp psPendingCal q
  else ppErr p

/-- A write of CMD (R302). -/
def cmdWrite (c : Nat) (p : PhyPort) : M Unit :=
  match c with
  | 1 => upCmd p
  | 2 => downCmd p
  | 3 => retrainCmd p
  | 4 => testCmd p
  | 5 => relockCmd p
  | _ => pure ()

/-- The operation while the device runs. -/
def whenLive (m : M Unit) : M Unit := do
  let s ← cur
  whenB (live s) m

/-- UP (R302, R303). -/
def execUp (p : PhyPort) (s : State) : Host.Outcome State Fault Refusal := act (whenLive (upCmd p)) s

/-- DOWN (R302, R473). -/
def execDown (p : PhyPort) (s : State) : Host.Outcome State Fault Refusal := act (whenLive (downCmd p)) s

/-- RETRAIN (R302). -/
def execRetrain (p : PhyPort) (s : State) : Host.Outcome State Fault Refusal := act (whenLive (retrainCmd p)) s

/-- TEST (R302). -/
def execTest (p : PhyPort) (s : State) : Host.Outcome State Fault Refusal := act (whenLive (testCmd p)) s

/-- RELOCK (R302, R303). -/
def execRelock (p : PhyPort) (s : State) : Host.Outcome State Fault Refusal := act (whenLive (relockCmd p)) s

/-! PLLs (R303, R304). -/

/-- PLL_LOCKED (R303): the held command of each port executes. -/
def execPllLocked (l : Pll) (s : State) : Host.Outcome State Fault Refusal :=
  act (do
    let s ← cur
    whenB (live s && pllState s l == 1) do
      setPll 2 l
      (match l with
       | .engine e => addSat (F.PORT_ENG_STAT_RELOCKS e) 1
       | .edge _ => pure ())
      (pllPorts l).forM fun p => do
        let s ← cur
        match ppState s p == psPendingCal, ppHeld s p with
        | true, some c => do
          setHeld none p
          runCmd c p
        | _, _ => pure ()) s

/-- PLL_LOCK_TIMEOUT (R303): the PLL and every port it serves enter FAILED_LOCK, and the queued frames are purged. -/
def execPllLockTimeout (l : Pll) (s : State) : Host.Outcome State Fault Refusal :=
  act (do
    let s ← cur
    whenB (live s && pllState s l == 1) do
      setPll 3 l
      (pllPorts l).forM fun p => do
        setHeld none p
        setPp psFailedLock p) s

/-- A PLL loses lock (R304): the lanes drop out of lock, and ports that were UP wait to train again. -/
def pllLose (l : Pll) : M Unit := do
  let s ← cur
  whenB (pllState s l == 2) do
    pllRestart l
    (pllPorts l).forM fun p => do
      (match p with
       | .hyora q => lanesOff q
       | .edge _ => pure ())
      whenB (ppState s p == psUp) do
        setHeld (some cmdUp) p
        setPp psPendingCal p

/-- PLL_LOCK_LOSS (R304). -/
def execPllLockLoss (l : Pll) (s : State) : Host.Outcome State Fault Refusal := act (whenLive (pllLose l)) s

/-- TRAIN_RETRY (R305): a port that has not reached width 2 starts training again. -/
def execTrainRetry (p : PhyPort) (s : State) : Host.Outcome State Fault Refusal :=
  act (do
    let s ← cur
    whenB (live s && ppState s p == psTraining) do
      ppRetrains p
      trainPort p) s

end Sys2Proof.Machine
end

