-- ==== Sys2Proof/Machine/Faults.lean ====
section
/-! DEFINITION. Containment (13 R376-R378), VI resets (R389-R393), fencing and migrating tiles (01 R29, 13 R394-R396)
and the decay of the health scores (R403). -/
namespace Sys2Proof.Machine

/-! Containment. -/

/-- EXCLUDE for the rank of a context goes to every other member (R377). -/
def excludeOwn (g : Nat) : M Unit := do
  let s ← cur
  whenB (grpState s g != stFree) (colMsgAll g (getF s (F.COL_GRP_GEN_NEXT g)) msgExclude (grpRank s g) 0 [])

/-- Every port that is not OFF and not in FAILED_LOCK goes DOWN. -/
def portsDown : M Unit := do
  let s ← cur
  ((List.finRange 64).map PhyPort.hyora ++ (List.finRange 8).map PhyPort.edge).forM fun q =>
    whenB (ppState s q != psOff && ppState s q != psFailedLock) (downPort q)

/-- An error escalates to device containment (R376, R377). -/
def contain (e : ErrEntry) (inDivideOrPort : Bool) : M Unit := do
  let s ← cur
  if contained s || !live s then pure ()
  else do
    postErr e
    putF F.FAULT_DEV_STAT_DEVICE_FAULT 1
    putF F.FAULT_DEV_STAT_CUNIT e.unit
    ((upto 16).filter fun v => viPresent s v).forM fun v => putF (F.FAULT_VI_CTL_STATE v) 3
    (upto 1024).forM excludeOwn
    whenB inDivideOrPort portsDown
    devNote
    send (.report 8 (errBytes e (nowNs s)))

/-- DEVICE_CONTAINMENT (R377). -/
def execDeviceContainment (e : ErrEntry) (inDivideOrPort : Bool) (s : State) : Host.Outcome State Fault Refusal :=
  act (contain e inDivideOrPort) s

/-! VI resets. -/

/-- VI_RESET (R389, R391). -/
def execViReset (v : ViNo) (s : State) : Host.Outcome State Fault Refusal :=
  act (whenLive (viReset v causeRequest false)) s

/-- VI_RESET_DEFER_END (R391): the 10 ms have passed. -/
def execViResetDeferEnd (v : ViNo) (s : State) : Host.Outcome State Fault Refusal :=
  act (whenLive do
    let s ← cur
    match (viFaultSt s v).deferred with
    | some c => whenB (viPresent s v && viState s v != 2 && viState s v != 3) (resetStart v c)
    | none => pure ()) s

/-- Signal lines of a VI that are due for a posted write (12 R364, R367). -/
def dueLines (s : State) (v : Nat) : List Nat :=
  s.sys.host.slDirty.filter fun n => getF s (F.HOST_SL_BIND_VI n) == v

/-- A reset completes (R389 step 6): the VI is IDLE, and the program of an UNLOAD is gone (15 R442). -/
def resetDone (v : Nat) : M Unit := do
  let s ← cur
  let h := viFaultSt s v
  (dueLines s v).forM slPost
  putF (F.FAULT_VI_CTL_STATE v) 0
  putF (F.FAULT_VI_CTL_CAUSE v) h.cause
  addSat (F.FAULT_VI_CTL_RESETS v) 1
  whenB h.unload (putF (F.MGMT_VI_CTL_LOADED v) 0)
  modViFault v fun x => { x with lastDone := some (nowNs s), unload := false, needTiles := if h.unload then 0 else x.needTiles }
  devNote
  send (.report 9 (bytesOf 1 v ++ bytesOf 1 (viInc s v) ++ bytesOf 1 h.cause))

/-- VI_RESET_DONE (R389): it completes when QUIESCE is zero. -/
def execViResetDone (v : ViNo) (s : State) : Host.Outcome State Fault Refusal :=
  act (whenLive do
    let s ← cur
    whenB (viState s v == 2 && quiesce s v == 0) (resetDone v)) s

/-- VI_RESET_TIMEOUT (R393): the UNIT and the CODE of its error are free values. -/
def execViResetTimeout (v : ViNo) (s : State) : Host.Outcome State Fault Refusal :=
  act (do
    let s ← cur
    whenB (viState s v == 2) do
      let u ← takeFree
      let c ← takeFree
      contain { cls := 5, unit := bits u.toNat 7 0, index := v, code := bits c.toNat 7 0, vi := some v.val,
                inc := viInc s v, overlap := false, info := 0 } false) s

/-! Fencing a tile (01 R29, 13 R394, R395). -/

/-- Healthy tiles held as spares. -/
def spareTiles (s : State) : List Nat :=
  (upto 152).filter fun t => posOf s t == none && (tileOf s t).core.state != .fenced

/-- One of the spares: a free choice. -/
def pickSpare : M (Option Nat) := do
  let s ← cur
  let l := spareTiles s
  if l.isEmpty then return none
  else do
    let c ← takeFree
    return l[c.toNat % l.length]?

/-- GLOBAL_TILE_COUNT in one update. -/
def tileCount (spare logical : Nat) : M Unit := do
  let s ← cur
  let r := getR s R.GLOBAL_TILE_COUNT
  let f := getF s F.GLOBAL_TILE_COUNT_FENCED + 1
  putR R.GLOBAL_TILE_COUNT (setBits (setBits (setBits r 31 24 f) 15 8 spare) 7 0 logical)

/-- A tile leaves service: its registers are cleared, and an error of class UNIT is posted, its code a free value. -/
def tileOut (t : Nat) : M Unit := do
  withScore (objTile t) do
    emit (.tileClear t)
    emit (.core t { state := .fenced })
  let c ← takeFree
  postErr { cls := 3, unit := 1, index := t, code := bits c.toNat 7 0, vi := none, inc := 0, overlap := false, info := 0 }

/-- A tile as it is at allotment to a VI (05 R134, 14 R420, 15 R440). -/
def tileAllot (t v : Nat) : M Unit := do
  let s ← cur
  emit (.pondZero t)
  emit (.tileClear t)
  emit (.core t { state := .idle, vi := v, inc := BitVec.ofNat 8 (viInc s v), phaseStart := nowNs s })

/-- A VI that runs a program with fewer tiles than it needs is faulted (13 R394). -/
def tilesCheck (v : Nat) : M Unit := do
  let s ← cur
  whenB (viState s v == 1 && decide ((viTiles s v).length < (viFaultSt s v).needTiles)) (viFault v causeTiles 1 0 0)

/-- A tile is fenced: a spare takes its logical position, or the position empties (01 R29). -/
def tileFence (t : Nat) : M Unit := do
  let s ← cur
  let sp := getF s F.GLOBAL_TILE_COUNT_SPARE
  let lo := getF s F.GLOBAL_TILE_COUNT_LOGICAL
  if (tileOf s t).core.state = .fenced then pure ()
  else
    match posOf s t with
    | none => do
      tileCount (sp - 1) lo
      tileOut t
    | some i => do
      let new ← pickSpare
      let owner := (upto 16).find? fun v => viPresent s v && posAllotted s v i
      (match new with
       | some n => do
         putF (F.GLOBAL_TILE_MAP_PTILE i) n
         tileCount (sp - 1) lo
         (match owner with
          | some v => tileAllot n v
          | none => pure ())
       | none => do
         putF (F.GLOBAL_TILE_MAP_PTILE i) 255
         tileCount sp (lo - 1))
      tileOut t
      match owner with
      | some v => tilesCheck v
      | none => pure ()

/-- 24 h in ns. -/
def dayNs : Nat := 86400 * 1000000000

/-- VA of a byte of a tile's pond (05 R137). -/
def pondVa (s : State) (t off : Nat) : Nat :=
  0xFE0000000000 + ((tileSlot s (tileVi s t) t).getD 0) * 0x400000 + off

/-- An uncorrectable pond error (13 R378, R392, R394, R395). -/
def pondError (t off : Nat) : M Unit := do
  let s ← cur
  let c := (tileOf s t).core
  let past := (smGet [] s.sys.faults.pondErrs t).filter fun a => nowNs s < a + dayNs
  healthAdd (objTile t) 250
  modFaults fun y => { y with pondErrs := smSet [] y.pondErrs t (past ++ [nowNs s]) }
  whenB (c.state != .off && c.state != .fenced) (viFault c.vi causeMem 1 t (BitVec.ofNat 64 (pondVa s t off)))
  whenB (!past.isEmpty) (tileFence t)

/-- POND_UNCORRECTABLE (13 R395). -/
def execPondUncorrectable (t : TileNo) (off : Nat) (s : State) : Host.Outcome State Fault Refusal :=
  act (whenLive (pondError t off)) s

/-! Migrating a tile (13 R396). -/

/-- Whether an accepted entry of the tile's VI reads or writes its pond. -/
def migPending (s : State) (t : Nat) : Bool :=
  let v := tileVi s t
  (s.sys.dma.descs.any fun d => d.vi == v && descUses s v t d.words) ||
  (viGrps s v).any fun g => (grpSt s g).gens.any fun x =>
    !x.barrier && x.state != .done && x.state != .ended && collUses s v t x.words

/-- Whether a tile is in RUN or STALL. -/
def tileRuns (s : State) (t : Nat) : Bool := (tileOf s t).core.state == .run || (tileOf s t).core.state == .stall

/-- Step 2 once step 1 has finished: the tile is pre-empted, when its save area lies in the allotment (05 R165). -/
def migDrain (m : Mig) : M Unit := do
  let s ← cur
  whenB (!m.drained && !migPending s m.old && saveFits s m.old && tileRuns s m.old) do
    preemptStart m.old
    modCore m.old fun c => { c with state := .preempt, saving := none }
    putF (F.TILE_SAVE_BUSY m.old) 0
    modFaults fun y => { y with mig := some { m with drained := true } }

/-- FAULT_TILE_MIG with CMD = MIGRATE. -/
def migStart (t : Nat) : M Unit := do
  let s ← cur
  putF F.FAULT_TILE_MIG_PTILE t
  if getF s F.FAULT_TILE_MIG_STATUS = 1 then pure ()
  else if !(decide (t < 152) && tileRuns s t) then
    putF F.FAULT_TILE_MIG_STATUS 5
  else do
    let new ← pickSpare
    match new with
    | none => putF F.FAULT_TILE_MIG_STATUS 3
    | some n => do
      let m : Mig := { old := t, new := n, start := nowNs s, drained := false }
      putF F.FAULT_TILE_MIG_STATUS 1
      modFaults fun y => { y with mig := some m }
      migDrain m

/-- MIGRATE (R396). -/
def execMigrate (ptile : Byte) (s : State) : Host.Outcome State Fault Refusal :=
  act (do
    let s ← cur
    whenB (enginesRun s) (migStart ptile.toNat)) s

/-- The pond of a tile is copied to another. -/
def pondCopy (a b : Nat) : M Unit := do
  let s ← cur
  emit (.pondZero b)
  (s.pond.filter fun p => decide (a * 4194304 ≤ p.1 ∧ p.1 < (a + 1) * 4194304)).forM fun p =>
    emit (.pond b (p.1 - a * 4194304) [p.2])

/-- What a tile's window and core hold of its VI passes to another tile. -/
def tileMove (a b : Nat) : M Unit := do
  let s ← cur
  let c := (tileOf s a).core
  emit (.tileClear b)
  emit (.core b { state := .preempt, vi := c.vi, inc := c.inc, phase := c.phase, phaseStart := c.phaseStart })
  putF (F.TILE_TAPE_BASE_BASE b) (getF s (F.TILE_TAPE_BASE_BASE a))
  putF (F.TILE_TAPE_SIZE_SIZE b) (getF s (F.TILE_TAPE_SIZE_SIZE a))
  putF (F.TILE_SAVE_BASE b) (getF s (F.TILE_SAVE_BASE a))

/-- A migration ends. -/
def migEnd (status : Nat) : M Unit := do
  putF F.FAULT_TILE_MIG_STATUS status
  modFaults fun y => { y with mig := none }

/-- Steps 3 to 5: the pond is copied, the position moves, the old tile is fenced and the new one restored. -/
def migMove (m : Mig) : M Unit := do
  let s ← cur
  pondCopy m.old m.new
  tileMove m.old m.new
  (match posOf s m.old with
   | some i => putF (F.GLOBAL_TILE_MAP_PTILE i) m.new
   | none => pure ())
  tileCount (getF s F.GLOBAL_TILE_COUNT_SPARE - 1) (getF s F.GLOBAL_TILE_COUNT_LOGICAL)
  tileOut m.old
  migEnd 2
  restoreStart m.new
  let s ← cur
  whenB ((tileOf s m.new).core.saving != none) do
    modCore m.new fun c => { c with state := .run, saving := none }
    putF (F.TILE_SAVE_BUSY m.new) 0

/-- The migration goes on: a tile that its VI's reset has stopped, or a spare that was taken, ends it. -/
def migGo (m : Mig) : M Unit := do
  let s ← cur
  if m.drained = true ∧ (tileOf s m.old).core.state ≠ .preempt then migEnd 5
  else if m.drained = false ∧ tileRuns s m.old = false then migEnd 5
  else if (spareTiles s).contains m.new = false then migEnd 3
  else whenB m.drained (migMove m)

/-- MIGRATE_DONE (R396). -/
def execMigrateDone (s : State) : Host.Outcome State Fault Refusal :=
  act (do
    let s ← cur
    whenB (enginesRun s) do
      (match s.sys.faults.mig with
       | some m => migDrain m
       | none => pure ())
      let s ← cur
      match s.sys.faults.mig with
      | some m => migGo m
      | none => pure ()) s

/-- MIGRATE_TIMEOUT (R396): step 1 has not finished. -/
def execMigrateTimeout (s : State) : Host.Outcome State Fault Refusal :=
  act (whenLive do
    let s ← cur
    match s.sys.faults.mig with
    | some m => whenB (!m.drained && (migPending s m.old || !saveFits s m.old || !tileRuns s m.old)) (migEnd 4)
    | none => pure ()) s

/-! Health. -/

/-- An accumulator after a second. -/
def decayed (k a : Nat) : Nat := a - a / 2 ^ k

/-- HEALTH_DECAY (R403). -/
def execHealthDecay (s : State) : Host.Outcome State Fault Refusal :=
  act (whenLive do
    let s ← cur
    let k := max 2 (min 12 (getF s F.FAULT_HEALTH_CFG_DECAY))
    modFaults fun y => { y with health := y.health.map fun p => (p.1, decayed k p.2) }
    s.sys.faults.health.forM fun p => scoreCheck p.1 (scoreOf s p.1)
    whenB (!s.sys.faults.health.any fun p => p.1 == objDevice) (scoreCheck objDevice (scoreOf s objDevice))) s

end Sys2Proof.Machine
end

