-- ==== Sys2Proof/Machine/Edge.lean ====
section
/-! DEFINITION. Edge ports (10 R314-R316): modules, lock and Ethernet frames. -/
namespace Sys2Proof.Machine

/-- EtherType of Hyora frames (R315). -/
def hyoraType : BitVec 16 := 0x88B5

/-- MODULE_INSERT (R316). -/
def execModuleInsert (e : EdgeNo) (s : State) : Host.Outcome State Fault Refusal :=
  act (whenLive do
    putF (F.EDGE_STAT_MODPRES e) 1
    markDirty) s

/-- MODULE_READY (R316): the data path is active, and with AUTOUP the device issues UP. -/
def execModuleReady (e : EdgeNo) (s : State) : Host.Outcome State Fault Refusal :=
  act (do
    let s ← cur
    whenB (live s && flag s (F.EDGE_STAT_MODPRES e)) do
      putF (F.EDGE_STAT_MODREADY e) 1
      whenB (flag s (F.EDGE_CTL_AUTOUP e)) (upCmd (.edge e))) s

/-- MODULE_REMOVE (R316): a port that was not down already goes DOWN, and its queued frames are purged. -/
def execModuleRemove (e : EdgeNo) (s : State) : Host.Outcome State Fault Refusal :=
  act (whenLive do
    let s ← cur
    putF (F.EDGE_STAT_MODPRES e) 0
    putF (F.EDGE_STAT_MODREADY e) 0
    markDirty
    setHeld none (.edge e)
    whenB (edgePs s e != psOff && edgePs s e != psFailedLock) (downPort (.edge e))) s

/-- EDGE_PORT_LOCK (R314, 11 R342). -/
def execEdgePortLock (e : EdgeNo) (s : State) : Host.Outcome State Fault Refusal :=
  act (do
    let s ← cur
    whenB (live s && edgePs s e == psTraining && edgeMode s e != 0) (setEs e psUp)) s

/-- EDGE_FRAME_RECEIVE (R315). A frame that passes is taken by the row of its TYPE. -/
def execEdgeFrameReceive (e : EdgeNo) (f : EthFrame) (s : State) : Host.Outcome State Fault Refusal :=
  act (do
    let s ← cur
    let storage := edgeMode s e == 2 && flag s (F.EDGE_CTL_PFC e)
    if !live s || edgePs s e != psUp || edgeMode s e == 0 then pure ()
    else if !f.fcsOk then addSat (F.EDGE_CNT_FCSERR e) 1
    else if 9216 < f.len || f.pause || edgeMode s e == 3 then pure ()
    else
      match f.pfc, storage with
      | some v, true => modMetro e fun m => { m with paused := bit v.toNat (getF s (F.EDGE_CTL_PFCPRI e)) }
      | _, _ => whenB (f.etherType != hyoraType) (addSat (F.EDGE_CNT_BADTYPE e) 1)) s

end Sys2Proof.Machine
end

