-- ==== Sys2Proof/Machine/LinkRx.lean ====
section
/-! DEFINITION. What a Hyora link receives: frames, acknowledgements and credit (11 R319-R321, R327-R332), and link
messages (R322, R324-R326). -/
namespace Sys2Proof.Machine

/-! Frames. -/

/-- Whether a class is listed for a KIND (R321). -/
def kindClass (kind tc : Nat) : Bool :=
  match kind with
  | 0 => tc == 5 || tc == 6 || tc == 1
  | 1 => tc == 0
  | 2 => tc == 0
  | 3 => 1 ≤ tc && tc ≤ 5
  | 4 => tc == 0
  | 5 => tc == 7
  | 6 => tc == 7
  | 7 => tc == 7
  | 8 => tc == 0
  | _ => false

/-- The cells of a frame, as they are on the line. -/
def cellBytes (f : LinkFrame) : List Byte := (f.payload ++ List.replicate (256 * f.cells) 0).take (256 * f.cells)

/-- Whether a frame is errored (R320). -/
def frameErrored (f : LinkFrame) : Bool :=
  f.errored || f.sofInside || f.dataBlocks != 4 + 32 * f.cells || crc32c (hdrBytes f.hdr ++ cellBytes f) != f.crc.toNat

/-- Owner of a frame that arrives against credit (09 R269). -/
def creditOwner (tc : Nat) : Nat := if 1 ≤ tc ∧ tc ≤ 6 then 16 else 17

/-- A frame from a port for an output of Divide (R332). -/
def portFrame (p out id : Nat) (f : LinkFrame) : DivFrame :=
  { id, input := p, tc := f.tc, owner := creditOwner f.tc, inc := 0, dests := [out], cells := f.cells,
    flow := .transit p, hdr := f.hdr, payload := f.payload }

/-- The frame goes on to an output, or back where it came from: then it is dropped. -/
def portEnter (p out : Nat) (f : LinkFrame) : M Unit := do
  if out = p then freeCells p f.tc f.cells
  else do
    let id ← freshId
    enter (portFrame p out id f)

/-- A frame in order (R321, R335, R336): the device's own go to its engines unless they stop (13 R377) or the epoch is
not accepted. -/
def frameTake (p : Nat) (f : LinkFrame) : M Unit := do
  let s ← cur
  let drop := freeCells p f.tc f.cells
  if !kindClass f.hdr.kind.toNat f.tc then do
    addSat (F.PORT_LINK_CNT_BADBLK p) 1
    drop
  else
    match route s f.hdr.sdev.toNat f.hdr.ddev.toNat f.tc with
    | .home =>
      if !enginesRun s then drop
      else if !epochOk s f.hdr.epoch.toNat then do
        watch f.hdr.dvi.toNat wStale 1
        drop
      else portEnter p (74 + p / 32) f
    | .unreachable => drop
    | .port q => portEnter p q f
    | .edge e => portEnter p (64 + e) f

/-- The map of the frames held behind the gap (R329). -/
def smapOf (s : State) (p : Nat) : Nat :=
  let l := linkSt s p
  sumOf (fun j => if l.ahead.any fun f => f.seq.toNat == (l.expect + 1 + j) % 65536 then 2 ^ j else 0) (upto 32)

/-- ACK (R328). -/
def sendLinkAck (p : Nat) (nak : Bool) : M Unit := do
  let s ← cur
  send (.linkAck p (linkSt s p).expect nak (smapOf s p))

/-- NAK, at most one for each expected SEQ in each T_REPLAY (R329). -/
def sendNak (p : Nat) : M Unit := do
  let s ← cur
  let l := linkSt s p
  let again := match l.nakFor with
    | some x => x.1 == l.expect && decide (nowNs s < x.2 + tReplay s p)
    | none => false
  whenB (!again) do
    modLink p fun y => { y with nakFor := some (y.expect, nowNs s) }
    sendLinkAck p true

/-- The expected frame, and after it those held behind the gap that are now in order (R328, R329). -/
def acceptRun (p : Nat) : Nat → LinkFrame → M Unit
  | 0, _ => pure ()
  | n + 1, f => do
    modLink p fun y => { y with expect := (y.expect + 1) % 65536, seen := true }
    frameTake p f
    let s ← cur
    let l := linkSt s p
    match l.ahead.find? fun x => x.seq.toNat == l.expect with
    | none => pure ()
    | some x => do
      modLink p fun y => { y with ahead := y.ahead.filter fun z => z.seq.toNat != x.seq.toNat }
      acceptRun p n x

/-- LINK_FRAME_RECEIVE (R320, R328, R329, R332). -/
def execLinkFrameReceive (p : PortNo) (f : LinkFrame) (s : State) : Host.Outcome State Fault Refusal :=
  act (do
    let s ← cur
    let l := linkSt s p
    let d := (f.seq.toNat + 65536 - l.expect) % 65536
    let drop := freeCells p f.tc f.cells
    whenB (live s && portPs s p == psUp && linkCarries s p f.tc)
      (if frameErrored f then do
        drop
        sendNak p
       else if d = 0 then do
        acceptRun p 33 f
        sendLinkAck p false
       else if d < 32768 then do
        (if flag s (F.PORT_LINK_STAT_SACKON p) && d ≤ 32 && !l.ahead.any fun x => x.seq == f.seq then
          modLink p fun y => { y with ahead := y.ahead ++ [f] }
         else drop)
        sendNak p
       else drop)) s

/-! Acknowledgements (R327-R330). -/

/-- Frames before ACKSEQ are acknowledged, and their cells are freed: whether there were any. -/
def ackTo (p ackseq : Nat) : M Bool := do
  let s ← cur
  let done := (linkSt s p).sent.filter fun x => 1 ≤ (ackseq + 65536 - x.seq) % 65536 && (ackseq + 65536 - x.seq) % 65536 < 32768
  modLink p fun y => { y with sent := y.sent.filter fun x => !done.contains x }
  modDiv fun y => { y with frames := y.frames.map fun d => done.foldl (fun d x => unackFrame p x.id d) d }
  sweepFrames
  whenB (!done.isEmpty) (modLink p fun y => { y with replays := 0 })
  return !done.isEmpty

/-- A replay, or RETRAIN when REPLAYMAX of them have brought no advance (R330). -/
def replay (p : Nat) (l : List Sent) : M Unit := do
  let s ← cur
  if max 1 (getF s (F.PORT_LINK_CFG_REPLAYMAX p)) ≤ (linkSt s p).replays then do
    putF (F.PORT_LINK_STAT_REPLIM p) 1
    addSat (F.PORT_LINK_CNT_RETRAINS p) 1
    retrainCmd (.hyora (Fin.ofNat 64 p))
  else do
    modLink p fun y => { y with replays := y.replays + 1 }
    healthAdd (objPort p) 2
    countEv 8 3 p none 1
    resend p l

/-- A control block with a nonzero reserved bit is counted (R319); one on a link that carries frames is taken. -/
def block (p : PortNo) (reserved : Nat) (k : M Unit) : M Unit := do
  let s ← cur
  whenB (live s && portPs s p == psUp)
    (if reserved ≠ 0 then addSat (F.PORT_LINK_CNT_BADBLK p) 1 else whenB (linkFrames s p) k)

/-- ACK (R328). -/
def execAck (p : PortNo) (body : BitVec 56) (s : State) : Host.Outcome State Fault Refusal :=
  act (block p (bits body.toNat 55 49) (whenB (!bit body.toNat 16) do
    let _ ← ackTo p (bits body.toNat 15 0)
    pure ())) s

/-- The frames that a NAK asks for (R329). -/
def nakked (s : State) (p ackseq smap : Nat) : List Sent :=
  (linkSt s p).sent.filter fun x =>
    let d := (x.seq + 65536 - ackseq) % 65536
    !flag s (F.PORT_LINK_STAT_SACKON p) || d == 0 || (d ≤ 32 && !bit smap (d - 1))

/-- NAK (R329). -/
def execNak (p : PortNo) (body : BitVec 56) (s : State) : Host.Outcome State Fault Refusal :=
  act (block p (bits body.toNat 55 49) (whenB (bit body.toNat 16) do
    addSat (F.PORT_LINK_CNT_NAKS p) 1
    let _ ← ackTo p (bits body.toNat 15 0)
    let s ← cur
    let l := nakked s p (bits body.toNat 15 0) (bits body.toNat 48 17)
    whenB (!l.isEmpty) (replay p l))) s

/-- REPLAY_TIMEOUT (R330). -/
def execReplayTimeout (p : PortNo) (s : State) : Host.Outcome State Fault Refusal :=
  act (do
    let s ← cur
    let l := (linkSt s p).sent
    whenB (live s && portPs s p == psUp && !l.isEmpty) do
      addSat (F.PORT_LINK_CNT_TIMEOUTS p) 1
      replay p l) s

/-- ACK_REPEAT (R328). -/
def execAckRepeat (p : PortNo) (s : State) : Host.Outcome State Fault Refusal :=
  act (do
    let s ← cur
    whenB (live s && portPs s p == psUp && linkFrames s p && (linkSt s p).seen) (sendLinkAck p false)) s

/-! Credit (R331, R332). -/

/-- CRED (R331). -/
def execCred (p : PortNo) (body : BitVec 56) (s : State) : Host.Outcome State Fault Refusal :=
  act (block p (bits body.toNat 55 27)
    (modLink p fun y => { y with retC := smSet 0 y.retC (bits body.toNat 2 0) (bits body.toNat 26 3) })) s

/-- CRED_RETURN (R332). -/
def execCredReturn (p : PortNo) (tc : Fin 8) (s : State) : Host.Outcome State Fault Refusal :=
  act (do
    let s ← cur
    let l := linkSt s p
    let n := smGet 0 l.freedC tc
    whenB (live s && portPs s p == psUp && linkFrames s p && decide (0 < n)) do
      modLink p fun y =>
        { y with totalC := smSet 0 y.totalC tc ((smGet 0 y.totalC tc + n) % 2 ^ 24), freedC := smSet 0 y.freedC tc 0
                 changedC := smSet 0 y.changedC tc (nowNs s + 1) }
      sendCred p tc) s

/-- CRED_REPEAT (R332): the CRED of a class whose TOTAL changed within the last 10 µs. -/
def execCredRepeat (p : PortNo) (tc : Fin 8) (s : State) : Host.Outcome State Fault Refusal :=
  act (do
    let s ← cur
    let t := smGet 0 (linkSt s p).changedC tc
    whenB (live s && portPs s p == psUp && linkFrames s p && decide (0 < t ∧ nowNs s + 1 ≤ t + 10000)) (sendCred p tc)) s

/-! Link messages. -/

/-- A number of a message. -/
def msgNum (m : LinkMsg) (off n : Nat) : Nat := ofBytes ((m.bytes.drop off).take n)

/-- An unerrored message of a MSG on a port that is UP; its NONCE is the peer's latest (R322). -/
def msgTake (p : PortNo) (m : LinkMsg) (msg : Nat) (k : M Unit) : M Unit := do
  let s ← cur
  whenB (live s && linkMsgs s p && !m.errored && m.bytes.length == 64 && crc32c m.bytes == m.crc.toNat &&
      msgNum m 0 1 == msg) do
    modLink p fun y => { y with peerNonce := msgNum m 2 2 }
    k

/-- CAP (R324). -/
def execCap (p : PortNo) (m : LinkMsg) (s : State) : Host.Outcome State Fault Refusal :=
  act (msgTake p m 1 do
    let s ← cur
    whenB (portLs s p == lsCapex && (linkSt s p).nonces.contains (msgNum m 4 2)) do
      putF (F.PORT_LINK_STAT_PMAJOR p) (msgNum m 8 1)
      putF (F.PORT_LINK_STAT_PMINOR p) (msgNum m 9 1)
      if msgNum m 8 1 ≠ Config.linkMajor % 256 then setLs p lsNegFail false
      else do
        putF (F.PORT_LINK_STAT_SACKON p) (b2n (bit (msgNum m 10 2) 0 && flag s (F.PORT_LINK_CFG_SACK p)))
        (upto 8).forM fun c => putF (F.PORT_LINK_CRED_PEER p c) (msgNum m (12 + 4 * c) 3)
        setLs p lsIdent false) s

/-- CAP_TIMER (R324). -/
def execCapTimer (p : PortNo) (s : State) : Host.Outcome State Fault Refusal :=
  act (do
    let s ← cur
    whenB (live s && portPs s p == psUp && portLs s p == lsCapex) (sendCap p)) s

/-- IDENT (R325): a link past IDENT answers one that it does not wait for, so that the peer's sweep hears it (R337). -/
def execIdent (p : PortNo) (m : LinkMsg) (s : State) : Host.Outcome State Fault Refusal :=
  act (msgTake p m 2 do
    let s ← cur
    let ls := portLs s p
    whenB ((linkSt s p).nonces.contains (msgNum m 4 2) && ls != lsCapex && ls != lsNegFail) do
      let same := getF s (F.PORT_LINK_NBR_PDEV p) == msgNum m 8 2 % 32768 &&
        getF s (F.PORT_LINK_NBR_PPORT p) == msgNum m 10 1 % 64 && getR s (R.PORT_LINK_SER p) == msgNum m 16 8
      putF (F.PORT_LINK_NBR_PDEV p) (msgNum m 8 2)
      putF (F.PORT_LINK_NBR_PPORT p) (msgNum m 10 1)
      putF (F.PORT_LINK_NBR_PEPOCH p) (msgNum m 12 2)
      putR (R.PORT_LINK_SER p) (msgNum m 16 8)
      modLink p fun y => { y with identFresh := true }
      whenB (!same) markDirty
      if ls = lsIdent then identCheck p else whenB s.sys.topo.sweep.isNone (sendIdent p)) s

/-- IDENT_TIMER (R325). -/
def execIdentTimer (p : PortNo) (s : State) : Host.Outcome State Fault Refusal :=
  act (do
    let s ← cur
    whenB (live s && portPs s p == psUp && portLs s p == lsIdent) do
      sendIdent p
      sendProbe p
      sendProbe p
      sendProbe p) s

/-- PROBE (R325): it is answered with the turnaround time. -/
def execProbe (p : PortNo) (m : LinkMsg) (turnaround : W64) (s : State) : Host.Outcome State Fault Refusal :=
  act (msgTake p m 3 do
    let n ← drawNonce p
    send (.linkMsg p (linkMsg 4 n (bytesOf 4 0 ++ bytesOf 8 (msgNum m 8 8) ++ bytesOf 8 turnaround.toNat)))) s

/-- The round trip of a reply: now - T_SEND - turnaround (R325). -/
def rttOf (now tSend turnaround : Nat) : Nat := (now + 2 * 2 ^ 64 - tSend - turnaround) % 2 ^ 64

/-- PROBE_REPLY (R325): the smallest of three. -/
def execProbeReply (p : PortNo) (m : LinkMsg) (s : State) : Host.Outcome State Fault Refusal :=
  act (msgTake p m 4 do
    let s ← cur
    let l := rttOf (nowNs s) (msgNum m 8 8) (msgNum m 16 8) :: (linkSt s p).rtts
    if 3 ≤ l.length then do
      putF (F.PORT_LINK_RTT_RTT p) (l.foldl min (2 ^ 32 - 1))
      modLink p fun y => { y with rtts := [] }
    else modLink p fun y => { y with rtts := l }) s

end Sys2Proof.Machine
end

