-- ==== Sys2Proof/Machine/MetroSpan.lean ====
section
/-! DEFINITION. Metro spans (11 R341-R345): paths, frames in order, and retransmission. -/
namespace Sys2Proof.Machine

/-! Sending (R343). -/

/-- Owner of the buffers of an edge port (09 R286). -/
def metroOwner (e : Nat) : Nat := 128 + e

/-- Bytes of a DATA frame in the buffers: the transport header and its cells. -/
def metroBytes (f : DivFrame) : Nat := 32 + 256 * f.cells

/-- Bytes from the oldest unacknowledged frame to the newest. -/
def metroOut (m : Metro) : Nat := sumOf (·.bytes) m.sent

/-- 64 KiB pages of the stream that n more bytes at a position begin. -/
def pagesAfter (pos n : Nat) : Nat := cdiv (pos + n) 65536 - cdiv pos 65536

/-- The window in bytes: 100 GB/s over RTTDECL, and the peer's RWIN. -/
def metroWindow (s : State) (e : Nat) : Nat :=
  let w := getF s (F.EDGE_METRO_CFG_RTTDECL e) * 100000
  match (metroSt s e).rwin with
  | some r => min w (r * 65536)
  | none => w

/-- Classes that the mode carries (10 R315). -/
def edgeCarries (s : State) (e tc : Nat) : Bool :=
  (edgeMode s e == 1 && tc != 6) || (edgeMode s e == 2 && tc == 6 && !(metroSt s e).paused)

/-- Whether an edge port can send a frame now: a mirror copy needs a port that is UP, any other its path's window and room
in Mere. -/
def metroFits (s : State) (e : Nat) (f : DivFrame) : Bool :=
  let m := metroSt s e
  edgePs s e == psUp &&
  (f.owner == 18 || (edgeCarries s e f.tc && pathSt s e == paUp && decide (metroOut m + metroBytes f ≤ metroWindow s e) &&
    (pagesAfter m.txPos (metroBytes f) == 0 || mereGrants s (metroOwner e) 4)))

/-- A frame leaves by an edge port: a copy as it is (R346), any other as DATA under the next PSN. -/
def metroSend (e : Nat) (f : DivFrame) : M Unit := do
  let s ← cur
  let m := metroSt s e
  if f.owner = 18 then send (.metro e 4 0 f.payload)
  else do
    whenB (decide (0 < pagesAfter m.txPos (metroBytes f))) do
      let r ← mereTake 65536 (metroOwner e) 0
      match r.2 with
      | some b => modMetro e fun y => { y with txMere := y.txMere ++ [b] }
      | none => pure ()
    modMetro e fun y =>
      { y with nextPsn := (y.nextPsn + 1) % 2 ^ 32, txPos := y.txPos + metroBytes f
               sent := y.sent ++ [{ psn := y.nextPsn, frame := f, at_ := nowNs s, count := 1, bytes := metroBytes f }] }
    send (.metroFrame e m.nextPsn f)

/-! Frames of the peer. -/

/-- A frame of the configured path and version on a port that is UP; another is counted in BADTYPE (R341). -/
def metroTake (e : EdgeNo) (m : MetroHdr) (k : M Unit) : M Unit := do
  let s ← cur
  whenB (live s && edgePs s e == psUp && (edgeMode s e == 1 || edgeMode s e == 2))
    (if m.version ≠ 1 ∨ m.path.toNat ≠ getF s (F.EDGE_METRO_PEER_PATH e) then addSat (F.EDGE_CNT_BADTYPE e) 1 else k)

/-- SACK: CUM, RWIN, which the spec does not set, and the map of what is held (R341, R344). -/
def sendSack (e : Nat) : M Unit := do
  let c ← takeFree
  let s ← cur
  let m := metroSt s e
  let map := sumOf (fun j => if m.ahead.any fun p => p.1 == (m.cum + 1 + j) % 2 ^ 32 then 2 ^ j else 0) (upto 256)
  modMetro e fun y => { y with unsacked := 0 }
  send (.metro e 1 0 (bytesOf 4 m.cum ++ bytesOf 4 (bits c.toNat 31 0) ++ bytesOf 32 map))

/-- Owner and incarnation of a frame from an edge port: the VI it lands in, or TRANSIT or DEVICE (09 R269). -/
def edgeOwner (h : Hdr) (tc : Nat) (home : Bool) : Nat × Byte :=
  if home ∧ 2 ≤ tc ∧ tc ≤ 6 then (h.dvi.toNat, h.dinc) else (creditOwner tc, 0)

/-- A frame in PSN order passes into Divide (R345). -/
def edgeEnter (e out : Nat) (home : Bool) (f : DivFrame) : M Unit := do
  let id ← freshId
  let o := edgeOwner f.hdr f.tc home
  enter { f with id, input := 64 + e, owner := o.1, inc := o.2, dests := [out], flow := .transit (64 + e) }

/-- The transfer that a DMA_DATA header belongs to. -/
def hdrKey (h : Hdr) : XferKey :=
  { sdev := h.sdev.toNat, svi := h.svi.toNat, sinc := h.sinc.toNat, queue := wf h.k0 9 0, seq := wf h.k0 41 10 }

/-- A frame in order: routed as on any input; external bytes are remembered for the INPUT record (14 R422). -/
def edgeTake (e : Nat) (f : DivFrame) : M Unit := do
  let s ← cur
  whenB (kindClass f.hdr.kind.toNat f.tc)
    (match route s f.hdr.sdev.toNat f.hdr.ddev.toNat f.tc with
     | .home =>
       if !enginesRun s then pure ()
       else if !epochOk s f.hdr.epoch.toNat then watch f.hdr.dvi.toNat wStale 1
       else do
         whenB (edgeMode s e == 2 && f.hdr.kind == 0 && !s.sys.dma.edgeXfers.any fun x => x.1 == hdrKey f.hdr)
           (modDma fun y => { y with edgeXfers := y.edgeXfers ++ [(hdrKey f.hdr, e)] })
         edgeEnter e (74 + e / 4) true f
     | .unreachable => pure ()
     | .port p => edgeEnter e p false f
     | .edge q => whenB (q != e) (edgeEnter e (64 + q) false f))

/-- The frames held behind the gap that are now in order. -/
def edgeRun (e : Nat) : Nat → DivFrame → M Unit
  | 0, _ => pure ()
  | n + 1, f => do
    modMetro e fun y => { y with cum := (y.cum + 1) % 2 ^ 32 }
    edgeTake e f
    let s ← cur
    let m := metroSt s e
    match m.ahead.find? fun p => p.1 == m.cum with
    | none => pure ()
    | some p => do
      modMetro e fun y => { y with ahead := y.ahead.filter fun q => q.1 != p.1 }
      edgeRun e n p.2

/-- Buffers that hold frames behind a gap. -/
def rxPages (l : List (Nat × DivFrame)) : Nat := cdiv (sumOf (fun p => metroBytes p.2) l) 65536

/-- Buffers that no frame needs any more are freed. -/
def rxTrim (e : Nat) : M Unit := do
  let s ← cur
  let m := metroSt s e
  mereDrop (m.rxMere.drop (rxPages m.ahead))
  modMetro e fun y => { y with rxMere := y.rxMere.take (rxPages y.ahead) }

/-- Whether shared space has a buffer for an edge port (09 R286). -/
def sharedRoom (s : State) (o : Nat) : Bool :=
  decide (0 < poolShared s 4 ∧ heldBytes s o + 65536 ≤ getF s (F.MERE_OWN_MAX_MAX o) * 65536)

/-- A frame behind a gap is held in shared space, or discarded (R345). -/
def edgeHold (e psn : Nat) (f : DivFrame) : M Unit := do
  let s ← cur
  let m := metroSt s e
  let keep := modMetro e fun y => { y with ahead := y.ahead ++ [(psn, f)] }
  if m.ahead.any fun p => p.1 == psn then pure ()
  else if rxPages (m.ahead ++ [(psn, f)]) ≤ m.rxMere.length then keep
  else if sharedRoom s (metroOwner e) then do
    let b := (4, lowestFree s 4)
    modSys fun y => { y with mere := y.mere ++ [{ pool := 4, index := b.2, owner := metroOwner e, inc := 0 }] }
    countEv 7 1 4 none 1
    modMetro e fun y => { y with rxMere := y.rxMere ++ [b] }
    keep
  else do
    addSat (F.EDGE_METRO_CNT_REORDDROP e) 1
    countEv 9 2 e none 1

/-- METRO_DATA (R344, R345). -/
def execMetroData (e : EdgeNo) (m : MetroHdr) (frame : DivFrame) (s : State) : Host.Outcome State Fault Refusal :=
  act (metroTake e m do
    let s ← cur
    whenB (pathSt s e == paUp) do
      let d := (m.psn.toNat + 2 ^ 32 - (metroSt s e).cum) % 2 ^ 32
      modMetro e fun y => { y with unsacked := y.unsacked + 1 }
      (if d = 0 then do
        edgeRun e ((metroSt s e).ahead.length + 1) frame
        rxTrim e
       else whenB (decide (d < 2 ^ 31)) (edgeHold e m.psn.toNat frame))
      let s ← cur
      whenB (decide (0 < d ∧ d < 2 ^ 31) || decide (32 ≤ (metroSt s e).unsacked)) (sendSack e)) s

/-! Acknowledgement and retransmission (R343, R344). -/

/-- The path has FAILED. -/
def pathFail (e : Nat) : M Unit := setPath e paFailed

/-- A frame is sent again, unless it has been sent RTXMAX times: then the path fails. -/
def metroResend (e : Nat) (x : MSent) : M Unit := do
  let s ← cur
  if pathSt s e ≠ paUp then pure ()
  else if max 1 (getF s (F.EDGE_METRO_CFG_RTXMAX e)) ≤ x.count then pathFail e
  else do
    modMetro e fun y =>
      { y with sent := y.sent.map fun z => if z.psn = x.psn then { z with at_ := nowNs s, count := z.count + 1 } else z }
    addSat (F.EDGE_METRO_STAT_RETX e) 1
    healthAdd (objEdge e) 2
    countEv 9 1 e none 1
    send (.metroFrame e x.psn x.frame)

/-- Buffers whose frames have all been acknowledged are freed. -/
def txTrim (e : Nat) : M Unit := do
  let s ← cur
  let m := metroSt s e
  let start := m.txPos - metroOut m
  let need := if m.sent.isEmpty then 0 else cdiv m.txPos 65536 - start / 65536
  let n := m.txMere.length - need
  mereDrop (m.txMere.take n)
  modMetro e fun y => { y with txMere := y.txMere.drop n, txPos := if y.sent.isEmpty then 0 else y.txPos }

/-- Frames that a SACK reports missing below a held PSN. -/
def missing (l : List MSent) (cum map : Nat) : List MSent :=
  l.filter fun x =>
    let d := (x.psn + 2 ^ 32 - cum) % 2 ^ 32
    decide (d ≤ 256) && (d == 0 || !bit map (d - 1)) && decide (0 < map / 2 ^ d)

/-- SACK (R343, R344). -/
def execSack (e : EdgeNo) (m : MetroHdr) (cum rwin : W32) (map : BitVec 256) (s : State) :
    Host.Outcome State Fault Refusal :=
  act (metroTake e m do
    let s ← cur
    whenB (pathSt s e == paUp) do
      modMetro e fun y =>
        { y with rwin := some rwin.toNat
                 sent := y.sent.filter fun x => !decide (1 ≤ (cum.toNat + 2 ^ 32 - x.psn) % 2 ^ 32 ∧
                   (cum.toNat + 2 ^ 32 - x.psn) % 2 ^ 32 < 2 ^ 31) }
      txTrim e
      let s ← cur
      (missing (metroSt s e).sent cum.toNat map.toNat).forM fun x =>
        whenB (decide (x.count = 1 ∨ x.at_ + getF s (F.EDGE_METRO_STAT_SRTT e) * 1000 ≤ nowNs s)) (metroResend e x)) s

/-- METRO_RTX_TIMER (R344). -/
def execMetroRtxTimer (e : EdgeNo) (psn : W32) (s : State) : Host.Outcome State Fault Refusal :=
  act (do
    let s ← cur
    match (metroSt s e).sent.find? fun x => x.psn == psn.toNat with
    | none => pure ()
    | some x => whenB (live s) (metroResend e x)) s

/-- METRO_SACK_TIMER (R344). -/
def execMetroSackTimer (e : EdgeNo) (s : State) : Host.Outcome State Fault Refusal :=
  act (do
    let s ← cur
    let m := metroSt s e
    whenB (live s && pathSt s e == paUp && (decide (0 < m.unsacked) || !m.ahead.isEmpty)) (sendSack e)) s

/-- METRO_SACK_TIMEOUT (R344). -/
def execMetroSackTimeout (e : EdgeNo) (s : State) : Host.Outcome State Fault Refusal :=
  act (do
    let s ← cur
    whenB (live s && pathSt s e == paUp && !(metroSt s e).sent.isEmpty) (pathFail e)) s

/-! Probes (R342). -/

/-- METRO_PROBE: it is answered. -/
def execMetroProbe (e : EdgeNo) (m : MetroHdr) (_nonce : BitVec 16) (tSend turnaround : W64) (s : State) :
    Host.Outcome State Fault Refusal :=
  act (metroTake e m do
    let c ← takeFree
    send (.metro e 3 0 (linkMsg 4 (bits c.toNat 15 0)
      (bytesOf 4 0 ++ bytesOf 8 tSend.toNat ++ bytesOf 8 turnaround.toNat)))) s

/-- METRO_PROBE_REPLY (R342): from the configured peer it brings the path UP, and the smallest of three sets SRTT. -/
def execMetroProbeReply (e : EdgeNo) (m : MetroHdr) (tSend turnaround : W64) (s : State) :
    Host.Outcome State Fault Refusal :=
  act (do
    let s ← cur
    whenB (live s && edgePs s e == psUp && (edgeMode s e == 1 || edgeMode s e == 2))
      (if m.srcMac.toNat ≠ getF s (F.EDGE_METRO_PEER_MAC e) ∨ m.path.toNat ≠ getF s (F.EDGE_METRO_PEER_PATH e) then do
        putF (F.EDGE_METRO_STAT_MISMATCH e) 1
        whenB (m.path.toNat != getF s (F.EDGE_METRO_PEER_PATH e)) (addSat (F.EDGE_CNT_BADTYPE e) 1)
       else if m.version ≠ 1 then addSat (F.EDGE_CNT_BADTYPE e) 1
       else do
        let l := (metroSt s e).probes
        whenB (decide (l.length < 3)) do
          let l := rttOf (nowNs s) tSend.toNat turnaround.toNat / 1000 :: l
          modMetro e fun y => { y with probes := l }
          let t := l.foldl min 65535
          putF (F.EDGE_METRO_STAT_SRTT e) t
          putF (F.EDGE_METRO_STAT_RTTOVER e) (b2n (decide (getF s (F.EDGE_METRO_CFG_RTTDECL e) < t)))
        whenB (pathSt s e == paProbing || pathSt s e == paFailed) (setPath e paUp))) s

/-- METRO_PROBE_TIMER (R342, R344). -/
def execMetroProbeTimer (e : EdgeNo) (s : State) : Host.Outcome State Fault Refusal :=
  act (do
    let s ← cur
    whenB (live s && edgePs s e == psUp && (pathSt s e == paProbing || pathSt s e == paFailed)) do
      let c ← takeFree
      send (.metro e 2 0 (linkMsg 3 (bits c.toNat 15 0) (bytesOf 4 0 ++ bytesOf 8 (nowNs s))))) s

end Sys2Proof.Machine
end

