-- ==== Sys2Proof/Machine/Arbiter.lean ====
section
/-! DEFINITION. The common arbiter (09 R274-R278), the deficit round robin of a class queue of a Divide output (R266,
R267, 07 R227) and the frames that leave Divide. -/
namespace Sys2Proof.Machine

/-! Instances. -/

/-- Instances and requesters of a class (R274); the links of the Ridge mesh are not numbered to an end. -/
def arbExists (i : ArbRef) : Bool :=
  match i.cls.val with
  | 0 => decide (i.inst < 172)
  | 1 => decide (i.inst < 96)
  | 2 => decide (i.inst < 256)
  | 3 => decide (i.inst < 7296)
  | _ => true
def arbSlots (k : Nat) : Nat :=
  match k with
  | 1 => 3
  | 2 => 5
  | 3 => 4
  | _ => 8

def arbKey (i : ArbRef) : Nat := i.cls.val * 10000 + i.inst
def arbSt (s : State) (i : ArbRef) : Arb := smGet {} s.sys.div.arbs (arbKey i)
def setArb (i : ArbRef) (a : Arb) : M Unit := modDiv fun y => { y with arbs := smSet {} y.arbs (arbKey i) a }
def modArb (i : ArbRef) (g : Arb → Arb) : M Unit := do
  let s ← cur
  setArb i (g (arbSt s i))

/-- LIMIT, WEIGHT and PRIO of a slot of a class. -/
def arbLimit (s : State) (k q : Nat) : Nat := max 1 (getF s (F.DIVIDE_ARB_REQ_LIMIT k q))
def arbWeight (s : State) (k q : Nat) : Nat := max 1 (getF s (F.DIVIDE_ARB_REQ_WEIGHT k q))
def arbPrio (s : State) (k q : Nat) : Nat := getF s (F.DIVIDE_ARB_REQ_PRIO k q)

/-! The decision (R275). -/

/-- The first of a rising list after a slot, wrapping. -/
def firstAfter (x : Nat) (l : List Nat) : Option Nat :=
  match l.find? fun q => x < q with
  | some q => some q
  | none => l.head?

/-- CUR of a priority. -/
def arbCur (a : Arb) (p : Nat) : Nat := 15 - smGet 0 a.cur p

/-- The lowest priority number of the ready requesters. -/
def lowestPrio (s : State) (k : Nat) (ready : List Nat) : Nat :=
  ready.foldl (fun m q => min m (arbPrio s k q)) 3

/-- The winner by priority and weight. -/
def arbNormal (s : State) (k : Nat) (a : Arb) (ready : List Nat) : Option (Nat × Arb) :=
  let p := lowestPrio s k ready
  let c := arbCur a p
  let put := fun w used => (w, { a with cur := smSet 0 a.cur p (15 - w), used := smSet 0 a.used p (used + 1) })
  if ready.contains c && decide (smGet 0 a.used p < arbWeight s k c) then some (put c (smGet 0 a.used p))
  else (firstAfter c (ready.filter fun q => arbPrio s k q == p)).map fun w => put w 0

/-- The winner, whether it was forced, and the instance after the decision. -/
def arbChoose (s : State) (k : Nat) (a : Arb) (ready : List Nat) : Option (Nat × Bool × Arb) :=
  let forced := ready.filter fun q => decide (arbLimit s k q ≤ smGet 0 a.wait q)
  if forced.isEmpty then (arbNormal s k a ready).map fun r => (r.1, false, r.2)
  else (firstAfter a.fptr forced).map fun w => (w, true, { a with fptr := w, fw := a.fw + 1 })

/-- WAIT after a decision. -/
def arbWaits (w : Nat) (ready : List Nat) (m : SMap Nat) : SMap Nat :=
  ready.foldl (fun m q => smSet 0 m q (if q = w then 0 else min (smGet 0 m q + 1) 1023)) m

/-- The latest event of a class and its message (R277, R278). -/
def arbEvent (i : ArbRef) (q : Nat) (msg : Bool) : M Unit := do
  putF (F.DIVIDE_ARB_EVT_REQ i.cls.val) q
  putF (F.DIVIDE_ARB_EVT_INST i.cls.val) i.inst
  let s ← cur
  whenB (msg && flag s F.DIVIDE_ARB_NOTE_MSIEN) (sendPf (getF s F.DIVIDE_ARB_NOTE_VEC))

/-- A forced win; the third one in a window is starvation (R278). -/
def forcedWin (i : ArbRef) (w : Nat) : M Unit := do
  countEv 14 1 i.cls.val none 1
  let s ← cur
  let a := arbSt s i
  whenB (a.fw == 3) do
    putF (F.DIVIDE_ARB_EVT_STARVE i.cls.val) 1
    addSat (F.DIVIDE_ARB_EVT_STCNT i.cls.val) 1
    arbEvent i w (!a.raised)
    modArb i fun a => { a with raised := true }

/-- A decision among the ready requesters; the answer is the winner. -/
def arbGrant (i : ArbRef) (ready : List Nat) : M (Option Nat) := do
  let s ← cur
  match arbChoose s i.cls.val (arbSt s i) ready with
  | none => do
    modArb i fun a => { a with grant := none, frame := none }
    return none
  | some (w, forced, a) => do
    setArb i { a with grant := some w, frame := none, wait := arbWaits w ready a.wait }
    whenB forced (forcedWin i w)
    return some w

/-! The class queues of an output (R266, R267). -/

/-- Frames queued for an output in a class, in order of admission. -/
def queued (s : State) (o tc : Nat) : List DFrame :=
  s.sys.div.frames.filter fun d => !d.landing && d.f.tc.val == tc && d.residue.contains o

/-- The frame at the head of the FIFO of an input. -/
def fifoHead (l : List DFrame) (input : Nat) : Option DFrame := l.find? fun d => d.f.input == input

/-- Whether an output can take the whole of a frame now. -/
def outFits (s : State) (o : Nat) (f : DivFrame) : Bool :=
  if o < 64 then linkFits s o f.tc f.cells else if o < 72 then metroFits s (o - 64) f else true

/-- The frames that may leave: heads of FIFOs, inputs ascending, that the output can take. -/
def readyHeads (s : State) (o tc : Nat) : List DFrame :=
  let l := queued s o tc
  ((upto 172).filterMap (fifoHead l)).filter fun d => outFits s o d.f

/-- Classes with a transfer that fits. -/
def readyClasses (s : State) (o : Nat) : List Nat := (upto 8).filter fun tc => !(readyHeads s o tc).isEmpty

/-- WEIGHT of a flow: a group's, a descriptor queue's (a host queue h is 1024 + h), or 1 for transit. -/
def flowWeight (s : State) (f : DivFrame) : Nat :=
  match f.flow with
  | .group gid =>
    match ctxOf s f.owner gid.toNat with
    | some g => max 1 (getF s (F.COL_GRP_CFG_WEIGHT g))
    | none => 1
  | .queue q => max 1 (if q < 1024 then getF s (F.DMA_Q_CFG_WEIGHT q) else getF s (F.HOST_Q_CFG_WEIGHT (q - 1024)))
  | .transit _ => 1

/-- A rotation without the flows of a class that have no frame queued, and with those that have begun to have some. -/
def rotSync (tc : Nat) (l : List DFrame) (rot : List (Nat × Flow × Int × Bool)) : List (Nat × Flow × Int × Bool) :=
  l.foldl (fun r d => if r.any fun e => e.1 == tc && e.2.1 == d.f.flow then r else r ++ [(tc, d.f.flow, 0, false)])
    (rot.filter fun e => e.1 != tc || l.any fun d => d.f.flow == e.2.1)

/-- The deficit of a flow that the round has reached. -/
def drrCredit (w : Nat) (deficit : Int) : Int := min (w * 4096) (deficit + w * 4096)

/-- The round over the flows of one class: the frame it sends and the rotation after it, with fuel (07 R227). -/
def drr (s : State) (heads l : List DFrame) :
    Nat → List (Nat × Flow × Int × Bool) → Option DFrame × List (Nat × Flow × Int × Bool)
  | 0, rot => (none, rot)
  | _, [] => (none, [])
  | n + 1, (tc, fl, d0, turn) :: rest =>
    let w := ((l.find? fun d => d.f.flow == fl).map fun d => flowWeight s d.f).getD 1
    let d := if turn then d0 else drrCredit w d0
    match heads.find? fun h => h.f.flow == fl with
    | some h =>
      if 0 < d then (some h, (tc, fl, d - h.f.cells * 256, true) :: rest)
      else drr s heads l n (rest ++ [(tc, fl, d, false)])
    | none => drr s heads l n (rest ++ [(tc, fl, d, false)])

/-- The frame of the class that won leaves next: it is chosen by the round. -/
def pickFrame (i : ArbRef) (tc : Nat) : M Unit := do
  let s ← cur
  let l := queued s i.inst tc
  let rot := rotSync tc l (arbSt s i).rot
  let mine := rot.filter fun e => e.1 == tc
  let r := drr s (readyHeads s i.inst tc) l (2 * mine.length + 2) mine
  modArb i fun a =>
    { a with frame := r.1.map fun d => d.f.id, rot := (rot.filter fun e => e.1 != tc) ++ r.2 }

/-! Leaving (R264, R272). -/

/-- The frame on its way out: a port keeps its cells until the acknowledgement (11 R327). -/
def leaveFrame (o id : Nat) (d : DFrame) : DFrame :=
  if d.f.id = id ∧ d.residue.contains o = true then
    { d with residue := d.residue.filter (· != o), unacked := if o < 64 then d.unacked ++ [o] else d.unacked }
  else d

/-- A frame leaves by an output. -/
def leave (o id : Nat) : M Unit := do
  let s ← cur
  match s.sys.div.frames.find? fun d => d.f.id == id && d.residue.contains o with
  | none => pure ()
  | some d => do
    withCredit (modDiv fun y => { y with frames := y.frames.map (leaveFrame o id) })
    (if o < 64 then linkSend o d.f
     else if o < 72 then metroSend (o - 64) d.f
     else send (.deliver o d.f))
    countEv 6 2 o (if d.f.owner < 16 then some d.f.owner else none) d.f.cells
    mirror d.f true o
    sweepFrames

/-- The last beat of the grant that an output holds. -/
def lastBeat (i : ArbRef) : M Unit := do
  let s ← cur
  let a := arbSt s i
  match a.grant, a.frame with
  | some tc, some id => do
    leave i.inst id
    let s ← cur
    modArb i fun a => { a with rot := rotSync tc (queued s i.inst tc) a.rot }
  | _, _ => pure ()

/-- A decision of an instance with the requesters that are ready. -/
def arbDecide (i : ArbRef) (ready : Nat) : M Unit := do
  let s ← cur
  if !arbExists i || (arbSt s i).emergency then pure ()
  else if i.cls.val = 0 then do
    lastBeat i
    let s ← cur
    let w ← arbGrant i ((readyClasses s i.inst).filter fun q => bit ready q)
    match w with
    | some tc => pickFrame i tc
    | none => pure ()
  else do
    let _ ← arbGrant i ((upto (arbSlots i.cls.val)).filter fun q => bit ready q)

/-- ARB_DECIDE (R275). -/
def execArbDecide (i : ArbRef) (ready : BitVec 16) (s : State) : Host.Outcome State Fault Refusal :=
  act (whenLive (arbDecide i ready.toNat)) s

/-- ARB_WINDOW_RESET (R278). -/
def execArbWindowReset (i : ArbRef) (s : State) : Host.Outcome State Fault Refusal :=
  act (whenLive (whenB (arbExists i) (modArb i fun a => { a with fw := 0, raised := false }))) s

/-! Watchdog (R277). -/

/-- Health object of the resource of an instance: the device where no object is its own. -/
def arbObj (i : ArbRef) : Nat :=
  match i.cls.val with
  | 0 => if i.inst < 64 then objPort i.inst else if i.inst < 72 then objEdge (i.inst - 64)
         else if i.inst < 76 then objDevice else objUnit (i.inst - 76)
  | 1 => objUnit i.inst
  | 2 => objHbm i.inst
  | 3 => objTile (i.inst / 48)
  | _ => objDevice

/-- A frame is discarded in every queue that holds it. -/
def discardAll (id : Nat) : M Unit := do
  let s ← cur
  let hit := s.sys.div.frames.filter fun d => d.f.id == id && !d.landing
  withCredit (modDiv fun y => { y with frames := y.frames.filter fun d => !(d.f.id == id && !d.landing) })
  match hit with
  | d :: _ => reportLost d.f
  | [] => pure ()

/-- The transfer in progress is abandoned; those of the classes 1, 2 and 4 are no state of the model. -/
def abandonXfer (i : ArbRef) (a : Arb) : M Unit :=
  match i.cls.val with
  | 0 => match a.frame with
    | some id => discardAll id
    | none => pure ()
  | 3 => do
    let c ← takeFree
    pondError (i.inst / 48) (c.toNat % pondSize)
  | _ => pure ()

/-- ARB_WATCHDOG (R277): the emergency stops its count (R276). -/
def execArbWatchdog (i : ArbRef) (s : State) : Host.Outcome State Fault Refusal :=
  act (whenLive do
    let s ← cur
    let a := arbSt s i
    match a.grant with
    | none => pure ()
    | some q =>
      whenB (arbExists i && !a.emergency) do
        setArb i { rot := a.rot, raised := a.raised }
        putF (F.DIVIDE_ARB_EVT_WD i.cls.val) 1
        addSat (F.DIVIDE_ARB_EVT_WDCNT i.cls.val) 1
        countEv 14 2 i.cls.val none 1
        arbEvent i q true
        healthAdd (arbObj i) 150
        let c ← takeFree
        postErr { cls := 2, unit := 14, index := i.inst, code := bits c.toNat 7 0, vi := none, inc := 0,
                  overlap := false, info := 0 }
        abandonXfer i a) s

/-! Emergencies (R276). -/

/-- EMERGENCY_REQUEST: only the requester that R274 lists. -/
def execEmergencyRequest (i : ArbRef) (requester : Emergency) (s : State) : Host.Outcome State Fault Refusal :=
  act (whenLive do
    let s ← cur
    let a := arbSt s i
    whenB (arbExists i && !a.emergency && (requester == .hbmRefresh) == (i.cls.val == 2)) do
      whenB (i.cls.val == 2 && a.grant.isSome) (countEv 10 4 i.inst none 1)
      modArb i fun a => { a with emergency := true }) s

/-- EMERGENCY_END. -/
def execEmergencyEnd (i : ArbRef) (s : State) : Host.Outcome State Fault Refusal :=
  act (whenLive (whenB (arbExists i) (modArb i fun a => { a with emergency := false }))) s

end Sys2Proof.Machine
end

