-- ==== Sys2Proof/Machine/LaneSets.lean ====
section
/-! DEFINITION. The lane map of a port and the sets of lanes it transmits on (10 R306-R309). -/
namespace Sys2Proof.Machine

/-! The lane map. -/

/-- Engine lane of a logical lane; 255 when it has been removed (R317). -/
def laneMap (s : State) (p l : Nat) : Nat := bits (getR s (R.PORT_LANE_MAP p)) (8 * l + 7) (8 * l)
def setLaneMap (p l v : Nat) : M Unit := do
  let s ← cur
  putR (R.PORT_LANE_MAP p) (setBits (getR s (R.PORT_LANE_MAP p)) (8 * l + 7) (8 * l) v)

/-- Whether a lane may be active at all. -/
def laneUsable (s : State) (p l : Nat) : Bool := laneMap s p l != 255 && !(laneSt s p l).failed

/-- Lanes that have not been removed as failed. -/
def usableLanes (s : State) (p : Nat) : Nat := cnt (fun l => laneUsable s p l) (upto 4)

/-- The free spare of an engine: 33, then 32 (R306, worked example). -/
def freeSpare (s : State) (e : Nat) : Option Nat :=
  [33, 32].find? fun x => !(upto 8).any fun i => (upto 4).any fun l =>
    laneMap s (8 * e + i) l == x || s.sys.faults.fencedLanes.contains (objLane e x)

/-- A lane of a port is moved to a spare, when one is free (R306, R307). -/
def takeSpare (p l : Nat) : M Bool := do
  let s ← cur
  let e := p / 8
  match freeSpare s e, laneMap s p l == 255 with
  | none, _ => return false
  | _, true => return false
  | some x, false => do
    let old := objLane e (laneMap s p l)
    healthAdd old 100
    withScore old (modFaults fun y => { y with fencedLanes := y.fencedLanes ++ [old] })
    setLaneMap p l x
    putF (F.PORT_ENG_STAT_SPFREE e) (getF s (F.PORT_ENG_STAT_SPFREE e) - 1)
    putF (F.PORT_LANE_STAT_FENCED p l) 1
    laneDrop p l
    return true

/-! Sets. -/

/-- WIDTH: the transmit set from a sequence 8 codewords ahead, whose number is the transmitter's (R306, DESIGN CHOICE, log entry 10). -/
def announce (p set : Nat) : M Unit := do
  let c ← takeFree
  let q := bits c.toNat 7 0
  sendLane p 2 (set * 256 + q * 65536)
  modPort p fun y => { y with txNext := some (set, q) }

/-- The transmit set that is or will be in effect. -/
def txTarget (s : State) (p : Nat) : Nat :=
  match (portSt s p).txNext with
  | some x => x.1
  | none => getF s (F.PORT_STAT_TXSET p)

/-- Announces a set that differs from the one announced. -/
def announceNew (p set : Nat) : M Unit := do
  let s ← cur
  whenB (txTarget s p != set) (announce p set)

/-- A set without a lane. -/
def without (set l : Nat) : Nat := setBits set l l 0

/-- Whether a lane is active in a direction. -/
def laneActive (s : State) (p l : Nat) : Bool :=
  bit (getF s (F.PORT_STAT_TXSET p)) l || bit (getF s (F.PORT_STAT_RXSET p)) l

/-- The lanes on which this end may transmit: in lock at the far end, and, where one has been swapped, here too. -/
def txWanted (s : State) (p : Nat) : Nat :=
  sumOf (fun l => if bit (portSt s p).farLock l && laneUsable s p l && !(laneSt s p l).held &&
      (!(laneSt s p l).swapping || ((laneSt s p l).moved && flag s (F.PORT_LANE_STAT_BLK p l))) then 2 ^ l else 0) (upto 4)

/-- The transmit set of an UP port follows the locks: lanes that have been swapped come back (R306). -/
def txRefresh (p : Nat) : M Unit := do
  let s ← cur
  whenB (portPs s p == psUp) do
    let set := txWanted s p
    (upto 4).forM fun l =>
      whenB (bit set l) (modLane p l fun h =>
        { h with swapping := false, moved := h.moved && (portSt s p).swapQueue.contains l })
    announceNew p set

end Sys2Proof.Machine
end

