-- ==== Sys2Proof/Machine/Tarn.lean ====
section
/-! DEFINITION. Tarn units (08 R237-R254, R259-R261): matching, combining, spill, deep slots, fencing, and the registers
of the numeric watch. -/
namespace Sys2Proof.Machine

/-! The units of a device (R239). -/

/-- A unit in the rotation: neither fenced nor withdrawn. One that is told to withdraw leaves when it has drained. -/
def unitHealthy (s : State) (u : Nat) : Bool :=
  !flag s (F.TARN_UNIT_STAT_FENCED u) && (flag s (F.TARN_UNIT_CFG_EN u) || (unitSt s u).withdrawing)

/-- The healthy units, from the one that a pointer names. -/
def unitRing (s : State) (ptr : Nat) : List Nat :=
  let h := (upto 96).filter fun u => unitHealthy s u
  (h.filter fun u => decide (ptr ≤ u)) ++ h.filter fun u => decide (u < ptr)

/-- The rotation pointer of the Col sequencer of a die. -/
def tarnPtr (s : State) (die : Nat) : Nat := if die = 0 then s.sys.tarn.ptr0 else s.sys.tarn.ptr1
def setTarnPtr (die p : Nat) : M Unit :=
  modSys fun y => { y with tarn := if die = 0 then { y.tarn with ptr0 := p } else { y.tarn with ptr1 := p } }

/-- Units that are not fenced. -/
def unitsH (s : State) : Nat := cnt (fun u => !flag s (F.TARN_UNIT_STAT_FENCED u)) (upto 96)

/-- A chunk of B blocks draws its list: the pointer advances by U positions (R239). -/
def stripe (die blocks w : Nat) : M Unit := do
  let s ← cur
  let ring := unitRing s (tarnPtr s die)
  let n := min (unitsH s) (cdiv blocks (max 1 w))
  setTarnPtr die (ring.getD (n % max 1 ring.length) (tarnPtr s die))

/-! Stores. -/

/-- The window that a block belongs to: blocks of one chunk and attempt (R242). -/
def winKey (b : TWin) : List Nat := [b.vi, b.inc, b.ctx, b.gen, b.attempt, b.chunk]

/-- Ledger windows that blocks take (R242). -/
def windowsUsed (l : List TWin) : Nat :=
  let w := l.filter fun b => !b.spilled && b.window != 0
  sumOf (fun k => cdiv (cnt (fun b => winKey b == k) w) (((w.find? fun b => winKey b == k).map (·.window)).getD 1))
    (w.map winKey).eraseDups

/-- Deep slots taken. -/
def deepUsed (u : TUnit) : Nat := sumOf (fun d => d.2.2) u.deepSlots

/-- Values that wait for their partner, level by level, over the arrivals of n inputs (R253). -/
def pendingOf : Nat → List Bool → Nat
  | 0, _ => 0
  | _, [] => 0
  | _, [_] => 0
  | f + 1, l =>
    let pairs := chunks 2 l
    sumOf (fun p => match p with
      | [a, b] => b2n (a != b)
      | _ => 0) pairs + pendingOf f (pairs.map fun p => p.all id)

/-- Bytes of a block in the canonical pending store (R253). -/
def pendingBytes (s : State) (b : TWin) : Nat :=
  if b.window ≠ 0 ∨ b.inputs.isEmpty = true ∨ b.emitted = true then 0
  else
    pendingOf b.count ((upto b.count).map fun i => bit b.bitmap i) *
      (((b.inputs.headD (0, [])).2.length) * (etWidth (accType (grpWidth s b.ctx)) / 8))

/-- Whether the stores of a unit hold these blocks (R237). -/
def storesHold (s : State) (l : List TWin) : Bool :=
  decide (windowsUsed l ≤ 16) && decide (sumOf (fun b => if b.spilled then 0 else pendingBytes s b) l ≤ 448 * 1024)

/-! Deep slots (R250). -/

/-- Slots of 32 KiB that a generation needs. -/
def deepNeed (s : State) (g : Nat) (x : Gen) : Nat :=
  cdiv (cCount x.words * (if grpWidth s g = 0 then 40 else 272)) 32768

/-- The unit in which a generation holds slots. -/
def deepUnit (s : State) (g gen : Nat) : Option Nat :=
  (s.sys.tarn.units.find? fun p => p.2.deepSlots.any fun d => d.1 == g && d.2.1 == gen).map (·.1)

/-- A deep generation takes slots in the first unit of the rotation that has enough free; the pointer then names the
unit after it. -/
def deepGrant (g : Nat) (x : Gen) : M Unit := do
  let s ← cur
  let die := dieOfGrp g
  let need := deepNeed s g x
  match (deepUnit s g x.num, (unitRing s (tarnPtr s die)).find? fun u => decide (deepUsed (unitSt s u) + need ≤ 34)) with
  | (none, some u) => do
    modUnit u fun y => { y with deepSlots := y.deepSlots ++ [(g, x.num, need)] }
    let s ← cur
    setTarnPtr die ((unitRing s (u + 1)).headD 0)
  | _ => pure ()

/-- DEEP_SLOT_GRANT (R250). -/
def execDeepSlotGrant (g : GrpNo) (gen : W32) (s : State) : Host.Outcome State Fault Refusal :=
  act (do
    let s ← cur
    match findGen s g gen.toNat with
    | none => pure ()
    | some x =>
      match genRed s g x with
      | some (.deep _) => whenB (enginesRun s && x.state == .running) (deepGrant g x)
      | _ => pure ()) s

/-! Combining (R244, R247-R254). -/

/-- Elements that a block of a generation holds. -/
def tarnElems (x : Gen) (chunk block : Nat) : Nat :=
  if x.op = opCombine then min 32 (tkH x.words - 32 * block)
  else
    let sp := chunkSpan x.op x.words chunk
    min 32 (sp.2 - sp.1 - 32 * block)

/-- A contribution read by R52 or R251; none where its block is malformed or disagrees in length with the chunk. -/
def readContrib (k : Red) (n : Nat) (l : List Byte) : Option Contrib :=
  match Red.decode k l with
  | none => none
  | some c =>
    match k with
    | .ledger _ => if (c.words.drop n).all (· == 0) then some { c with words := c.words.take n } else none
    | .deep _ => if c.deep.length = n then some c else none
    | _ => if c.codes.length = n then some c else none

/-- Flags of a deep accumulator as a number. -/
def deepFlags (d : Deep) : Nat := b2n d.pinf + 2 * b2n d.ninf + 4 * b2n d.nan
def deepOf (p : Int × Nat) : Deep := { acc := p.1, pinf := bit p.2 0, ninf := bit p.2 1, nan := bit p.2 2 }

/-- An input in the order of its index. -/
def insertInput (i : Nat) (l : List Nat) : List (Nat × List Nat) → List (Nat × List Nat)
  | [] => [(i, l)]
  | (j, m) :: r => if i < j then (i, l) :: (j, m) :: r else (j, m) :: insertInput i l r

/-- A block with contributor i counted. -/
def blockAdd (k : Red) (b : TWin) (i : Nat) (c : Contrib) : TWin :=
  let b' := { b with bitmap := Nat.lor b.bitmap (2 ^ i) }
  match k with
  | .ledger w => { b' with sums := if b.bitmap = 0 then c.words else
      (b.sums.zip c.words).map fun p => ledgerAdd w p.1 p.2 }
  | .deep _ => { b' with deep := if b.bitmap = 0 then c.deep.map fun d => (d.acc, deepFlags d) else
      (b.deep.zip c.deep).map fun p => let d := Deep.join (deepOf p.1) p.2; (d.acc, deepFlags d) }
  | _ => { b' with inputs := insertInput i c.codes b.inputs }

/-- What a complete block holds: a canonical COMBINE sums over every k, absent contributions as +0 (07 R232). -/
def blockResult (k : Red) (x : Gen) (b : TWin) : Contrib :=
  match k with
  | .ledger _ => { words := b.sums }
  | .deep _ => { deep := b.deep.map deepOf }
  | .canon f =>
    let ins := if x.op = opCombine then
        (upto (tkK x.words)).map fun i =>
          ((b.inputs.find? fun p => p.1 == i).map (·.2)).getD
            (List.replicate ((b.inputs.headD (0, [])).2.length) 0)
      else b.inputs.map (·.2)
    Red.reduce (.canon f) (ins.map fun l => { codes := l })
  | .select r f => Red.reduce (.select r f) (b.inputs.map fun p => { codes := p.2 })

/-- Whether every expected contributor has been counted (R244). -/
def blockDone (b : TWin) : Bool := cnt (fun i => bit b.bitmap i) (upto 1024) == b.count

/-- Non-finite inputs of a MAXABS (R254). -/
def maxabsBad (k : Red) (c : Contrib) : Nat :=
  match k with
  | .select 3 f => cnt (fun v => exNonfinite (decodeF f v)) c.codes
  | _ => 0

/-- The same block of the same generation. -/
def sameBlock (a b : TWin) : Bool :=
  a.vi == b.vi && a.inc == b.inc && a.ctx == b.ctx && a.gen == b.gen && a.chunk == b.chunk && a.block == b.block

/-- Blocks of a deep node that have been emitted end it: its slots are freed. -/
def deepFinished (s : State) (g : Nat) (x : Gen) (l : List TWin) : Bool :=
  let mine := l.filter fun b => b.ctx == g && b.gen == x.num
  mine.all (·.emitted) && decide (cdiv (cCount x.words) 32 ≤ mine.length) && (deepUnit s g x.num).isSome

/-- Windows whose last block has been emitted are freed; so are the slots of a deep node that is finished. -/
def tarnSweep (u g : Nat) (x : Gen) (k : Red) : M Unit := do
  let s ← cur
  let l := (unitSt s u).blocks
  match k with
  | .deep _ =>
    whenB (deepFinished s g x l) (modUnit u fun y =>
      { y with blocks := y.blocks.filter fun b => !(b.ctx == g && b.gen == x.num)
               deepSlots := y.deepSlots.filter fun d => !(d.1 == g && d.2.1 == x.num) })
  | _ =>
    modUnit u fun y =>
      { y with blocks := y.blocks.filter fun b => l.any fun c => winKey c == winKey b && !c.emitted }

/-- Bytes that a contribution or a partial sum of a block takes in Mere (R243, R253). -/
def spillBytes (s : State) (k : Red) (b : TWin) : Nat :=
  match k with
  | .ledger w => b.sums.length * (w / 8)
  | .canon _ => (b.inputs.headD (0, [])).2.length * (etWidth (accType (grpWidth s b.ctx)) / 8)
  | .select _ f => (b.inputs.headD (0, [])).2.length * fmtBytes f
  | .deep _ => 0

/-- A block that its unit cannot hold takes a Mere buffer; without one the owner's VI is faulted (R243). -/
def tarnSpill (u : Nat) (k : Red) (b : TWin) : M (Option TWin) := do
  let s ← cur
  countEv 5 2 u (some b.vi) 1
  let r ← mereTake (max 1 (spillBytes s k b)) (mereOwner b.vi 2) b.inc
  match r.2 with
  | some m => return some { b with spilled := true, mere := b.mere ++ [m] }
  | none => do
    viFault b.vi causeSpillFull 5 u 0
    return none

/-- The blocks of a unit with one of them put in its place. -/
def putBlock (u : Nat) (b : TWin) : M Unit :=
  modUnit u fun y => { y with blocks := y.blocks.filter (fun c => !sameBlock c b) ++ [b] }

/-- A block is placed; once complete it is emitted (R241, R244). -/
def settle (u g : Nat) (x : Gen) (k : Red) (b : TWin) : M Unit := do
  if blockDone b then do
    send (.tarnBlock u (if dataTc x = 1 then 1 else 2) b.vi g b.gen b.attempt b.chunk b.block (Red.encode k (blockResult k x b)))
    mereDrop b.mere
    putBlock u { b with emitted := true, spilled := false, mere := [], sums := [], deep := [], inputs := [] }
    tarnSweep u g x k
  else putBlock u b

/-- The watch counters of a unit's drops. -/
def tarnStale (u v : Nat) : M Unit := do
  watch v wStale 1
  countEv 5 3 u (some v) 1

/-- A contribution is combined with what the unit holds of its block (R244). -/
def combine (u g : Nat) (x : Gen) (k : Red) (c : TarnCell) (b : TWin) (v : Contrib) : M Unit := do
  let s ← cur
  let b := blockAdd k b c.contributor v
  match k with
  | .ledger _ => do
    addWrap (F.TARN_UNIT_WORDS_WORDS u) v.words.length
    countEv 5 1 u (some c.vi) v.words.length
  | _ => watch c.vi wNonfinite (maxabsBad k v)
  let l := (unitSt s u).blocks.filter fun y => !sameBlock y b
  let fits := !b.spilled && (match k with
    | .deep _ => true
    | _ => storesHold s (l ++ [b]))
  if fits then settle u g x k b
  else if b.spilled && !(k matches .canon _) then settle u g x k b
  else do
    let r ← tarnSpill u k b
    match r with
    | some b => settle u g x k b
    | none => pure ()

/-- A block that breaks R51-R53 or R251 (R249): counted, and the generation aborts. A contributor rejected in three
successive attempts is reported. -/
def tarnMalformed (g : Nat) (x : Gen) (c : TarnCell) : M Unit := do
  watch c.vi wMalformed 1
  let a := c.attempt.toNat
  let x : Gen := { x with malformed := x.malformed ++ [(c.contributor, a)] }
  putGen g x
  let had := fun k => x.malformed.contains (c.contributor, (a + 256 - k) % 256)
  whenB (had 1 && had 2) (send (.report 2 (bytesOf 4 x.num ++ bytesOf 4 c.contributor)))
  abortStart g x acMalformed

/-- The blocks of a window: W of R239. -/
def windowBlocks : Red → Nat
  | .ledger 64 => 128
  | .ledger _ => 64
  | .select _ _ => 128
  | _ => 0

/-- A cell of a live generation (R244). -/
def tarnCell (u g : Nat) (x : Gen) (k : Red) (c : TarnCell) : M Unit := do
  (match k with
   | .deep _ => deepGrant g x
   | _ => pure ())
  let s ← cur
  let b0 : TWin :=
    { vi := c.vi, inc := c.inc, ctx := g, gen := x.num, attempt := c.attempt.toNat, chunk := c.chunk, block := c.block
      window := windowBlocks k, count := c.count }
  let old := (unitSt s u).blocks.find? fun b => sameBlock b b0
  let same := match old with
    | some b => b.attempt == c.attempt.toNat
    | none => false
  if (k matches .deep _) && deepUnit s g x.num != some u then pure ()
  else if newerAttempt x.attempt c.attempt.toNat ||
      (match old with
       | some b => newerAttempt b.attempt c.attempt.toNat
       | none => false) then tarnStale u c.vi
  else if same && bit ((old.map (·.bitmap)).getD 0) c.contributor then do
    watch c.vi wDup 1
    countEv 5 4 u (some c.vi) 1
  else
    match readContrib k (tarnElems x c.chunk c.block) c.payload with
    | none => tarnMalformed g x c
    | some v => do
      whenB ((s.sys.tarn.units.all fun p => p.2.blocks.all fun b => !(b.ctx == g && b.gen == x.num && b.chunk == c.chunk)) &&
          !(k matches .deep _))
        (let sp := chunkSpan x.op x.words c.chunk
         stripe (dieOfGrp g) (cdiv (sp.2 - sp.1) 32) (if windowBlocks k = 0 then 128 else windowBlocks k))
      whenB (!same) (mereDrop ((old.map (·.mere)).getD []))
      combine u g x k c (if same then old.getD b0 else b0) v

/-- TARN_CELL_ARRIVE (R244). -/
def execTarnCellArrive (u : UnitNo) (c : TarnCell) (s : State) : Host.Outcome State Fault Refusal :=
  act (do
    let s ← cur
    if !enginesRun s || !unitHealthy s u || decide (1024 ≤ c.contributor) then pure ()
    else if !tagOk s c.vi c.inc then dropFor c.vi
    else if grpOwner s c.ctx ≠ some c.vi then tarnStale u c.vi
    else
      match findGen s c.ctx c.gen.toNat with
      | none => tarnStale u c.vi
      | some x =>
        match genRed s c.ctx x with
        | none => tarnStale u c.vi
        | some k => if x.state = .ended then tarnStale u c.vi else tarnCell u c.ctx x k c) s

/-! Spill, fencing and withdrawal. -/

/-- Spilled blocks of a unit in ascending order, each brought back while there is room (R243). -/
def restoreBlocks (u : Nat) : List TWin → M Unit
  | [] => pure ()
  | b :: rest => do
    let s ← cur
    let b' := { b with spilled := false, mere := [] }
    whenB (storesHold s ((unitSt s u).blocks.filter (fun c => !sameBlock c b) ++ [b'])) do
      mereDrop b.mere
      putBlock u b'
    restoreBlocks u rest

/-- The order of chunks and blocks. -/
def blockLe (a b : TWin) : Bool := decide (a.chunk < b.chunk ∨ (a.chunk = b.chunk ∧ a.block ≤ b.block))

/-- TARN_SPILL_RESTORE (R243). -/
def execTarnSpillRestore (u : UnitNo) (s : State) : Host.Outcome State Fault Refusal :=
  act (do
    let s ← cur
    whenB (enginesRun s) (restoreBlocks u (((unitSt s u).blocks.filter (·.spilled)).mergeSort blockLe))) s

/-- Points on an object whose score the caller checks. -/
def healthPoints (n pts : Nat) : M Unit :=
  modFaults fun y => { y with health := smSet 0 y.health n (smGet 0 y.health n + 16 * pts) }

/-- TARN_STORE_ERROR (R246, 13 R374, R375). -/
def execTarnStoreError (u : UnitNo) (code : Byte) (v : ViNo) (inc : Byte) (s : State) :
    Host.Outcome State Fault Refusal :=
  act (do
    let s ← cur
    let post := fun ov => postErr { cls := 3, unit := 5, index := u, code := code.toNat, vi := some v, inc := inc.toNat,
                                    overlap := ov, info := 0 }
    if !live s then pure ()
    else if flag s (F.TARN_UNIT_ERR_VALID u) then do
      putF (F.TARN_UNIT_ERR_OVERLAP u) 1
      addSat (F.TARN_UNIT_ERR_OVFCNT u) 1
      post true
    else do
      putF (F.TARN_UNIT_ERR_VALID u) 1
      putF (F.TARN_UNIT_ERR_CODE u) code.toNat
      putF (F.TARN_UNIT_ERR_VI u) v.val
      putF (F.TARN_UNIT_ERR_INC u) inc.toNat
      withScore (objUnit u) do
        healthPoints (objUnit u) 250
        putF (F.TARN_UNIT_STAT_FENCED u) 1
      post false
      let hit := (((unitSt s u).blocks.filter fun b => !b.emitted).map (fun b => (b.ctx, b.gen)) ++
        (unitSt s u).deepSlots.map fun d => (d.1, d.2.1)).eraseDups
      mereDrop ((unitSt s u).blocks.flatMap (·.mere))
      modUnit u fun y => { y with blocks := [], deepSlots := [] }
      whenB (enginesRun s) (hit.forM fun p => do
        let s ← cur
        match findGen s p.1 p.2 with
        | some x => abortStart p.1 x acUnit
        | none => pure ())) s

/-- EN of a unit is written (R261): 0 starts its withdrawal, 1 ends it. -/
def unitEnable (u : Nat) (en : Bool) : M Unit := do
  let s ← cur
  modUnit u fun y => { y with withdrawing := !en && (y.withdrawing || flag s (F.TARN_UNIT_CFG_EN u)) }
  putF (F.TARN_UNIT_CFG_EN u) (b2n en)

/-- TARN_WITHDRAW (R261). -/
def execTarnWithdraw (u : UnitNo) (s : State) : Host.Outcome State Fault Refusal := act (unitEnable u false) s

/-- TARN_UNIT_DRAINED (R261). -/
def execTarnUnitDrained (u : UnitNo) (s : State) : Host.Outcome State Fault Refusal :=
  act (do
    let s ← cur
    whenB ((unitSt s u).blocks.isEmpty && (unitSt s u).deepSlots.isEmpty)
      (modUnit u fun y => { y with withdrawing := false })) s

/-! Registers of the watch and the comparators (R259, R261). -/

/-- CLR: the nine counters and SUM are zero. -/
def watchClear (v : Nat) : M Unit := do
  (upto 9).forM fun n => putF (F.TARN_VI_WATCH_COUNT v n) 0
  putF (F.TARN_VI_WATCH_SUM_SUM v) 0

/-- WATCH_CLR (R261). -/
def execWatchClr (v : ViNo) (s : State) : Host.Outcome State Fault Refusal := act (watchClear v) s

/-- A write of a comparator's CFG: EN from 0 to 1 starts its counts (R259). -/
def cmpCfg (v k val : Nat) : M Unit := do
  let s ← cur
  whenB (!flag s (F.TARN_VI_CMP_CFG_EN v k) && bit val 0) do
    putF (F.TARN_VI_CMP_STAT_SEEN v k) 0
    putF (F.TARN_VI_CMP_STAT_SPIKES v k) 0
  putR (R.TARN_VI_CMP_CFG v k) (val % 2 ^ 43)

/-- CMP_CFG_WRITE (R259). -/
def execCmpCfgWrite (v : ViNo) (k : Fin 4) (val : W64) (s : State) : Host.Outcome State Fault Refusal :=
  act (cmpCfg v k val.toNat) s

/-- CMP_REF_WRITE (R259). -/
def execCmpRefWrite (v : ViNo) (k : Fin 4) (val : W64) (s : State) : Host.Outcome State Fault Refusal :=
  act (putR (R.TARN_VI_CMP_REF v k) val.toNat) s

end Sys2Proof.Machine
end

