-- ==== Sys2Proof/Machine/MaintQueue.lean ====
section
/-! DEFINITION. The queue of maintenance activities, and the lanes they hold (15 R448-R451, 10 R308). -/
namespace Sys2Proof.Machine

/-! Codes. -/

/-- Activities (R448). -/
def mtScrub : Nat := 0
def mtScan : Nat := 1
def mtCal : Nat := 2
def mtTest : Nat := 3
def mtRepair : Nat := 4
def mtStage : Nat := 5

/-- Results (R450). -/
def mrOk : Nat := 0
def mrBusy : Nat := 1
def mrTarget : Nat := 2
def mrDefect : Nat := 3
def mrCancelled : Nat := 4
def mrBadImage : Nat := 5

/-- Pairs of activities that conflict on one target (R449). -/
def maintPairs : List (Nat × Nat) := [(0, 0), (1, 1), (1, 2), (2, 1), (2, 2), (3, 3), (3, 4), (4, 3), (4, 4)]

/-- Whether two activities conflict (R449). -/
def maintConflict (a b : Maint) : Bool :=
  (a.act == mtStage && b.act == mtStage) || (a.target == b.target && maintPairs.contains (a.act, b.act))

/-- A tile on which a test or a repair may run. -/
def tileIdleOk (s : State) (t : Nat) : Bool :=
  decide (t < 152) && ((tileOf s t).core.state == .off || (tileOf s t).core.state == .fenced)

/-- A Tarn unit on which a repair may run: drained with EN = 0, or fenced. -/
def unitIdleOk (s : State) (u : Nat) : Bool :=
  decide (u < 96) && (flag s (F.TARN_UNIT_STAT_FENCED u) ||
    (!flag s (F.TARN_UNIT_CFG_EN u) && (unitSt s u).blocks.isEmpty && (unitSt s u).deepSlots.isEmpty))

/-- Whether the target is in range and in the state of R448. Before a boot has succeeded only staging runs (R432,
R434). -/
def maintTargetOk (s : State) (act target : Nat) : Bool :=
  (live s || act == mtStage) &&
  (match act with
   | 0 => decide (target < 8)
   | 1 => decide (target < 8)
   | 2 => decide (target < 8)
   | 3 => tileIdleOk s target
   | 4 => if target < 256 then tileIdleOk s target else unitIdleOk s (target - 256)
   | 5 => decide (target < 2)
   | _ => false)

/-! Lanes held out of service. -/

/-- The lanes of a port that an activity holds. -/
def heldLanes (s : State) (p : Nat) : List Nat := (upto 4).filter fun l => (laneSt s p l).held

/-- Whether a lane of a port may be held: all four are active both ways, and no change is under way (R308). -/
def canHold (s : State) (p : Nat) : Bool :=
  portPs s p == psUp && getF s (F.PORT_STAT_TXSET p) == 15 && getF s (F.PORT_STAT_RXSET p) == 15 &&
  (portSt s p).txNext == none && (portSt s p).rxNext == none && (portSt s p).swapQueue.isEmpty &&
  (heldLanes s p).isEmpty

/-- A lane is taken out of both directions. -/
def laneHold (p l : Nat) : M Unit := do
  modLane p l fun h => { h with held := true }
  let s ← cur
  announceNew p (without (txTarget s p) l)
  sendLane p 3 (l * 256)

/-- A held lane returns by WIDTH. -/
def laneRelease (p l : Nat) : M Unit := do
  modLane p l fun h => { h with held := false }
  sendLanes p
  txRefresh p

/-- The ports of an engine. -/
def enginePorts (e : Nat) : List Nat := (upto 8).map fun i => 8 * e + i

/-- An activity on an engine holds one of its lanes: which one is a free choice. -/
def holdOne (e : Nat) : M Unit := do
  let s ← cur
  let l := (enginePorts e).filter (canHold s)
  whenB (!l.isEmpty) do
    let c ← takeFree
    laneHold (l[c.toNat / 4 % l.length]?.getD 0) (c.toNat % 4)

/-- Every lane of an engine that is held returns. -/
def releaseEngine (e : Nat) : M Unit := do
  let s ← cur
  (enginePorts e).forM fun p => (heldLanes s p).forM (laneRelease p)

/-! The queue (R450). -/

/-- Key of the time an activity last started on a target. -/
def lastKey (act target : Nat) : Nat := act * 65536 + target

/-- An activity starts. A scrub pass counts the errors of its stack's rows afresh (13 R394). -/
def maintBegin (m : Maint) : M Unit := do
  let s ← cur
  modBoot fun y => { y with running := y.running ++ [{ m with start := nowNs s }],
                            lastRun := smSet 0 y.lastRun (lastKey m.act m.target) (nowNs s + 1) }
  whenB (m.act == mtScrub) (modFaults fun y => { y with hbmRows := y.hbmRows.filter fun r => r.1 / 32 != m.target })
  whenB (m.act == mtScan || m.act == mtCal) (holdOne m.target)

/-- An activity ends, or a START is refused, with a result (R450, R454). -/
def maintResult (tag result : Nat) : M Unit := do
  putF F.MGMT_MAINT_STAT_LASTTAG tag
  putF F.MGMT_MAINT_STAT_RESULT result
  addWrap F.MGMT_MAINT_STAT_DONE 1

/-- A queued activity starts once it conflicts with nothing running and with nothing queued before it. -/
def maintTry (m : Maint) : M Unit := do
  let s ← cur
  let before := s.sys.boot.queued.takeWhile fun x => x != m
  whenB (!(s.sys.boot.running ++ before).any (maintConflict m)) do
    modBoot fun y => { y with queued := y.queued.erase m }
    if maintTargetOk s m.act m.target then maintBegin m else maintResult m.tag mrTarget

/-- Queued activities that conflict with nothing start. -/
def maintNext : M Unit := do
  let s ← cur
  s.sys.boot.queued.forM maintTry

/-- A lane degrades on a port where an activity holds a lane: the lane returns and the activity joins the queue again
(R451). -/
def maintYield (p : Nat) : M Unit := do
  let s ← cur
  let hs := heldLanes s p
  let mine := fun (m : Maint) => (m.act == mtScan || m.act == mtCal) && m.target == p / 8
  whenB (!hs.isEmpty) do
    hs.forM (laneRelease p)
    modBoot fun y => { y with running := y.running.filter fun m => !mine m, queued := y.queued ++ y.running.filter mine }
    maintNext

end Sys2Proof.Machine
end

