-- ==== Sys2Proof/Machine/Lanes.lean ====
section
/-! DEFINITION. Optical lanes: codewords and lock (10 R295-R299), training (R305), sparing and widths (R306-R309, R473),
and PRBS and error injection (R310-R313). -/
namespace Sys2Proof.Machine

/-! Widths. -/

/-- A port whose width has fallen below 2: DOWN when lanes have been removed as failed, else TRAINING (R309, R473). -/
def narrowCheck (p width : Nat) : M Unit := do
  let s ← cur
  whenB (portPs s p == psUp && decide (width < 2))
    (if usableLanes s p < 2 then downPort (.hyora (Fin.ofNat 64 p)) else trainHyora p)

/-- A lane that no spare replaces is removed, or its fibre counts as failed (R307, R309, 13 R394). -/
def removeLane (p l : Nat) : M Unit := do
  setLaneMap p l 255
  modLane p l fun h => { h with failed := true, swapping := false, moved := false }
  modPort p fun y => { y with swapQueue := y.swapQueue.filter (· != l) }
  let c ← takeFree
  postErr { cls := 3, unit := 8, index := p, code := bits c.toNat 7 0, vi := none, inc := 0, overlap := false,
            info := BitVec.ofNat 64 l }
  let s ← cur
  narrowCheck p (usableLanes s p)

/-- 1 s in ns. -/
def secNs : Nat := 1000000000

/-- The lane at the head of the queue, once it is out of both sets: the near end swaps its channel, asks the far end to,
or gives the fibre up (R306, R307). -/
def swapHead (p l : Nat) : M Unit := do
  let s ← cur
  let h := laneSt s p l
  if h.farSwap then removeLane p l
  else if h.nearSwap.any (fun t => nowNs s < t + secNs) then do
    modLane p l fun h => { h with farSwap := true, moved := true }
    laneDrop p l
    sendLane p 4 (l * 256)
  else do
    let ok ← takeSpare p l
    if ok then modLane p l fun h => { h with nearSwap := some (nowNs s), moved := true }
    else removeLane p l

/-- Swaps of a port run one at a time (R308). -/
def swapStep (p : Nat) : M Unit := do
  let s ← cur
  match (portSt s p).swapQueue with
  | [] => pure ()
  | l :: _ =>
    whenB (portPs s p == psUp && !(laneSt s p l).moved && !bit (getF s (F.PORT_STAT_TXSET p)) l &&
        !bit (getF s (F.PORT_STAT_RXSET p)) l) (swapHead p l)

/-- Swaps that have ended: the lane is active both ways again. -/
def swapEnd (p : Nat) : M Unit := do
  let s ← cur
  match (portSt s p).swapQueue with
  | [] => pure ()
  | l :: rest =>
    whenB ((laneSt s p l).moved && bit (getF s (F.PORT_STAT_TXSET p)) l && bit (getF s (F.PORT_STAT_RXSET p)) l) do
      modLane p l fun h => { h with moved := false, nearSwap := some (nowNs s) }
      modPort p fun y => { y with swapQueue := rest }
      swapStep p

/-- A lane of an UP port is degrading (R306): it leaves the transmit set, and the far end is asked to narrow too. -/
def degrade (p l : Nat) : M Unit := do
  let s ← cur
  whenB (portPs s p == psUp) do
    maintYield p
    let s ← cur
    putF (F.PORT_LANE_STAT_DEGR p l) 1
    whenB (laneUsable s p l && laneActive s p l && !(portSt s p).swapQueue.contains l) do
      announceNew p (without (txTarget s p) l)
      sendLane p 3 (l * 256)
      modLane p l fun h => { h with swapping := true }
      modPort p fun y => { y with swapQueue := y.swapQueue ++ [l] }
      swapStep p

/-! Codewords. -/

/-- Whether a block header is invalid (R296). -/
def hdrInvalid (h : BitVec 2) : Bool := h == 0 || h == 3

/-- Valid headers in a row after the given ones. -/
def hdrRunOf (run : Nat) (l : List (BitVec 2 × W64)) : Nat :=
  l.foldl (fun n b => if 64 ≤ n then n else if hdrInvalid b.1 then 0 else n + 1) run

/-- The window of the latest 64 headers, and whether 16 of them have been invalid at any time. -/
def hdrWindow : Nat → List (BitVec 2 × W64) → Nat × Bool
  | w, [] => (w, false)
  | w, b :: l =>
    let w' := (2 * w + b2n (hdrInvalid b.1)) % 2 ^ 64
    let r := hdrWindow w' l
    (r.1, decide (16 ≤ cnt (fun i => bit w' i) (upto 64)) || r.2)

/-- A lane has lost its locks (R299): an active one is degrading, and a port whose lanes fall below 2 trains (R473). -/
def lockLost (p l : Nat) : M Unit := do
  laneDrop p l
  let s ← cur
  whenB ((laneSt s p l).swapping && !(portSt s p).swapQueue.contains l) (modLane p l fun h => { h with moved := true })
  sendLanes p
  let s ← cur
  whenB (portPs s p == psUp) do
    let rx := getF s (F.PORT_STAT_RXSET p)
    whenB (bit rx l) (degrade p l)
    let s ← cur
    narrowCheck p (cnt (fun i => bit rx i && flag s (F.PORT_LANE_STAT_BLK p i)) (upto 4))

/-- A codeword of a lane in codeword lock: headers and errors (R296, R299). -/
def codewordIn (p l : Nat) (cw : Codeword) : M Unit := do
  let s ← cur
  let h := laneSt s p l
  let unc := decide (15 < cw.symErrors)
  let ok := cw.mark == 0xA5C3
  whenB (!unc && decide (0 < cw.symErrors)) do
    addSat (F.PORT_LANE_STAT_CORR p l) cw.symErrors
    countEv 8 1 p none cw.symErrors
    healthAdd (objLane (p / 8) (laneMap s p l)) 1
  whenB unc do
    addSat (F.PORT_LANE_STAT_UNCORR p l) 1
    countEv 8 2 p none 1
  modLane p l fun x =>
    { x with symbols := x.symbols + (if unc then 0 else cw.symErrors), uncWin := x.uncWin + b2n unc
             markMiss := if ok then 0 else x.markMiss + 1, uncRun := if unc then x.uncRun + 1 else 0 }
  if !ok && 2 ≤ h.markMiss then lockLost p l
  else if flag s (F.PORT_LANE_STAT_BLK p l) then do
    let w := if unc then (h.hdrBad, false) else hdrWindow h.hdrBad cw.blocks
    modLane p l fun x => { x with hdrBad := w.1 }
    whenB (w.2 || (unc && 7 ≤ h.uncRun)) (lockLost p l)
  else do
    let n := if unc then h.hdrRun else hdrRunOf h.hdrRun cw.blocks
    modLane p l fun x => { x with hdrRun := n }
    whenB (decide (64 ≤ n)) do
      putF (F.PORT_LANE_STAT_BLK p l) 1
      modLane p l fun x => { x with hdrBad := 0, uncRun := 0 }
      sendLanes p
      txRefresh p

/-- CODEWORD_RECEIVE (R295, R296, R299). -/
def execCodewordReceive (p : PortNo) (l : LaneNo) (cw : Codeword) (s : State) : Host.Outcome State Fault Refusal :=
  act (do
    let s ← cur
    whenB (live s && (portPs s p == psUp || portPs s p == psTraining) && laneMap s p l != 255)
      (if flag s (F.PORT_LANE_STAT_CW p l) then codewordIn p l cw
       else do
        let n := if cw.mark = 0xA5C3 then (laneSt s p l).markRun + 1 else 0
        modLane p l fun x => { x with markRun := n }
        whenB (decide (4 ≤ n)) do
          putF (F.PORT_LANE_STAT_CW p l) 1
          modLane p l fun x => { x with markMiss := 0, hdrRun := 0, uncRun := 0 })) s

/-! Lane messages. -/

/-- A lane message of a TYPE that a port in the given states takes. -/
def laneTake (p : PortNo) (m : LaneMsg) (type : Nat) (states : List Nat) (k : M Unit) : M Unit := do
  let s ← cur
  whenB (live s && laneMsgOk m type && states.contains (portPs s p)) k

/-- A port in TRAINING with width 2 both ways is UP (R305). -/
def trainCheck (p : Nat) : M Unit := do
  let s ← cur
  whenB (portPs s p == psTraining && decide (2 ≤ widthOf (getF s (F.PORT_STAT_TXSET p))) &&
    decide (2 ≤ widthOf (getF s (F.PORT_STAT_RXSET p)))) (setPs p psUp)

/-- LANES (R305, R306). -/
def execLanes (p : PortNo) (m : LaneMsg) (s : State) : Host.Outcome State Fault Refusal :=
  act (laneTake p m 1 [psTraining, psUp] do
    modPort p fun y => { y with farLock := wf m 11 8 }
    let s ← cur
    let set := txWanted s p
    if portPs s p = psTraining then do
      putF (F.PORT_STAT_TXSET p) set
      let c ← takeFree
      sendLane p 2 (set * 256 + bits c.toNat 7 0 * 65536)
      trainCheck p
    else txRefresh p) s

/-- WIDTH (R305, R306): at once in TRAINING, at its SEQ in UP. -/
def execWidth (p : PortNo) (m : LaneMsg) (s : State) : Host.Outcome State Fault Refusal :=
  act (laneTake p m 2 [psTraining, psUp] do
    let s ← cur
    if portPs s p = psTraining then do
      putF (F.PORT_STAT_RXSET p) (wf m 11 8)
      trainCheck p
    else modPort p fun y => { y with rxNext := some (wf m 11 8, wf m 23 16) }) s

/-- Lanes that the far end transmits on again after it had asked this end to leave them: this end returns too, unless a
swap of its own runs on them (R306, R308). -/
def farReturns (p old new : Nat) : M Unit := do
  let s ← cur
  let back := (upto 4).filter fun l =>
    bit new l && !bit old l && (laneSt s p l).swapping && !(portSt s p).swapQueue.contains l
  back.forM fun l => modLane p l fun h => { h with swapping := false, moved := false }
  whenB (!back.isEmpty) (txRefresh p)

/-- WIDTH_CHANGE_EFFECT (R306). -/
def execWidthChangeEffect (p : PortNo) (seq : Byte) (s : State) : Host.Outcome State Fault Refusal :=
  act (do
    let s ← cur
    whenB (live s && portPs s p == psUp) do
      let h := portSt s p
      (match h.txNext with
       | some x => whenB (x.2 == seq.toNat) do
          putF (F.PORT_STAT_TXSET p) x.1
          modPort p fun y => { y with txNext := none }
       | none => pure ())
      (match h.rxNext with
       | some x => whenB (x.2 == seq.toNat) do
          farReturns p (getF s (F.PORT_STAT_RXSET p)) x.1
          putF (F.PORT_STAT_RXSET p) x.1
          modPort p fun y => { y with rxNext := none }
       | none => pure ())
      let s ← cur
      narrowCheck p (min (widthOf (getF s (F.PORT_STAT_TXSET p))) (widthOf (getF s (F.PORT_STAT_RXSET p))))
      swapEnd p
      swapStep p) s

/-- NARROW_REQ (R306). -/
def execNarrowReq (p : PortNo) (m : LaneMsg) (s : State) : Host.Outcome State Fault Refusal :=
  act (laneTake p m 3 [psUp] do
    let s ← cur
    let mine := (portSt s p).swapQueue.contains (wf m 9 8)
    let lost := !flag s (F.PORT_LANE_STAT_BLK p (wf m 9 8))
    modLane p (wf m 9 8) fun h => { h with swapping := true, moved := if mine then h.moved else lost }
    announceNew p (without (txTarget s p) (wf m 9 8))) s

/-- SWAP_REQ (R307): this end swaps its own channel, or answers SWAP_NAK. -/
def execSwapReq (p : PortNo) (m : LaneMsg) (s : State) : Host.Outcome State Fault Refusal :=
  act (laneTake p m 4 [psUp] do
    let l := wf m 9 8
    modLane p l fun h => { h with swapping := true, moved := true }
    let ok ← takeSpare p l
    whenB (!ok) (sendLane p 5 (l * 256))) s

/-- SWAP_NAK (R307): the fibre counts as failed. -/
def execSwapNak (p : PortNo) (m : LaneMsg) (s : State) : Host.Outcome State Fault Refusal :=
  act (laneTake p m 5 [psUp] do
    let s ← cur
    let l := wf m 9 8
    whenB ((laneSt s p l).farSwap && (portSt s p).swapQueue.contains l) do
      removeLane p l
      swapStep p) s

/-- BYE (R473): the port goes DOWN and its queued frames are purged. -/
def execBye (p : PortNo) (m : LaneMsg) (s : State) : Host.Outcome State Fault Refusal :=
  act (laneTake p m 6 [psTraining, psUp] (downPort (.hyora p))) s

/-! Conditions. -/

/-- LANE_TRAIN_TIMEOUT (R305): a lane not in lock is spared when a spare is free. -/
def execLaneTrainTimeout (p : PortNo) (l : LaneNo) (s : State) : Host.Outcome State Fault Refusal :=
  act (do
    let s ← cur
    whenB (live s && portPs s p == psTraining && !flag s (F.PORT_LANE_STAT_BLK p l) && laneUsable s p l) do
      let _ ← takeSpare p l
      pure ()) s

/-- SYMBOL_WINDOW_EXPIRY (R306). -/
def execSymbolWindowExpiry (p : PortNo) (l : LaneNo) (s : State) : Host.Outcome State Fault Refusal :=
  act (do
    let s ← cur
    let h := laneSt s p l
    whenB (live s) do
      modLane p l fun x => { x with symbols := 0, uncWin := 0 }
      whenB (decide (max 1 (getF s (F.PORT_SWAP_THR_SWAPTHR p)) < h.symbols ∨ 4 ≤ h.uncWin)) (degrade p l)) s

/-- OPTICAL_ALARM (R306). -/
def execOpticalAlarm (p : PortNo) (l : LaneNo) (on : Bool) (s : State) : Host.Outcome State Fault Refusal :=
  act (whenLive do
    putF (F.PORT_LANE_STAT_ALARM p l) (b2n on)
    whenB on (degrade p l)) s

/-! PRBS and injection (R310-R313). -/

/-- The port's PRBS fields. -/
def prbsCtl : PhyPort → RegRef
  | .hyora p => R.PORT_PRBS_CTL p
  | .edge e => R.EDGE_PRBS_CTL e
def prbsErr : PhyPort → Nat → RegRef
  | .hyora p, l => R.PORT_PRBS_ERR p l
  | .edge e, l => R.EDGE_PRBS_ERR e l
def prbsBitsReg : PhyPort → RegRef
  | .hyora p => R.PORT_PRBS_BITS p
  | .edge e => R.EDGE_PRBS_BITS e
def ppLane (s : State) : PhyPort → Nat → LaneH
  | .hyora p, l => laneSt s p l
  | .edge e, l => smGet {} (edgeSt s e).lanes l
def modPpLane (p : PhyPort) (l : Nat) (g : LaneH → LaneH) : M Unit :=
  match p with
  | .hyora p => modLane p l g
  | .edge e => modEdge e fun y => { y with lanes := smSet {} y.lanes l (g (smGet {} y.lanes l)) }
def ppNum : PhyPort → Nat
  | .hyora p => p
  | .edge e => 64 + e

/-- The checker before it has loaded its state. -/
def prbsFresh (h : LaneH) : LaneH := { h with prbsLoaded := 0, prbsRun := 0, prbsHist := 0 }

/-- A write of PORT_PRBS_CTL or EDGE_PRBS_CTL (R311, R312). -/
def prbsWrite (p : PhyPort) (val : Nat) : M Unit := do
  let s ← cur
  let rise := !bit (getR s (prbsCtl p)) 30 && bit val 30
  putR (prbsCtl p) (setBits (bits val 62 0) 20 0 0)
  whenB rise do
    putR (prbsBitsReg p) 0
    (upto 4).forM fun l => do
      putR (prbsErr p l) 0
      modPpLane p l fun h => { prbsFresh h with prbsBits := 0 }
  whenB (ppState s p == psTest && bit val 31 && bits val 29 28 == 1) (send (.inject (ppNum p) (bits val 22 21) 1))

/-- PRBS_CHECK_START (R311). -/
def execPrbsCheckStart (p : PhyPort) (val : W64) (s : State) : Host.Outcome State Fault Refusal :=
  act (whenLive (prbsWrite p val.toNat)) s

/-- PRBS_INJECT_SINGLE (R312). -/
def execPrbsInjectSingle (p : PhyPort) (val : W64) (s : State) : Host.Outcome State Fault Refusal :=
  act (whenLive (prbsWrite p val.toNat)) s

/-- PRBS_INJECT_PERIODIC (R312): one bit in 2^max(10, INJRATE) is inverted. -/
def execPrbsInjectPeriodic (p : PhyPort) (s : State) : Host.Outcome State Fault Refusal :=
  act (do
    let s ← cur
    let c := getR s (prbsCtl p)
    whenB (live s && ppState s p == psTest && bit c 31 && bits c 29 28 == 2)
      (send (.inject (ppNum p) (bits c 22 21) 1))) s

/-- `prbs31_next` (R310): the bit and the state. -/
def prbs31 (s : Nat) : Bool × Nat :=
  let b := bit s 30 != bit s 27
  (b, (2 * s + b2n b) % 2 ^ 31)

/-- The checker of a lane: its part of the state, SYNC and ERRORS. -/
structure Checker where
  h : LaneH
  sync : Bool
  errors : Nat

/-- One received bit (R311). -/
def checkBit (c : Checker) (b : Bool) : Checker :=
  let h := { c.h with prbsBits := c.h.prbsBits + 1 }
  if h.prbsLoaded < 31 then
    { c with h := { h with prbsState := (2 * h.prbsState + b2n b) % 2 ^ 31, prbsLoaded := h.prbsLoaded + 1 } }
  else
    let r := prbs31 h.prbsState
    let wrong := r.1 != b
    let h := { h with prbsState := r.2 }
    if c.sync then
      let hist := (2 * h.prbsHist + b2n wrong) % 2 ^ 1024
      let h := { h with prbsHist := hist }
      if 64 ≤ cnt (fun i => bit hist i) (upto 1024) then { h := prbsFresh h, sync := false, errors := c.errors + b2n wrong }
      else { c with h, errors := c.errors + b2n wrong }
    else if wrong then { c with h := prbsFresh h }
    else if 1023 ≤ h.prbsRun then { c with h := { h with prbsHist := 0, prbsRun := 1024 }, sync := true }
    else { c with h := { h with prbsRun := h.prbsRun + 1 } }

/-- PRBS_SYNC (R311). -/
def execPrbsSync (p : PhyPort) (l : LaneNo) (bs : List Bool) (s : State) : Host.Outcome State Fault Refusal :=
  act (do
    let s ← cur
    whenB (live s && ppState s p == psTest && bit (getR s (prbsCtl p)) 30) do
      let e := getR s (prbsErr p l)
      let c := bs.foldl checkBit { h := ppLane s p l, sync := bit e 63, errors := bits e 47 0 }
      modPpLane p l fun _ => c.h
      putR (prbsErr p l) (b2n c.sync * 2 ^ 63 + min (2 ^ 48 - 1) c.errors)
      putR (prbsBitsReg p) (max (getR s (prbsBitsReg p)) c.h.prbsBits)) s

/-- FEC_INJECT (R313). -/
def execFecInject (p : PortNo) (l : LaneNo) (s : State) : Host.Outcome State Fault Refusal :=
  act (do
    let s ← cur
    let n := getF s (F.PORT_FEC_INJ_NSYM p)
    whenB (live s && portPs s p == psUp && flag s (F.PORT_FEC_INJ_EN p) && getF s (F.PORT_FEC_INJ_LANE p) == l.val) do
      addSat (F.PORT_FEC_INJ_INJCNT p) n
      send (.inject p l n)) s

end Sys2Proof.Machine
end

