-- ==== Sys2Proof/Machine/Maint.lean ====
section
/-! DEFINITION. Maintenance: commands, ends and windows (15 R448-R451), and the check of a firmware image (R433). -/
namespace Sys2Proof.Machine

/-! Firmware images. -/

/-- Length of an image slot (R430). -/
def fwLen : Nat := 8388608

/-- Whether the signature of an image is valid. -/
def fwSigned (l : List Byte) : Bool := Config.signatureValid l

/-- Whether an image's security version is acceptable. -/
def fwFresh (s : State) (l : List Byte) : Bool := decide (s.sys.boot.fuseVersion ≤ Config.imageVersion l)

/-- Whether an image verifies (R433). -/
def fwOk (s : State) (l : List Byte) : Bool := fwSigned l && fwFresh s l

/-! Commands. -/

/-- A START (R450). -/
def maintStart (act tag target : Nat) : M Unit := do
  let s ← cur
  let m : Maint := { act, tag, target, start := 0 }
  if !maintTargetOk s act target then maintResult tag mrTarget
  else if !s.sys.boot.running.any (maintConflict m) then maintBegin m
  else if 8 ≤ s.sys.boot.queued.length then maintResult tag mrBusy
  else modBoot fun y => { y with queued := y.queued ++ [m] }

/-- MAINT_START (R450). -/
def execMaintStart (act : Fin 16) (tag : Byte) (target : BitVec 16) (s : State) : Host.Outcome State Fault Refusal :=
  Sys2Proof.Machine.act (do
    let s ← cur
    whenB (clocked s) (maintStart act.val tag.toNat target.toNat)) s

/-- A running activity leaves: the lane it holds returns. -/
def maintLeave (m : Maint) : M Unit := do
  modBoot fun y => { y with running := y.running.erase m }
  whenB (m.act == mtScan || m.act == mtCal) (releaseEngine m.target)

/-- A CANCEL by TAG (R450). -/
def maintCancel (tag : Nat) : M Unit := do
  let s ← cur
  let run := s.sys.boot.running.filter fun m => m.tag == tag
  let wait := s.sys.boot.queued.filter fun m => m.tag == tag
  modBoot fun y => { y with queued := y.queued.filter fun m => m.tag != tag }
  run.forM maintLeave
  (run ++ wait).forM fun m => maintResult m.tag mrCancelled
  maintNext

/-- MAINT_CANCEL (R450). -/
def execMaintCancel (tag : Byte) (s : State) : Host.Outcome State Fault Refusal :=
  act (do
    let s ← cur
    whenB (clocked s) (maintCancel tag.toNat)) s

/-! Ends. -/

/-- A defect in a held lane: the lane goes on to a swap (13 R394, 10 R306). -/
def heldDefect (p l : Nat) : M Unit := do
  modLane p l fun h => { h with held := false, swapping := true }
  putF (F.PORT_LANE_STAT_DEGR p l) 1
  modPort p fun y => { y with swapQueue := y.swapQueue ++ [l] }
  swapStep p

/-- A defect found by an activity (R450): a tile is fenced, a lane is swapped, an HBM row is replaced, or its channel is
retired where its bank has no spare row (13 R394); which channel, and whether a spare row is left, are free choices. -/
def maintDefect (m : Maint) : M Unit := do
  let s ← cur
  match m.act with
  | 0 => do
    let spare ← takeBit
    let c ← takeFree
    whenB (!spare) (retireChannel (32 * m.target + c.toNat % 32))
  | 1 => (enginePorts m.target).forM fun p => (heldLanes s p).forM (heldDefect p)
  | 2 => (enginePorts m.target).forM fun p => (heldLanes s p).forM (heldDefect p)
  | _ =>
    if m.target < 152 then tileFence m.target
    else withScore (objUnit (m.target - 256)) (putF (F.TARN_UNIT_STAT_FENCED (m.target - 256)) 1)

/-- The staged image is checked and written to its slot (R448). -/
def stageImage (m : Maint) : M Unit := do
  let s ← cur
  let l := hbmRead s (getF s F.MGMT_MAINT_SRC_DPA * 4096) fwLen
  if fwOk s l then do
    modBoot fun y => { y with flashImages := smSet [] y.flashImages m.target l }
    maintResult m.tag mrOk
  else maintResult m.tag mrBadImage

/-- An activity ends (R450). -/
def maintEnd (m : Maint) (defect : Bool) : M Unit := do
  modBoot fun y => { y with running := y.running.erase m }
  if m.act = mtStage then stageImage m
  else if defect then do
    maintDefect m
    maintResult m.tag mrDefect
  else do
    whenB (m.act == mtScan || m.act == mtCal) (releaseEngine m.target)
    whenB (m.act == mtRepair) (modBoot fun y => { y with repairs := y.repairs ++ [m.target] })
    maintResult m.tag mrOk

/-- MAINT_DONE (R450): the activity with the tag ends, and queued ones start. -/
def execMaintDone (tag : Byte) (defect : Bool) (s : State) : Host.Outcome State Fault Refusal :=
  act (do
    let s ← cur
    whenB (clocked s)
      (match s.sys.boot.running.find? fun m => m.tag == tag.toNat with
       | some m => do
         maintEnd m defect
         maintNext
       | none => pure ())) s

/-! Windows (R451). -/

/-- Minute of the TAI day. -/
def taiMinute (s : State) : Nat := nowNs s / 60000000000 % 1440

/-- Whether a window that names an activity is open. -/
def windowOpen (s : State) (act : Nat) : Bool :=
  (upto 8).any fun k =>
    flag s (F.MGMT_MAINT_WIN_EN k) && bit (getF s (F.MGMT_MAINT_WIN_ACT k)) act &&
    decide ((taiMinute s + 1440 - getF s (F.MGMT_MAINT_WIN_START k)) % 1440 < getF s (F.MGMT_MAINT_WIN_LEN k))

/-- Whether a period has passed since an activity last started on a target. -/
def dueAfter (s : State) (act target ns : Nat) : Bool :=
  let t := smGet 0 s.sys.boot.lastRun (lastKey act target)
  t == 0 || decide (t - 1 + ns ≤ nowNs s)

/-- Whether an activity is due; that an engine's temperature has moved is the command's own condition. -/
def maintDue (s : State) (act target : Nat) : Bool :=
  match act with
  | 0 => dueAfter s 0 target dayNs
  | 1 => dueAfter s 1 target (7 * dayNs)
  | 2 => true
  | 3 => decide (target < 152) && (tileOf s target).core.state == .off && dueAfter s 3 target dayNs
  | _ => false

/-- Whether an activity already runs or waits on a target. -/
def maintThere (s : State) (act target : Nat) : Bool :=
  (s.sys.boot.running ++ s.sys.boot.queued).any fun m => m.act == act && m.target == target

/-- MAINT_WINDOW_DUE (R451): its tag is a free value. -/
def execMaintWindowDue (act : Fin 16) (target : BitVec 16) (s : State) : Host.Outcome State Fault Refusal :=
  Sys2Proof.Machine.act (do
    let s ← cur
    let a := act.val
    let t := target.toNat
    whenB (live s && windowOpen s a && maintTargetOk s a t && maintDue s a t && !maintThere s a t &&
        decide (s.sys.boot.queued.length < 8)) do
      let c ← takeFree
      maintStart a (bits c.toNat 7 0) t) s

end Sys2Proof.Machine
end

