-- ==== Sys2Proof/Machine/Power.lean ====
section
/-! DEFINITION. Power, clocks and temperature: the device ceiling and the clocks of the tiles (15 R452, 01 R19, R23), the
regulator (16 R462, R463), the thermal response (15 R453) and the loss of a reference clock (16 R459). -/
namespace Sys2Proof.Machine

/-! Clocks. -/

/-- Clock of a group in MHz. -/
def grpClk (s : State) (g : Nat) : Nat := smGet 1700 s.sys.power.clk g

/-- The VI whose limit a tile puts on its group: none for a tile that is fenced, spare or not allotted (R452). -/
def clockVi (s : State) (t : Nat) : Option Nat :=
  if (tileOf s t).core.state = .fenced then none
  else
    match tileOwner s t with
    | some v => if viPresent s v then some v else none
    | none => none

/-- The clock that a group is to run at under a ceiling (R452). -/
def clockFor (s : State) (ceil g : Nat) : Nat :=
  (upto 4).foldl (fun m i =>
    match clockVi s (4 * g + i) with
    | some v => min m (getF s (F.CLKPWR_TCLK_MAX v))
    | none => m) ceil

/-- The groups take the clocks of a ceiling; each one that changes gates its tiles (01 R23). -/
def reclock (ceil : Nat) : M Unit := do
  let s ← cur
  ((upto 38).filter fun g => clockFor s ceil g != grpClk s g).forM fun g =>
    modPower fun y => { y with clk := smSet 1700 y.clk g (clockFor s ceil g)
                               gaps := if y.gaps.contains g then y.gaps else y.gaps ++ [g] }

/-- The ceiling in force, with a downward step under way counted (16 R463). -/
def ceilNow (s : State) : Nat :=
  match s.sys.power.avs with
  | some c => min c (getF s F.CLKPWR_PWR_CEIL)
  | none => getF s F.CLKPWR_PWR_CEIL

/-- The groups follow a change of the VIs, of their tiles or of their limits. -/
def reclockNow : M Unit := do
  let s ← cur
  reclock (ceilNow s)

/-- DVFS_GAP_END (01 R23). -/
def execDvfsGapEnd (grp : Fin 38) (s : State) : Host.Outcome State Fault Refusal :=
  act (do
    let s ← cur
    whenB (clocked s) (modPower fun y => { y with gaps := y.gaps.filter (· != grp.val) })) s

/-! The ceiling. -/

/-- A step of 100 MHz within 900 to 1,900 MHz; down, the clocks fall before the voltage (16 R462, R463). -/
def ceilStep (up : Bool) : M Unit := do
  let s ← cur
  let c := getF s F.CLKPWR_PWR_CEIL
  let new := if up then c + 100 else c - 100
  whenB (decide (900 ≤ new ∧ new ≤ 1900)) do
    whenB (!up) (reclock new)
    modPower fun y => { y with avs := some new }
    send (.report 10 (bytesOf 2 (getF s (F.CLKPWR_VF_MV ((new - 900) / 100)))))

/-- A decision to step the ceiling: it waits while a step is pending, and of two that wait the lower ceiling wins
(16 R463). -/
def ceilAsk (up : Bool) : M Unit := do
  let s ← cur
  if s.sys.power.avs.isSome then modPower fun y => { y with wanted := some (up && y.wanted.getD true) }
  else ceilStep up

/-- The decision that waited is taken. -/
def ceilNext : M Unit := do
  let s ← cur
  match s.sys.power.wanted with
  | some up => do
    modPower fun y => { y with wanted := none }
    ceilStep up
  | none => pure ()

/-- POWER_CONTROL_TICK (R452). -/
def execPowerControlTick (watts : BitVec 16) (s : State) : Host.Outcome State Fault Refusal :=
  act (do
    let s ← cur
    let cap := getF s F.CLKPWR_PCAP_CAP
    whenB (live s) do
      putF F.CLKPWR_PWR_PWR watts.toNat
      if cap < watts.toNat then ceilAsk false
      else whenB (decide (100 * watts.toNat < 95 * cap) && !s.sys.power.throttling) (ceilAsk true)) s

/-- AVS_COMPLETE (16 R463): the ceiling changes; upward, the clocks rise only now. -/
def execAvsComplete (s : State) : Host.Outcome State Fault Refusal :=
  act (do
    let s ← cur
    whenB (live s)
      (match s.sys.power.avs with
       | some c => do
         modPower fun y => { y with avs := none }
         putF F.CLKPWR_PWR_CEIL c
         reclockNow
         ceilNext
       | none => pure ())) s

/-- AVS_TIMEOUT (16 R463): the ceiling keeps its value, and the clocks follow it. -/
def execAvsTimeout (s : State) : Host.Outcome State Fault Refusal :=
  act (do
    let s ← cur
    whenB (live s && s.sys.power.avs.isSome) do
      modPower fun y => { y with avs := none }
      putF F.CLKPWR_RAIL_STAT_AVSFAIL 1
      healthAdd objDevice 40
      reclockNow
      ceilNext) s

/-! Temperature (R453). -/

/-- The highest junction temperature: TMAX, and THERM_ALERT_N while it is at WARN or above. -/
def setTemp (temp : Nat) : M Unit := do
  let s ← cur
  let hot := decide (getF s F.CLKPWR_THERM_WARN ≤ temp)
  putF F.CLKPWR_THERM_TMAX temp
  putF F.CLKPWR_THERM_ALERT (b2n hot)
  whenB (flag s F.CLKPWR_THERM_ALERT != hot) (send (.pin "THERM_ALERT_N" (!hot)))

/-- The temperature is read, and where the condition holds the response follows. -/
def tempThen (temp : Nat) (cond : State → Bool) (m : M Unit) : M Unit := do
  let s ← cur
  whenB (clocked s) do
    setTemp temp
    whenB (cond s) m

/-- TEMP_WARN. -/
def execTempWarn (temp : Byte) (s : State) : Host.Outcome State Fault Refusal :=
  act (tempThen temp.toNat (fun _ => false) (pure ())) s

/-- TEMP_BELOW_WARN. -/
def execTempBelowWarn (temp : Byte) (s : State) : Host.Outcome State Fault Refusal :=
  act (tempThen temp.toNat (fun _ => false) (pure ())) s

/-- THROT has been reached. -/
def throttleOn : M Unit := do
  putF F.CLKPWR_THERM_THROTSEEN 1
  modPower fun y => { y with throttling := true }

/-- TEMP_THROT. -/
def execTempThrot (temp : Byte) (s : State) : Host.Outcome State Fault Refusal :=
  act (tempThen temp.toNat (fun s => decide (getF s F.CLKPWR_THERM_THROT ≤ temp.toNat)) throttleOn) s

/-- THROTTLE_TICK: the ceiling falls each ms until the temperature is below THROT - 5 °C. -/
def execThrottleTick (temp : Byte) (s : State) : Host.Outcome State Fault Refusal :=
  act (tempThen temp.toNat (fun s => s.sys.power.throttling) do
    let s ← cur
    if temp.toNat + 5 < getF s F.CLKPWR_THERM_THROT then modPower fun y => { y with throttling := false }
    else ceilAsk false) s

/-- TEMP_CRIT: every tile stops issuing. -/
def execTempCrit (temp : Byte) (s : State) : Host.Outcome State Fault Refusal :=
  act (tempThen temp.toNat (fun s => decide (getF s F.CLKPWR_THERM_CRIT ≤ temp.toNat)) do
    throttleOn
    putF F.CLKPWR_THERM_CRITSEEN 1
    modPower fun y => { y with critHold := true }) s

/-- TEMP_BELOW_THROT: issue resumes. -/
def execTempBelowThrot (temp : Byte) (s : State) : Host.Outcome State Fault Refusal :=
  act (tempThen temp.toNat (fun s => decide (temp.toNat < getF s F.CLKPWR_THERM_THROT))
    (modPower fun y => { y with critHold := false })) s

/-- THERMAL_TRIP: every clock but the always-on one stops, for good. -/
def execThermalTrip (s : State) : Host.Outcome State Fault Refusal :=
  act (do
    putF F.CLKPWR_THERM_ALERT 1
    modPower fun y => { y with tripped := true }
    send (.pin "THERM_ALERT_N" false)) s

/-! Reference clocks (16 R459). -/

/-- LOS of an input. -/
def losOf (n : Nat) : FieldRef := if n = 0 then F.CLKPWR_REF_LOS0 else F.CLKPWR_REF_LOS1

/-- Every PLL. -/
def allPlls : List Pll := (List.finRange 8).map Pll.engine ++ (List.finRange 8).map Pll.edge

/-- The device goes on from the other input: every PLL relocks, and the tiles are gated meanwhile. -/
def refSwitch (other : Nat) : M Unit := do
  putF F.CLKPWR_REF_ACTIVE other
  addSat F.CLKPWR_RAIL_STAT_FAILOVERS 1
  allPlls.forM pllLose
  modPower fun y => { y with gaps := upto 38 }

/-- Every PLL domain stops with its state held. -/
def refStop : M Unit := do
  modPower fun y => { y with stopped := true }
  putF F.CLKPWR_RAIL_STAT_REFLOSS 1

/-- REFCLK_LOSS (16 R459). -/
def execRefclkLoss (inp : Fin 2) (s : State) : Host.Outcome State Fault Refusal :=
  act (do
    let s ← cur
    let other := 1 - inp.val
    whenB (!s.sys.power.tripped) do
      putF (losOf inp) 1
      whenB (clocked s && getF s F.CLKPWR_REF_ACTIVE == inp.val)
        (if flag s F.CLKPWR_REF_FAILOVER && !flag s (losOf other) then refSwitch other else refStop)) s

end Sys2Proof.Machine
end

