-- ==== Sys2Proof/Machine/Boot.lean ====
section
/-! DEFINITION. Resets (15 R429, 16 R459, R465) and the boot up to the profile (15 R430-R434). -/
namespace Sys2Proof.Machine

/-! Resets. -/

/-- The number of an access path (00 R7): its write latch is kept at 2 n, its read latch at 2 n + 1. -/
def pathNo : Via → Nat
  | .bar0 d => d
  | .page d _ => d
  | .spi => 2
  | .mgmt => 3

/-- Tiles that the fuses fence: those fenced now, but for what a repair has mended (01 R29, 15 R448). -/
def fusedTiles (s : State) : List Nat :=
  ((s.sys.boot.fused ++ (upto 152).filter fun t => (tileOf s t).core.state == .fenced).eraseDups).filter fun t =>
    !s.sys.boot.repairs.contains t

/-- The system part after a reset. A management reset leaves global time, the SPI slave and the management ports as
they are (R429). -/
def resetSys (s : State) (mgmt : Bool) : Sys :=
  { boot := { flashProfiles := s.sys.boot.flashProfiles, flashImages := s.sys.boot.flashImages,
              fuseVersion := s.sys.boot.fuseVersion, fused := fusedTiles s,
              dropped := if mgmt then s.sys.boot.dropped else 0 }
    power := { gpioIn := s.sys.power.gpioIn }
    telem := if mgmt then { time := s.sys.telem.time, rate := s.sys.telem.rate, ppsSet := s.sys.telem.ppsSet } else {}
    latches := if mgmt then s.sys.latches.filter fun p => decide (4 ≤ p.1) else [] }

/-- What the registers keep through a reset: CLKPWR_RAIL_STAT (16 R465), what the pins and modules show, and after a
management reset the SPI slave's counts and global time (15 R429). -/
def keptRegs (mgmt : Bool) : List RegRef :=
  [R.CLKPWR_RAIL_STAT] ++ (if mgmt then [R.MGMT_SPI_STAT, R.TELEM_TIME_CTL, R.TELEM_TIME_OFS] else [])
def keptFields : List FieldRef :=
  [F.CLKPWR_REF_LOS0, F.CLKPWR_REF_LOS1] ++
  (upto 8).flatMap fun e => [F.EDGE_STAT_MODPRES e, F.EDGE_STAT_MODREADY e]

/-- The device is reset: every register but those named holds its reset value, and CAUSE reads CONTAIN for the VIs whose
containment ends (13 R392). The reference in use is the preferred one that is valid (16 R459). -/
def resetState (mgmt : Bool) : M Unit := do
  let s ← cur
  let was := (upto 16).filter fun v => viState s v == 3
  emit (.reset (resetSys s mgmt))
  (keptRegs mgmt).forM fun r => putR r (getR s r)
  keptFields.forM fun f => putF f (getF s f)
  was.forM fun v => putF (F.FAULT_VI_CTL_CAUSE v) causeContain
  whenB (flag s F.CLKPWR_REF_LOS0 && !flag s F.CLKPWR_REF_LOS1) (putF F.CLKPWR_REF_ACTIVE 1)

/-- The boot starts: PROFILE_SEL is sampled and the PLLs settle (R430, 10 R303). -/
def bootStart (sel : Nat) : M Unit := do
  modBoot fun y => { y with sel }
  putF F.MGMT_BOOT_STAT_STAGE stageFirmware
  allPlls.forM (setPll 1)

/-- RESET_N is released. After a trip only a power cycle recovers the device (R453); in a brownout the rails hold it
(16 R465). -/
def execResetN (sel : BitVec 2) (s : State) : Host.Outcome State Fault Refusal :=
  act (do
    let s ← cur
    whenB (!s.sys.power.tripped && !s.sys.boot.inReset) do
      resetState false
      bootStart sel.toNat) s

/-- A management reset (R429). -/
def mgmtReset (sel : Nat) : M Unit := do
  resetState true
  bootStart sel

/-- Paths that reach MGMT_RST. -/
def rstPath : Via → Bool
  | .spi => true
  | .mgmt => true
  | _ => false

/-- MGMT_RESET (R429): a write from BAR0 has no effect. -/
def execMgmtReset (via : Via) (sel : BitVec 2) (s : State) : Host.Outcome State Fault Refusal :=
  act (do
    let s ← cur
    whenB (clocked s && rstPath via) (mgmtReset sel.toNat)) s

/-- REFCLK_RESTORED (16 R459): after a stop, a management reset; else the device stays on the input in use. -/
def execRefclkRestored (inp : Fin 2) (sel : BitVec 2) (s : State) : Host.Outcome State Fault Refusal :=
  act (do
    let s ← cur
    whenB (!s.sys.power.tripped) do
      putF (losOf inp) 0
      whenB (s.sys.power.stopped && !s.sys.boot.inReset) (mgmtReset sel.toNat)) s

/-- BROWNOUT (16 R465): the device is held in reset. Without VDD_AON nothing of it is left but its flash and fuses. -/
def execBrownout (rail : Fin 9) (aonHolds : Bool) (s : State) : Host.Outcome State Fault Refusal :=
  act (do
    let s ← cur
    let trip := s.sys.power.tripped
    resetState false
    modBoot fun y => { y with inReset := true }
    if aonHolds then do
      putF F.CLKPWR_RAIL_STAT_BROWN (Nat.lor (getF s F.CLKPWR_RAIL_STAT_BROWN) (2 ^ rail.val))
      modPower fun y => { y with tripped := trip }
    else putR R.CLKPWR_RAIL_STAT 0) s

/-- BROWNOUT_RECOVER (16 R465): the device boots as from RESET_N. -/
def execBrownoutRecover (sel : BitVec 2) (s : State) : Host.Outcome State Fault Refusal :=
  act (do
    let s ← cur
    whenB (s.sys.boot.inReset && !s.sys.power.tripped) do
      modBoot fun y => { y with inReset := false }
      bootStart sel.toNat) s

/-! Stages. -/

/-- An image slot of the flash. -/
def imageAt (s : State) (slot : Nat) : List Byte := smGet [] s.sys.boot.flashImages slot

/-- Whether a slot holds an image that verifies. -/
def slotOk (s : State) (slot : Nat) : Bool := !(imageAt s slot).isEmpty && fwOk s (imageAt s slot)

/-- Whether a slot fails by its version alone. -/
def slotStale (s : State) (slot : Nat) : Bool :=
  !(imageAt s slot).isEmpty && fwSigned (imageAt s slot) && !fwFresh s (imageAt s slot)

/-- The slot that the ROM boots: the valid one with the higher version; of two equal ones either (R433). -/
def bootSlot : M (Option Nat) := do
  let s ← cur
  match slotOk s 0, slotOk s 1 with
  | true, true =>
    if Config.imageVersion (imageAt s 0) = Config.imageVersion (imageAt s 1) then do
      let b ← takeBit
      return some (b2n b)
    else return some (if Config.imageVersion (imageAt s 0) < Config.imageVersion (imageAt s 1) then 1 else 0)
  | true, false => return some 0
  | false, true => return some 1
  | false, false => return none

/-- Codes of MGMT_BOOT_STAT (R454). -/
def bcSignature : Nat := 1
def bcRollback : Nat := 2
def bcHbm : Nat := 3

/-- FIRMWARE_VERIFIED (R433, R434). -/
def execFirmwareVerified (s : State) : Host.Outcome State Fault Refusal :=
  act (do
    let s ← cur
    whenB (clocked s && bootStage s == stageFirmware) do
      let k ← bootSlot
      match k with
      | some i => do
        putF F.MGMT_BOOT_STAT_SLOT i
        putF F.MGMT_BOOT_STAT_STAGE stageSelftest
        modBoot fun y => { y with fwHash := Config.sha384 (imageAt s i), version := Config.imageVersion (imageAt s i) }
      | none => do
        putF F.MGMT_BOOT_STAT_CODE (if slotStale s 0 || slotStale s 1 then bcRollback else bcSignature)
        putF F.MGMT_BOOT_STAT_STAGE stageRecovery) s

/-- A tile is fenced at boot: a spare, one of those that are healthy, takes its position (01 R29). -/
def bootFence (t : Nat) : M Unit := do
  let s ← cur
  let sp := getF s F.GLOBAL_TILE_COUNT_SPARE
  let lo := getF s F.GLOBAL_TILE_COUNT_LOGICAL
  let out := withScore (objTile t) (emit (.core t { state := .fenced }))
  if (tileOf s t).core.state = .fenced then pure ()
  else
    match posOf s t with
    | none => do
      tileCount (sp - 1) lo
      out
    | some i => do
      let new ← pickSpare
      (match new with
       | some n => do
         putF (F.GLOBAL_TILE_MAP_PTILE i) n
         tileCount (sp - 1) lo
       | none => do
         putF (F.GLOBAL_TILE_MAP_PTILE i) 255
         tileCount sp (lo - 1))
      out

/-- SELFTEST_DONE (R430, R432): the fused repair and the failed tiles; the host links may train. -/
def execSelftestDone (failed : List TileNo) (s : State) : Host.Outcome State Fault Refusal :=
  act (do
    let s ← cur
    whenB (clocked s && bootStage s == stageSelftest) do
      (s.sys.boot.fused ++ failed.map fun (t : TileNo) => t.val).forM bootFence
      modBoot fun y => { y with linksTrain := true }
      putF F.MGMT_BOOT_STAT_STAGE stageHbm) s

/-- HBM_TRAINED (R430, R432). -/
def execHbmTrained (ok : Bool) (s : State) : Host.Outcome State Fault Refusal :=
  act (do
    let s ← cur
    whenB (clocked s && bootStage s == stageHbm)
      (if ok then putF F.MGMT_BOOT_STAT_STAGE stageProfile
       else do
        putF F.MGMT_BOOT_STAT_CODE bcHbm
        putF F.MGMT_BOOT_STAT_STAGE stageBootFail)) s

/-- VERSION_FUSE_RAISE (R433): only for the administrator, and only to the version that runs. -/
def execVersionFuseRaise (byAdministrator : Bool) (s : State) : Host.Outcome State Fault Refusal :=
  act (do
    let s ← cur
    whenB (live s && byAdministrator && decide (stageSelftest ≤ bootStage s))
      (modBoot fun y => { y with fuseVersion := max y.fuseVersion y.version })) s

end Sys2Proof.Machine
end

