-- ==== Sys2Proof/Machine/HostIf.lean ====
section
/-! DEFINITION. The host interface: host queues (12 R356-R364), CXL.cache (R367-R369), signal lines and link state. -/
namespace Sys2Proof.Machine

/-! Queues. -/

/-- Entries of a ring (R372). -/
def sqSize (s : State) (q : Nat) : Nat := 16 * 2 ^ getF s (F.HOST_Q_SQ_SIZE q)
def cqSize (s : State) (q : Nat) : Nat := 16 * 2 ^ getF s (F.HOST_Q_CQ_SIZE q)

/-- MODE: 0 RING, 1 PUSH, 2 ANALYSIS. -/
def hqMode (s : State) (q : Nat) : Nat := getF s (F.HOST_Q_CFG_MODE q)

/-- Whether a queue takes descriptors in a mode. -/
def hqTakes (s : State) (q mode : Nat) : Bool :=
  flag s (F.HOST_Q_CFG_EN q) && hqMode s q == mode && !flag s (F.HOST_Q_STAT_STOP q) && !(hqSt s q).clearing

/-- Errors that stop a queue (R372). -/
def heBadDb : Nat := 1
def heOverrun : Nat := 2
def heHostErr : Nat := 3
def heLinkDown : Nat := 4

/-- A queue stops with an error. -/
def hqStop (q err : Nat) : M Unit := do
  putF (F.HOST_Q_STAT_STOP q) 1
  putF (F.HOST_Q_STAT_ERR q) err

/-- What reaches the device from the host while its clocks run. -/
def fromHost (m : M Unit) : M Unit := do
  let s ← cur
  whenB (live s) m

/-- The host queue of a local index on a page: served on the VI's link only (R351, R354). -/
def pageQueue (s : State) (d v lq : Nat) : Option HqNo :=
  if getF s (F.HOST_VI_CFG_LINK v) = d ∧ lq < getF s (F.HOST_VI_CFG_QCOUNT v) then
    some (Fin.ofNat 512 (getF s (F.HOST_VI_CFG_QBASE v) + lq))
  else none

/-- The device reads the next submission entry, while the VI's allotment has room (R357, R360). -/
def sqFetch (q : HqNo) : M Unit := do
  let s ← cur
  let h := getF s (F.HOST_Q_STAT_SQHEAD q)
  match hqOwner s q with
  | some v =>
    whenB (hqTakes s q 0 && h != (hqSt s q).sqtail && decide (viOut s v < allotDesc s v) && flag s (F.HOST_LINK_LINKUP (hqLink q)))
      (send (.hostRead (hqLink q) (getF s (F.HOST_Q_SQ_BASE q) * 4096 + 64 * h) 64))
  | none => pure ()

/-- A write of SQTAIL (R357). -/
def sqTail (q : HqNo) (tail : Nat) : M Unit := do
  let s ← cur
  modHq q fun h => { h with sqtail := tail }
  whenB (hqTakes s q 0) (if sqSize s q ≤ tail then hqStop q heBadDb else sqFetch q)

/-- SQTAIL (R354, R357). -/
def execSqtail (d : LinkNo) (v : ViNo) (lq : Fin 64) (tail : W32) (s : State) : Host.Outcome State Fault Refusal :=
  act (do
    let s ← cur
    match pageQueue s d v lq with
    | some q => whenB (enginesRun s) (sqTail q tail.toNat)
    | none => pure ()) s

/-- SQ_ENTRY_FETCHED (R357, R359, R360). -/
def execSqEntryFetched (q : HqNo) (entry : Option (List W64)) (s : State) : Host.Outcome State Fault Refusal :=
  act (do
    let s ← cur
    let h := getF s (F.HOST_Q_STAT_SQHEAD q)
    match hqOwner s q with
    | none => pure ()
    | some v =>
      whenB (enginesRun s && hqTakes s q 0 && h != (hqSt s q).sqtail && decide (viOut s v < allotDesc s v))
        (match entry with
        | none => hqStop q heHostErr
        | some l => do
          putF (F.HOST_Q_STAT_SQHEAD q) ((h + 1) % sqSize s q)
          hostAccept q v l
          sqFetch q)) s

/-- A write to the push window (R358). -/
def pushWrite (q : HqNo) (off : Nat) (l : List Byte) : M Unit := do
  let s ← cur
  whenB (hqTakes s q 1) do
    modHq q fun h => { h with push := overlay (if h.push.isEmpty then List.replicate 64 0 else h.push) off l }
    whenB (decide (off ≤ 63 ∧ 63 < off + l.length)) do
      let s ← cur
      if 64 ≤ hqOut s q then hqStop q heOverrun
      else do
        let w := (chunks 8 (hqSt s q).push).map fun b => BitVec.ofNat 64 (ofBytes b)
        modHq q fun h => { h with pushed := h.pushed ++ [w] }
        pushTake (.host q)

/-- PUSH_WRITE (R354, R358). -/
def execPushWrite (d : LinkNo) (v : ViNo) (lq : Fin 64) (off : Nat) (bytes : List Byte) (s : State) :
    Host.Outcome State Fault Refusal :=
  act (do
    let s ← cur
    match pageQueue s d v lq with
    | some q => whenB (enginesRun s && decide (off + bytes.length ≤ 64)) (pushWrite q off bytes)
    | none => pure ()) s

/-- A write of CQHEAD: a new value arms the queue's message again (R361, R362). -/
def cqHead (q : HqNo) (head : Nat) : M Unit :=
  modHq q fun h => { h with cqhead := head, armed := h.armed || h.cqhead != head }

/-- CQHEAD (R354, R362). -/
def execCqhead (d : LinkNo) (v : ViNo) (lq : Fin 64) (head : W32) (s : State) : Host.Outcome State Fault Refusal :=
  act (do
    let s ← cur
    match pageQueue s d v lq with
    | some q => whenB (live s) (cqHead q head.toNat)
    | none => pure ()) s

/-- EN is cleared once OUT = 0 (R357). -/
def hqSettle (q : HqNo) : M Unit := do
  let s ← cur
  whenB ((hqSt s q).clearing && hqOut s q == 0) do
    putF (F.HOST_Q_CFG_EN q) 0
    putF (F.HOST_Q_STAT_SQHEAD q) 0
    putF (F.HOST_Q_STAT_CQTAIL q) 0
    putF (F.HOST_Q_STAT_ERR q) 0
    putF (F.HOST_Q_STAT_STOP q) 0
    modHq q fun h => { sqtail := h.sqtail, cqhead := h.cqhead }

/-- A CQ entry (R361). -/
def cqBytes (e : CqE) (head : Nat) (phase : Bool) : List Byte :=
  bytesOf 4 e.seq ++ bytesOf 3 head ++ bytesOf 1 (b2n phase) ++
  bytesOf 1 (e.status % 16 + 16 * b2n (decide (e.refusal ≠ 0))) ++ [0] ++ bytesOf 2 e.refusal ++ bytesOf 4 0

/-- The queue's message (R362). -/
def cqNotify (q : HqNo) (v : Nat) : M Unit := do
  let s ← cur
  whenB (flag s (F.HOST_Q_CFG_IEN q) && (hqSt s q).armed) do
    modHq q fun h => { h with armed := false }
    sendVi v (getF s (F.HOST_Q_CFG_VEC q))

/-- A completed descriptor's entry is written (R361, R362), through the line cache with CC = 1 (R367): the message then
waits for the line. -/
def cqPut (q : HqNo) (v : Nat) (e : CqE) : M Unit := do
  let s ← cur
  let t := getF s (F.HOST_Q_STAT_CQTAIL q)
  let n := cqSize s q
  let a := getF s (F.HOST_Q_CQ_BASE q) * 4096 + 16 * t
  let h := hqSt s q
  let l := cqBytes e (if hqMode s q = 0 then getF s (F.HOST_Q_STAT_SQHEAD q) else 0) h.phase
  putF (F.HOST_Q_STAT_CQTAIL q) ((t + 1) % n)
  modHq q fun h => { h with done := h.done.drop 1, phase := if t + 1 = n then !h.phase else h.phase }
  if flag s (F.HOST_Q_CFG_CC q) ∧ cacheOn s (hqLink q) = true then do
    lineWrite v (a / 64 * 64) (a % 64) l
    let s ← cur
    if (lineAt s (a / 64 * 64)).any fun x => x.st == .m then cqNotify q v
    else modHq q fun h => { h with msiOwed := true }
  else do
    send (.hostWrite (hqLink q) a l)
    cqNotify q v

/-- CQ_ENTRY_WRITE (R361, R362, R364). -/
def execCqEntryWrite (q : HqNo) (s : State) : Host.Outcome State Fault Refusal :=
  act (do
    let s ← cur
    match hqOwner s q, (hqSt s q).done with
    | some v, e :: _ =>
      whenB (live s && flag s (F.HOST_Q_CFG_EN q)) do
        (if getF s (F.HOST_Q_STAT_ERR q) = heLinkDown then modHq q fun h => { h with done := [] }
         else whenB ((getF s (F.HOST_Q_STAT_CQTAIL q) + 1) % cqSize s q != (hqSt s q).cqhead % cqSize s q &&
          flag s (F.HOST_LINK_LINKUP (hqLink q))) (cqPut q v e))
        whenB (enginesRun s) do
          pushTake (.host q)
          sqFetch q
        hqSettle q
    | _, _ => pure ()) s

/-- EN is set: acceptance order, the phase and the message start afresh (R361). -/
def hqEnable (q : HqNo) : M Unit := do
  let s ← cur
  whenB (!flag s (F.HOST_Q_CFG_EN q)) do
    putF (F.HOST_Q_CFG_EN q) 1
    modHq q fun h => { sqtail := h.sqtail, cqhead := h.cqhead }

/-- EN is cleared (R357). -/
def hqDisable (q : HqNo) : M Unit := do
  let s ← cur
  whenB (flag s (F.HOST_Q_CFG_EN q)) do
    modHq q fun h => { h with clearing := true }
    hqSettle q

/-- HOST_QUEUE_ENABLE (R356). -/
def execHostQueueEnable (q : HqNo) (s : State) : Host.Outcome State Fault Refusal := act (fromHost (hqEnable q)) s

/-- HOST_QUEUE_DISABLE (R357). -/
def execHostQueueDisable (q : HqNo) (s : State) : Host.Outcome State Fault Refusal := act (hqDisable q) s

/-! Link state (R350, R364). -/

/-- VIs bound to a link. -/
def linkVis (s : State) (d : Nat) : List Nat := (upto 16).filter fun v => getF s (F.HOST_VI_CFG_LINK v) == d

/-- A queue of a link that has gone down. -/
def hqLinkDown (q : Nat) : M Unit := do
  let s ← cur
  whenB (flag s (F.HOST_Q_CFG_EN q)) do
    hqStop q heLinkDown
    (s.sys.dma.descs.filter fun d => qKey d.q == 1024 + q && (dSrcHm d.words || dDstHm d.words)).forM fun d => descEnd d 4
    modHq q fun h => { h with done := [], pushed := [], msiOwed := false }

/-- HOST_LINK_DOWN (R364). -/
def execHostLinkDown (d : LinkNo) (s : State) : Host.Outcome State Fault Refusal :=
  act (do
    let s ← cur
    whenB (flag s (F.HOST_LINK_LINKUP d)) do
      putF (F.HOST_LINK_LINKUP d) 0
      putF (F.HOST_LINK_CXL d) 0
      putF (F.HOST_LINK_CACHEEN d) 0
      putF (F.HOST_LINK_MEMEN d) 0
      let vis := linkVis s d
      modHost fun y =>
        { y with lines := y.lines.filter fun p => !vis.contains p.2.vi
                 evicts := y.evicts.filter fun e => !vis.contains e.vi
                 lineWait := y.lineWait.filter fun w => !vis.contains w.1 }
      (vis.flatMap fun v => viHqs s v).forM hqLinkDown) s

/-- HOST_LINK_UP (R350): a link trains once the boot lets it (15 R430). -/
def execHostLinkUp (d : LinkNo) (cxl : Bool) (s : State) : Host.Outcome State Fault Refusal :=
  act (do
    let s ← cur
    whenB (live s && s.sys.boot.linksTrain) do
      putF (F.HOST_LINK_LINKUP d) 1
      putF (F.HOST_LINK_CXL d) (b2n (cxl && flag s (F.HOST_LINK_MODE d)))) s

/-! CXL.cache (R368, R369). -/

/-- The answer to a snoop. -/
def snpAnswer (name : String) (a : Nat) (data : List Byte) : M Unit := send (.cxl name a data)

/-- A snoop of a line, by the device's state of it: `fwd` and `hit` name the answers, `keep` what becomes of a held line,
`lost` whether a buffered one is marked. -/
def snoop (a : Nat) (fwd hit : String) (keep : LineSt → Option LineSt) (lost : Bool) : M Unit := do
  let s ← cur
  match evictAt s a, lineAt s a with
  | some e, _ =>
    if e.dirty && !e.pulled then do
      snpAnswer fwd a e.data
      whenB lost (modHost fun y =>
        { y with evicts := y.evicts.map fun x => if x.addr = a then { x with lost := true } else x })
    else snpAnswer "RspIHitI" a []
  | none, none => snpAnswer "RspIHitI" a []
  | none, some x =>
    if x.st = .rdOwn then snpAnswer "RspIHitI" a []
    else do
      snpAnswer (if x.st = .m then fwd else hit) a (if x.st = .m then x.data else [])
      match keep x.st with
      | some st => setLine a { x with st }
      | none => do
        dropLine a
        let s ← cur
        modHost fun y => { y with lineWait := [] }
        lineDrain s.sys.host.lineWait

/-- The line that holds an address. -/
def lineOf (addr : Nat) : Nat := addr / 64 * 64

/-- SNPDATA (R369). -/
def execSnpdata (addr : Nat) (s : State) : Host.Outcome State Fault Refusal :=
  act (fromHost (snoop (lineOf addr) "RspSFwdM" "RspSHitSE" (fun _ => some .s) false)) s

/-- SNPINV (R369). -/
def execSnpinv (addr : Nat) (s : State) : Host.Outcome State Fault Refusal :=
  act (fromHost (snoop (lineOf addr) "RspIFwdM" "RspIHitSE" (fun _ => none) true)) s

/-- SNPCUR (R369). -/
def execSnpcur (addr : Nat) (s : State) : Host.Outcome State Fault Refusal :=
  act (fromHost (snoop (lineOf addr) "RspVFwdV" "RspVHitV" some false)) s

/-- Messages of the queues whose CQ holds a line that has been written. -/
def msiOwed (a : Nat) : M Unit := do
  let s ← cur
  ((upto 512).filter fun q =>
    (hqSt s q).msiOwed && decide (getF s (F.HOST_Q_CQ_BASE q) * 4096 ≤ a ∧
      a < getF s (F.HOST_Q_CQ_BASE q) * 4096 + 16 * cqSize s q)).forM fun q => do
    modHq q fun h => { h with msiOwed := false }
    match hqOwner s q with
    | some v => cqNotify (Fin.ofNat 512 q) v
    | none => pure ()

/-- CXL_GO (R369): an eviction is over, and what waited for it is written anew; or the line is owned and updated. -/
def execCxlGo (addr : Nat) (data : Option (List Byte)) (s : State) : Host.Outcome State Fault Refusal :=
  act (fromHost do
    let s ← cur
    let a := lineOf addr
    match evictAt s a, lineAt s a with
    | some e, _ => do
      modHost fun y => { y with evicts := y.evicts.filter fun x => x.addr != a, lineWait := [] }
      e.waiting.forM fun u => lineWrite e.vi a u.1 u.2
      lineDrain s.sys.host.lineWait
    | none, some x =>
      whenB (x.st == .rdOwn) do
        let base := match data with
          | some l => (l ++ x.data).take 64
          | none => x.data
        setLine a { x with st := if x.update.isEmpty then .e else .m, data := overlays base x.update, update := [], at_ := nowNs s }
        msiOwed a
    | none, none => pure ()) s

/-- CXL_WRITE_PULL (R369): the buffered data, with Bogus = 1 when LOST. -/
def execCxlWritePull (addr : Nat) (s : State) : Host.Outcome State Fault Refusal :=
  act (fromHost do
    let s ← cur
    let a := lineOf addr
    match evictAt s a with
    | some e =>
      whenB (e.dirty && !e.pulled) do
        modHost fun y => { y with evicts := y.evicts.map fun x => if x.addr = a then { x with pulled := true } else x }
        snpAnswer (if e.lost then "Data Bogus=1" else "Data Bogus=0") a e.data
    | none => pure ()) s

/-- LINE_HOLD_EXPIRY (R368). -/
def execLineHoldExpiry (addr : Nat) (s : State) : Host.Outcome State Fault Refusal :=
  act (fromHost do
    let s ← cur
    match lineAt s (lineOf addr) with
    | some x =>
      whenB (x.st != .rdOwn) do
        let _ ← evictLine (lineOf addr) x
        let s ← cur
        modHost fun y => { y with lineWait := [] }
        lineDrain s.sys.host.lineWait
    | none => pure ()) s

/-- SIGNAL_LINE_POST (R367): a changed line, at most once in 100 ns. -/
def execSignalLinePost (n : Fin 256) (s : State) : Host.Outcome State Fault Refusal :=
  act (do
    let s ← cur
    let t := smGet 0 s.sys.host.slAt n
    whenB (live s && flag s (F.HOST_SL_BIND_EN n) && s.sys.host.slDirty.contains n.val && decide (t = 0 ∨ t + 100 ≤ nowNs s + 1))
      (slPost n)) s

end Sys2Proof.Machine
end

