-- ==== Sys2Proof/Machine/Profile.lean ====
section
/-! DEFINITION. Profiles (15 R436-R439): the image, the shadow register set, its checks and its commitment. -/
namespace Sys2Proof.Machine

/-! Codes (R439). -/

def pcOk : Nat := 0
def pcBadImage : Nat := 1
def pcBadEntry : Nat := 2
def pcAllot : Nat := 3
def pcRange : Nat := 4
def pcMinima : Nat := 5
def pcReserved : Nat := 6
def pcBusy : Nat := 7
def pcSlot : Nat := 8

/-! The shadow. -/

/-- Bits of a register whose fields have one of the access types. -/
def accMask (fs : List (Nat × Nat × AccType)) (p : AccType → Bool) : Nat :=
  fs.foldl (fun m f => if p f.2.2 then setBits m f.1 f.2.1 (2 ^ (f.1 + 1 - f.2.1) - 1) else m) 0

/-- Types that a profile sets (R437). -/
def profSets (a : AccType) : Bool := a == .rwp || a == .rwx || a == .rw
/-- Types that a load returns to reset first. -/
def profResets (a : AccType) : Bool := a == .rwp || a == .rwx

/-- The register that the model keeps at a place. -/
def storedAt (off : Nat) : Option RegDesc :=
  regMap.find? fun d => (regAt { d with base := d.base + d.shift } off).isSome

/-- Step 1: every RWP and RWX field holds its reset value. -/
def shadowBase (s : State) : State :=
  { s with regs := s.regs.filterMap fun p =>
      let m := match storedAt p.1 with
        | some d => accMask d.fields profResets
        | none => 0
      let x := p.2 &&& ~~~(BitVec.ofNat 64 m)
      if x = 0 then none else some (p.1, x) }

/-- An entry of an image. -/
structure ProfEntry where
  off : Nat
  width : Nat
  mask : Nat
  value : Nat

/-- The registers that an entry names: at its offset and of its width. -/
def entryRegs (e : ProfEntry) : List (RegDesc × List Nat) :=
  ((findRegs e.off).filter fun p => p.2.2 == 0 && p.1.width == 8 * e.width).map fun p => (p.1, p.2.1)

/-- Bits that a profile may set in any of the registers. -/
def entryMask (l : List (RegDesc × List Nat)) : Nat :=
  l.foldl (fun m p => Nat.lor m (accMask p.1.fields profSets)) 0

/-- Whether an entry is accepted: BADENTRY otherwise (R439). -/
def entryOk (e : ProfEntry) : Bool :=
  (e.width == 4 || e.width == 8) && e.off % e.width == 0 && !(entryRegs e).isEmpty &&
  Nat.land e.mask (entryMask (entryRegs e)) == e.mask

/-- register := (register AND NOT MASK) OR (VALUE AND MASK). -/
def maskIn (old mask value : Nat) : Nat := Nat.lor (Nat.xor old (Nat.land old mask)) (Nat.land value mask)

/-- A register of a shadow is set. -/
def shadowPut (c : State) (r : RegRef) (v : Nat) : State :=
  { c with regs := smSet 0 c.regs r.off (BitVec.ofNat 64 v ^^^ r.rst) }

/-- Step 2 for one entry: each register at the offset takes the bits that it may take. -/
def entryApply (c : State) (e : ProfEntry) : State :=
  (entryRegs e).foldl (fun c p =>
    let r := regRef p.1 p.2
    shadowPut c r (maskIn (getR c r) (Nat.land e.mask (accMask p.1.fields profSets)) e.value)) c

/-! The image (R436). -/

/-- Length that an image states. -/
def profLen (l : List Byte) : Nat := imgWord l 8 4

/-- Whether header, length and CRC are right. -/
def profHeadOk (l : List Byte) : Bool :=
  imgWord l 0 4 == 0x50464C31 && imgWord l 4 2 == 1 && decide (64 ≤ profLen l) && (profLen l - 64) % 24 == 0 &&
  decide (profLen l ≤ 1048576) && decide (profLen l ≤ l.length) &&
  imgWord l 12 4 == crc32c (l.take 12 ++ [0, 0, 0, 0] ++ imgPart l 16 (profLen l - 16))

/-- The entries of an image. -/
def profEntries (l : List Byte) : List ProfEntry :=
  (upto ((profLen l - 64) / 24)).map fun i =>
    let o := 64 + 24 * i
    { off := imgWord l o 4, width := imgWord l (o + 4) 1, mask := imgWord l (o + 8) 8, value := imgWord l (o + 16) 8 }

/-! Checks of allotments. -/

/-- Every VI. -/
def allVis : List Nat := upto 16

/-- Whether a VI is given tiles or HBM. -/
def viGiven (s : State) (v : Nat) : Bool :=
  getF s (F.MGMT_VI_CFG_HBM v) != 0 || (upto 3).any fun j => getR s (R.MGMT_VI_TILES v j) != 0

/-- Tile masks: no position twice, none empty, none above 143. -/
def tilesOk (s : State) (vs : List Nat) : Bool :=
  (vs.all fun v => getR s (R.MGMT_VI_TILES v 2) < 65536) &&
  (upto 144).all fun i =>
    let n := cnt (fun v => posAllotted s v i) vs
    n == 0 || (n == 1 && (tileAt s i).isSome)

/-- Vector ranges of two VIs overlap (12 R366). -/
def vecOverlap (s : State) (a b : Nat) : Bool :=
  let lo := fun v => getF s (F.HOST_VI_CFG_VBASE v)
  let n := fun v => getF s (F.HOST_VI_CFG_VCOUNT v)
  a != b && decide (0 < n a ∧ 0 < n b ∧ lo a < lo b + n b ∧ lo b < lo a + n a)

/-- Allotments within the totals of the device (01 R18), each range inside its array. -/
def totalsOk (s : State) (vs : List Nat) : Bool :=
  let fits := fun (base count : Nat → FieldRef) (n : Nat) =>
    decide (sumOf (fun v => getF s (count v)) vs ≤ n) &&
      vs.all fun v => decide (getF s (count v) = 0 ∨ getF s (base v) + getF s (count v) ≤ n)
  decide (sumOf (fun v => getF s (F.MGMT_VI_CFG_HBM v) * 512) vs ≤ 8 * stackFrames) &&
  decide (sumOf (allotDesc s) vs ≤ 65536) &&
  fits F.SIG_VI_CFG_BASE F.SIG_VI_CFG_COUNT 32768 && fits F.COL_VI_CFG_BASE F.COL_VI_CFG_COUNT 1024 &&
  fits F.HOST_VI_CFG_QBASE F.HOST_VI_CFG_QCOUNT 512 && fits F.HOST_VI_CFG_VBASE F.HOST_VI_CFG_VCOUNT 2048

/-- ALLOT (R439). -/
def allotOk (s : State) (vs : List Nat) : Bool :=
  tilesOk s vs && totalsOk s vs && !vs.any fun a => vs.any fun b => vecOverlap s a b

/-- Whether the fault queue of a VI lies inside its allotment (05 R151). -/
def fqFits (s : State) (v : Nat) : Bool :=
  decide (getF s (F.MMU_VI_FQ_BASE_BASE v) * 4096 + fqSize s v * 32 ≤ allotHbm s v)

/-- RANGE for the fields of a VI (06 R195, 07 R236, 12 R372, 15 R454, R455). -/
def viRangeOk (s : State) (v : Nat) : Bool :=
  decide (getF s (F.SIG_VI_CFG_COUNT v) ≤ 0x8000) && decide (getF s (F.COL_VI_CFG_COUNT v) ≤ 1024) &&
  decide (getF s (F.HOST_VI_CFG_QCOUNT v) ≤ 64) && decide (getF s (F.HOST_VI_CFG_VCOUNT v) ≤ 2048) &&
  decide (allotDesc s v ≤ 65536) &&
  decide (900 ≤ getF s (F.CLKPWR_TCLK_MAX v) ∧ getF s (F.CLKPWR_TCLK_MAX v) ≤ 1900)

/-- RANGE for the fields of the device (06 R194, 11 R349, 12 R370, 13 R379, 15 R454, R455, 16 R457, R462). -/
def devRangeOk (s : State) : Bool :=
  let vf := fun k => getF s (F.CLKPWR_VF_MV k)
  (upto 1024).all (fun q => decide (4 ≤ getF s (F.DMA_Q_CFG_DEPTH q) ∧ getF s (F.DMA_Q_CFG_DEPTH q) ≤ 12)) &&
  (upto 8).all (fun e => decide (1 ≤ getF s (F.EDGE_METRO_CFG_RTTDECL e) ∧ getF s (F.EDGE_METRO_CFG_RTTDECL e) ≤ 2000)) &&
  decide (sumOf (fun i => getF s (F.HOST_CXLMEM_SIZE i)) (upto 8) ≤ 512) &&
  (upto 2).all (fun d => decide (0xC000 ≤ getF s (F.TALUS_CFG_COUNT d))) &&
  (upto 8).all (fun k => !flag s (F.MGMT_MAINT_WIN_EN k) ||
    decide (1 ≤ getF s (F.MGMT_MAINT_WIN_LEN k) ∧ getF s (F.MGMT_MAINT_WIN_LEN k) ≤ 1440 ∧
      getF s (F.MGMT_MAINT_WIN_START k) ≤ 1439)) &&
  decide (800 ≤ getF s F.CLKPWR_PCAP_CAP) &&
  decide (getF s F.CLKPWR_THERM_WARN < getF s F.CLKPWR_THERM_THROT ∧
    getF s F.CLKPWR_THERM_THROT < getF s F.CLKPWR_THERM_CRIT ∧ getF s F.CLKPWR_THERM_CRIT < 125) &&
  decide (1 ≤ getF s F.CLKPWR_REF_PPSW ∧ getF s F.CLKPWR_REF_PPSW ≤ 200) &&
  (upto 11).all (fun k => decide (600 ≤ vf k ∧ vf k ≤ 850)) && (upto 10).all (fun k => decide (vf k ≤ vf (k + 1)))

/-- RANGE (R439). -/
def rangeOk (s : State) (vs : List Nat) : Bool :=
  devRangeOk s && vs.all fun v => viRangeOk s v && (!viGiven s v || fqFits s v)

/-- Whether a VI has a group context, or a DMA queue. -/
def viCtx (s : State) (v : Nat) : Bool := getF s (F.COL_VI_CFG_COUNT v) != 0
def viDma (s : State) (v : Nat) : Bool :=
  (upto 1024).any fun q => flag s (F.DMA_Q_CFG_EN q) && getF s (F.DMA_Q_CFG_VI q) == v

/-- Minima of a VI in Divide (09 R270) and in Mere (09 R289). -/
def viMinimaOk (s : State) (v : Nat) : Bool :=
  let div := fun c n => decide (n ≤ getF s (F.DIVIDE_OWN_CFG_MIN v c))
  let mere := fun c n => decide (n ≤ getF s (F.MERE_OWN_MIN_MIN (8 * v + c) 4))
  (!(viCtx s v || viDma s v) || [2, 3, 4, 5, 6].all fun c => div c 64) &&
  (!viCtx s v || (mere 1 64 && mere 2 24 && mere 3 16 && mere 4 16)) &&
  (!viDma s v || (mere 5 16 && mere 6 16))

/-- Credits of a class that the ports of a die advertise (11 R333). -/
def dieCredits (s : State) (c d : Nat) : Nat := sumOf (fun i => getF s (F.PORT_LINK_CRED_ADV (32 * d + i) c)) (upto 32)

/-- Minima of the shared owners (09 R270, R289, 11 R333). -/
def devMinimaOk (s : State) : Bool :=
  let div := fun o c => getF s (F.DIVIDE_OWN_CFG_MIN o c)
  (upto 2).all (fun d =>
    [1, 2, 3, 4, 5, 6].all (fun c => decide (dieCredits s c d ≤ div 16 c)) &&
    decide (dieCredits s 0 d ≤ div 17 0) && decide (dieCredits s 7 d ≤ div 17 7)) &&
  decide (4096 ≤ div 17 0) && decide (4096 ≤ div 17 1) && decide (1024 ≤ div 17 7) &&
  (upto 8).all (fun e => edgeMode s e != 1 ||
    decide (cdiv (100000 * getF s (F.EDGE_METRO_CFG_RTTDECL e)) 65536 ≤ getF s (F.MERE_OWN_MIN_MIN (128 + e) 4))) &&
  decide (64 ≤ getF s (F.MERE_OWN_MIN_MIN 136 2))

/-- Sums of the minima, and no maximum below them (09 R270, R289). -/
def sumMinimaOk (s : State) : Bool :=
  let mn := fun o p => getF s (F.MERE_OWN_MIN_MIN o p)
  (upto 19).all (fun o => (upto 8).all fun c =>
    decide (getF s (F.DIVIDE_OWN_CFG_MIN o c) ≤ getF s (F.DIVIDE_OWN_CFG_MAX o c))) &&
  decide (sumOf (fun o => sumOf (fun c => getF s (F.DIVIDE_OWN_CFG_MIN o c)) (upto 8)) (upto 19) ≤ 393216) &&
  (upto 137).all (fun o =>
    decide (sumOf (fun p => mn o p * poolSize p) (upto 5) ≤ getF s (F.MERE_OWN_MAX_MAX o) * 65536)) &&
  (upto 5).all (fun p => decide (sumOf (fun o => mn o p) (upto 137) ≤
    getF s (F.MERE_POOL_CFG_COUNT p 0) + getF s (F.MERE_POOL_CFG_COUNT p 1)))

/-- MINIMA (R439). -/
def minimaOk (s : State) (vs : List Nat) : Bool := devMinimaOk s && sumMinimaOk s && vs.all fun v => viMinimaOk s v

/-- Reserved frames that registers place (05 R136): base and length in bytes. -/
def reserved (s : State) : List (Nat × Nat) :=
  [(getF s F.FAULT_EQ_BASE_BASE * 4096, 2048 * 2 ^ getF s F.FAULT_EQ_BASE_SIZE),
   (getF s F.DIVIDE_MIR_RBASE_BASE * 4096, 65536 * 2 ^ getF s F.DIVIDE_MIR_RBASE_SIZE),
   (getF s F.TELEM_SNAP_RBASE_BASE * 4096, 65536 * 2 ^ getF s F.TELEM_SNAP_RBASE_SIZE)] ++
  (upto 2).map (fun d => (getF s (F.TALUS_CFG_BASE d) * 4096, getF s (F.TALUS_CFG_COUNT d) * 128)) ++
  (upto 5).flatMap (fun p => (upto 2).map fun d =>
    (getF s (F.MERE_POOL_CFG_BASE p d) * 4096, getF s (F.MERE_POOL_CFG_COUNT p d) * poolSize p)) ++
  (upto 8).map (fun i => (i * 2 ^ 36 + getF s (F.HOST_CXLMEM_BASE i) * 2 ^ 28, getF s (F.HOST_CXLMEM_SIZE i) * 2 ^ 28))

/-- No two of the regions overlap. -/
def disjointB : List (Nat × Nat) → Bool
  | [] => true
  | x :: l => (l.all fun y => decide (x.2 = 0 ∨ y.2 = 0 ∨ x.1 + x.2 ≤ y.1 ∨ y.1 + y.2 ≤ x.1)) && disjointB l

/-- Whether the frames that are not reserved hold the allotments of the VIs. -/
def roomOk (s : State) (vs : List Nat) : Bool :=
  decide (sumOf (allotHbm s) vs + sumOf (fun x => x.2) (reserved s) ≤ 8 * stackFrames * 4096)

/-- RESERVED (R439). -/
def reservedOk (s : State) (vs : List Nat) : Bool := disjointB (reserved s) && roomOk s vs

/-- The codes of the checks that a shadow fails. -/
def shadowCodes (c : State) : List Nat :=
  (if allotOk c allVis then [] else [pcAllot]) ++ (if rangeOk c allVis then [] else [pcRange]) ++
  (if minimaOk c allVis then [] else [pcMinima]) ++ (if reservedOk c allVis then [] else [pcReserved])

/-- One of the codes of a refusal: which is open where several checks fail. -/
def pickCode (l : List Nat) : M Nat := do
  match l with
  | [x] => return x
  | _ => do
    let c ← takeFree
    return l[c.toNat % l.length]?.getD 0

/-! A load (R437, R438). -/

/-- MGMT_PROF_STAT after a refusal. -/
def profRefuse (code entry : Nat) : M Unit := do
  putF F.MGMT_PROF_STAT_CODE code
  putF F.MGMT_PROF_STAT_ENTRY entry

/-- Tiles follow the allotments of the VIs that exist: a tile that changes hands is cleared (05 R134, 15 R440). -/
def retile (t : Nat) : M Unit := do
  let s ← cur
  let c := (tileOf s t).core
  let owner := (tileOwner s t).filter fun v => viPresent s v
  if c.state = .fenced then pure ()
  else
    match owner with
    | some v => whenB (c.state == .off || c.vi != v) (tileAllot t v)
    | none => whenB (c.state != .off) do
        emit (.tileClear t)
        emit (.core t {})

/-- Step 4: the shadow is committed, contexts are freed (07 R203), tiles and clocks follow. -/
def profCommit (slot : Nat) (l : List Byte) (c : State) : M Unit := do
  let s ← cur
  (upto 1024).forM freeContext
  let q := s.sys.boot.queued
  modBoot fun y => { y with queued := [], profHash := Config.sha384 (l.take (profLen l)) }
  (s.regs ++ c.regs).forM fun p =>
    whenB ((storedAt p.1).any fun d => accMask d.fields profSets != 0) do
      let x ← cur
      let m := BitVec.ofNat 64 (match storedAt p.1 with
        | some d => accMask d.fields profSets
        | none => 0)
      emit (.reg p.1 ((smGet 0 x.regs p.1 &&& ~~~m) ||| (smGet 0 c.regs p.1 &&& m)))
  q.forM fun m => maintResult m.tag mrCancelled
  putF F.MGMT_PROF_STAT_CODE pcOk
  putF F.MGMT_PROF_STAT_ENTRY 0
  putF F.MGMT_PROF_STAT_VALID 1
  putF F.MGMT_PROF_STAT_ACTIVE slot
  (upto 152).forM retile
  reclockNow

/-- The checks and the commitment of a slot; it answers whether the profile is in force. -/
def profLoad (slot : Nat) : M Bool := do
  let s ← cur
  let l := smGet [] s.sys.boot.flashProfiles slot
  if l = [] then do
    profRefuse pcSlot 0
    return false
  else if profHeadOk l = false then do
    profRefuse pcBadImage 0
    return false
  else do
    let es := profEntries l
    match (indexed 0 es).find? fun p => !entryOk p.2 with
    | some p => do
      profRefuse pcBadEntry p.1
      return false
    | none => do
      let c := es.foldl entryApply (shadowBase s)
      match shadowCodes c with
      | [] => do
        profCommit slot l c
        return true
      | codes => do
        let k ← pickCode codes
        profRefuse k 0
        return false

/-- A LOAD written to MGMT_PROF_CTL (R438, 01 R30). -/
def profCmd (slot : Nat) : M Unit := do
  let s ← cur
  if flag s F.MGMT_PROF_STAT_BUSY || !(bootStage s == stageReady || bootStage s == stageNoProfile) then pure ()
  else if allIdle s = false then profRefuse pcBusy 0
  else do
    let ok ← profLoad slot
    whenB (ok && bootStage s == stageNoProfile) (putF F.MGMT_BOOT_STAT_STAGE stageReady)

/-- PROFILE_LOAD (R437). -/
def execProfileLoad (slot : Fin 4) (s : State) : Host.Outcome State Fault Refusal := act (whenLive (profCmd slot)) s

/-- Ports with AUTOUP start after RESET_N (10 R302, R316, 15 R430). -/
def autoUp : M Unit := do
  let s ← cur
  ((List.finRange 64).filter fun (p : Fin 64) => flag s (F.PORT_CTL_AUTOUP p)).forM fun (p : Fin 64) => upCmd (.hyora p)
  ((List.finRange 8).filter fun (e : Fin 8) => flag s (F.EDGE_CTL_AUTOUP e) && flag s (F.EDGE_STAT_MODREADY e)).forM fun (e : Fin 8) =>
    upCmd (.edge e)

/-- PROFILE_READ_DONE (R430, R437, R438). -/
def execProfileReadDone (s : State) : Host.Outcome State Fault Refusal :=
  act (whenLive do
    let s ← cur
    whenB (bootStage s == stageProfile) do
      let ok ← profLoad s.sys.boot.sel
      putF F.MGMT_BOOT_STAT_STAGE (if ok then stageReady else stageNoProfile)
      whenB ok autoUp) s

end Sys2Proof.Machine
end

