-- ==== Sys2Proof/Machine/Telemetry.lean ====
section
/-! DEFINITION. Global time (14 R410, R411), snapshots (R414-R418), the record ring's reader (R423) and PPS_OUT
(16 R460). -/
namespace Sys2Proof.Machine

/-! Global time. -/

/-- SRC: 0 FREE, 1 PTP, 2 PPS; 0b11 acts as FREE. -/
def timeSrc (s : State) : Nat :=
  let m := getF s F.TELEM_TIME_CTL_SRC
  if m = 3 then 0 else m

/-- The 32-bit saturated value of an offset. -/
def ofsOf (x : Int) : Nat := ofI 32 (max (-(2 ^ 31)) (min (2 ^ 31 - 1) x))

/-- A measured offset disciplines the rate: the new rate is a free value within 200 ppm of the nominal one (R410,
R411). -/
def discipline (x : Int) : M Unit := do
  let c ← takeFree
  modTelem fun y => { y with rate := 419347 + c.toNat % 168 }
  putF F.TELEM_TIME_OFS_OFS (ofsOf x)
  putF F.TELEM_TIME_CTL_LOCKED 1
  putF F.TELEM_TIME_CTL_HOLD 0

/-- A step of the time, only while every VI is idle and never backwards (R411). -/
def stepTime (ns : Nat) : M Unit := do
  let s ← cur
  if allIdle s ∧ nowNs s ≤ ns then do
    modTelem fun y => { y with time := ns * 65536 }
    putF F.TELEM_TIME_CTL_STEPPED 1
  else putF F.TELEM_TIME_CTL_SETERR 1

/-- One second in ns. -/
def oneSec : Nat := 1000000000

/-- How far global time stands from the nearest whole second, in ns. -/
def secOffset (s : State) : Int :=
  let r := nowNs s % oneSec
  if 2 * r < oneSec then (r : Int) else (r : Int) - oneSec

/-- PPS_EDGE (R410). -/
def ppsEdge : M Unit := do
  let s ← cur
  whenB (timeSrc s == 2)
    (match s.sys.telem.ppsSet with
     | some ns => do
       modTelem fun y => { y with ppsSet := none }
       stepTime ns
       putF F.TELEM_TIME_CTL_LOCKED 1
       putF F.TELEM_TIME_CTL_HOLD 0
     | none => discipline (secOffset s))

/-- PPS_EDGE. -/
def execPpsEdge (s : State) : Host.Outcome State Fault Refusal := act (whenLive ppsEdge) s

/-- PTP_MESSAGE (R410). -/
def execPtpMessage (offset : Int) (s : State) : Host.Outcome State Fault Refusal :=
  act (whenLive do
    let s ← cur
    whenB (timeSrc s == 1) (discipline offset)) s

/-- TIME_SOURCE_LOSS (R410). -/
def execTimeSourceLoss (s : State) : Host.Outcome State Fault Refusal :=
  act (whenLive do
    let s ← cur
    whenB (timeSrc s != 0) do
      putF F.TELEM_TIME_CTL_LOCKED 0
      putF F.TELEM_TIME_CTL_HOLD 1
      event 0x10 2 0) s

/-- A write of TELEM_TIME_SET (R411, R428). -/
def timeSet (ns : Nat) : M Unit := do
  let s ← cur
  if !allIdle s || timeSrc s == 1 then putF F.TELEM_TIME_CTL_SETERR 1
  else if timeSrc s = 2 then modTelem fun y => { y with ppsSet := some ns }
  else stepTime ns

/-- TIME_SET. -/
def execTimeSet (ns : W64) (s : State) : Host.Outcome State Fault Refusal := act (whenLive (timeSet ns.toNat)) s

/-- PPS_OUT (16 R460): high for PPSW ms at each whole second. -/
def execPpsOut (s : State) : Host.Outcome State Fault Refusal :=
  act (whenLive do
    let s ← cur
    whenB (flag s F.TELEM_TIME_CTL_PPSOUT) do
      send (.pin "PPS_OUT" true)
      send (.pin "PPS_OUT" false)) s

/-! Triggers (R416). -/

/-- Sources of a snapshot. -/
def srcTrig : Nat := 1
def srcAt : Nat := 2
def srcSnap : Nat := 4
def srcThresh : Nat := 8
def srcCmd : Nat := 32

/-- Enable bit n of TELEM_SNAP_CTL. -/
def snapEn (s : State) (n : Nat) : Bool := bit (getF s F.TELEM_SNAP_CTL_EN) n

/-- SNAP_CMD. -/
def execSnapCmd (s : State) : Host.Outcome State Fault Refusal := act (whenLive (trigger srcCmd 0 0 0)) s

/-- TRIG_IN_RISE. -/
def execTrigInRise (s : State) : Host.Outcome State Fault Refusal :=
  act (whenLive do
    let s ← cur
    whenB (snapEn s 0) (trigger srcTrig 0 0 0)) s

/-- A write of TELEM_SNAP_AT: it replaces the armed value. -/
def snapAt (a : Nat) : M Unit := do
  putF F.TELEM_SNAP_AT_AT a
  let s ← cur
  whenB (snapEn s 1)
    (if a < nowNs s then do
      putF F.TELEM_SNAP_STAT_ARMED 0
      putF F.TELEM_SNAP_STAT_LATE 1
      trigger srcAt 0 0 0
     else putF F.TELEM_SNAP_STAT_ARMED 1)

/-- SNAP_AT_WRITE. -/
def execSnapAtWrite (at_ : W64) (s : State) : Host.Outcome State Fault Refusal := act (whenLive (snapAt at_.toNat)) s

/-- SNAP_AT_REACHED: T_L is AT. -/
def execSnapAtReached (s : State) : Host.Outcome State Fault Refusal :=
  act (whenLive do
    let s ← cur
    whenB (flag s F.TELEM_SNAP_STAT_ARMED) do
      putF F.TELEM_SNAP_STAT_ARMED 0
      let x : Trig := { tl := getF s F.TELEM_SNAP_AT_AT, sources := srcAt, tag := 0, tile := 0, vi := 0 }
      whenB (snapEn s 1) (modTelem fun y => { y with trigs := y.trigs ++ [x] })) s

/-- COUNTER_THRESHOLD (R414): a counter triggers again only after its CFG has been written. -/
def execCounterThreshold (i : Fin 256) (s : State) : Host.Outcome State Fault Refusal :=
  act (whenLive do
    let s ← cur
    whenB (snapEn s 3 && flag s (F.TELEM_CTR_CFG_THREN i) && flag s (F.TELEM_CTR_CFG_EN i) &&
        decide (getF s (F.TELEM_CTR_CFG_THR i) ≤ getF s (F.TELEM_CTR_VALUE i)) &&
        !s.sys.telem.triggered.contains i) do
      modTelem fun y => { y with triggered := y.triggered ++ [i.val] }
      trigger srcThresh 0 0 0) s

/-! Snapshots (R415, R417, R418). -/

/-- STATE of a tile (03 R101). -/
def tileCode : TState → Nat
  | .off => 0 | .idle => 1 | .run => 2 | .stall => 3 | .preempt => 4 | .fault => 5 | .fenced => 6

/-- The clock edge, counted from now, at or after a time. -/
def latchEdge (s : State) (tl : Nat) : Int :=
  -(((s.sys.telem.time : Int) - (tl * 65536 : Nat)) / (max 1 s.sys.telem.rate : Nat))

/-- The trigger with the earliest T_L. -/
def firstTrig (l : List Trig) : Option Trig :=
  l.foldl (fun b x => match b with
    | some y => if x.tl < y.tl then some x else b
    | none => some x) none

/-- The first SNAP to reach the trigger bus; the lowest tile wins a tie. -/
def firstSnap (l : List Trig) : Option Trig :=
  (l.filter fun x => x.sources == srcSnap).foldl (fun b x => match b with
    | some y => if x.tl < y.tl ∨ (x.tl = y.tl ∧ x.tile < y.tile) then some x else b
    | none => some x) none

/-- Sources of the triggers that merge. -/
def trigSources (l : List Trig) : Nat := l.foldl (fun m x => Nat.lor m x.sources) 0

/-- The snapshot record (R418). -/
def snapRecord (s : State) (seq sources tag tl : Nat) : List Byte :=
  bytesOf 4 seq ++ bytesOf 1 sources ++ [0] ++ bytesOf 2 tag ++ bytesOf 8 tl ++ bytesOf 16 0 ++
  (upto 256).flatMap (fun i => bytesOf 8 (getF s (F.TELEM_CTR_VALUE i) + 2 ^ 48 * getF s (F.TELEM_CTR_OVF i))) ++
  (upto 152).flatMap (fun t =>
    let c := (tileOf s t).core
    bytesOf 8 (c.pc.toNat + 2 ^ 48 * tileCode c.state + 2 ^ 52 * (c.phase.toNat % 4096))) ++
  bytesOf 32 0

/-- Counters in DELTA mode start again after a latch (R412). -/
def deltaClear : M Unit := do
  let s ← cur
  ((enabledCtrs s).filter fun i => flag s (F.TELEM_CTR_CFG_MODE i)).forM fun i => putF (F.TELEM_CTR_VALUE i) 0

/-- The VIs whose SNAP has joined a snapshot. -/
def snapVis (l : List Trig) : List Nat := (upto 16).filter fun v => l.any fun x => x.sources == srcSnap && x.vi == v

/-- A snapshot is latched for the triggers that merge. -/
def latch (l : List Trig) (tl : Nat) : M Unit := do
  let s ← cur
  let seq := (getF s F.TELEM_SNAP_STAT_SEQ + 1) % 2 ^ 32
  let src := trigSources l
  let tag := ((firstSnap l).map (·.tag)).getD 0
  modTelem fun y => { y with record := some (snapRecord s seq src tag tl) }
  putF F.TELEM_SNAP_STAT_SEQ seq
  putF F.TELEM_SNAP_STAT_BUSY 1
  deltaClear
  whenB (flag s F.TELEM_SNAP_CTL_TRIGOUT) do
    send (.pin "TRIG_OUT" true)
    send (.pin "TRIG_OUT" false)
  ((snapVis l).filter fun v => flag s (F.TELEM_VI_REC_CTL_SNAPEN v) && recMode s v != 2).forM fun v =>
    recOrGap v recSnap 0 tl (bytesOf 4 seq ++ bytesOf 2 tag ++ bytesOf 1 src ++ [0])

/-- SNAPSHOT_LATCH (R415, R417): triggers whose T_L fall in the same reference cycle merge. -/
def execSnapshotLatch (s : State) : Host.Outcome State Fault Refusal :=
  act (whenLive do
    let s ← cur
    match firstTrig s.sys.telem.trigs with
    | none => pure ()
    | some x => do
      let same := fun (y : Trig) => latchEdge s y.tl == latchEdge s x.tl
      let l := s.sys.telem.trigs.filter same
      modTelem fun y => { y with trigs := y.trigs.filter fun z => !same z }
      if flag s F.TELEM_SNAP_STAT_BUSY then addSat F.TELEM_SNAP_STAT_MISSED l.length else latch l x.tl) s

/-- SNAPSHOT_RECORD_WRITTEN (R417). -/
def execSnapshotRecordWritten (s : State) : Host.Outcome State Fault Refusal :=
  act (whenLive do
    let s ← cur
    match s.sys.telem.record with
    | none => pure ()
    | some l => do
      let n := 1024 * 2 ^ getF s F.TELEM_SNAP_RBASE_SIZE
      let h := getF s F.TELEM_SNAP_RHEAD_HEAD
      (if ringFits n h (getF s F.TELEM_SNAP_RTAIL_TAIL) 52 then do
        (ringUnits n h l).forM fun p => emit (.hbm (getF s F.TELEM_SNAP_RBASE_BASE * 4096 + 64 * p.1) p.2)
        putF F.TELEM_SNAP_RHEAD_HEAD ((h + 52) % n)
       else addSat F.TELEM_SNAP_STAT_DROPPED 1)
      modTelem fun y => { y with record := none }
      putF F.TELEM_SNAP_STAT_BUSY 0) s

/-! The reader of a record ring (R423). -/

/-- A TIME that waited for room is made again; on a tile that does not issue now it waits to be issued. -/
def timeAgain (t : Nat) : M Unit := do
  let s ← cur
  match (tileOf s t).core.stall with
  | .record w => whenB ((tileOf s t).core.state == .stall) do
      modCore t fun c => { c with state := .run, stall := .none }
      let s ← cur
      whenB (canIssue s t) (timeOf t w)
  | _ => pure ()

/-- A write of TELEM_VI_REC_TAIL: the GAP record, then what waited for room. -/
def recTailSet (v tail : Nat) : M Unit := do
  putF (F.TELEM_VI_REC_TAIL_TAIL v) tail
  recFlushGap v
  let s ← cur
  whenB (enginesRun s) do
    ((upto 152).filter fun t => tileVi s t == v).forM timeAgain
    (s.sys.dma.descs.filter fun d => d.vi == v && d.state == .acked).forM localDone
    (s.sys.dma.rxs.filter fun x => x.vi == v && x.acked && !x.done).forM rxDone

/-- REC_TAIL_WRITE (R423). -/
def execRecTailWrite (v : ViNo) (tail : W32) (s : State) : Host.Outcome State Fault Refusal :=
  act (whenLive (recTailSet v tail.toNat)) s

end Sys2Proof.Machine
end

