-- ==== Sys2Proof/Machine/ViAdmin.lean ====
section
/-! DEFINITION. VIs and program loads (15 R440-R443): CREATE, DESTROY, LOAD, UNLOAD and the expert gate. -/
namespace Sys2Proof.Machine

/-- Codes of a load (R439, R442). -/
def lcBadManifest : Nat := 0x10
def lcTiles : Nat := 0x11
def lcPond : Nat := 0x12
def lcHbm : Nat := 0x13
def lcCounters : Nat := 0x14
def lcGroups : Nat := 0x15
def lcQueues : Nat := 0x16
def lcDesc : Nat := 0x17
def lcVectors : Nat := 0x18
def lcMere : Nat := 0x19
def lcCode : Nat := 0x1A
def lcTape : Nat := 0x1B
def lcState : Nat := 0x1C

/-- MGMT_VI_CTL_v.CODE. -/
def viCode (v code : Nat) : M Unit := putF (F.MGMT_VI_CTL_CODE v) code

/-! CREATE and DESTROY (R440). -/

/-- The codes of the checks that the allotments of a new VI fail, beside those of the VIs that exist. -/
def createCodes (s : State) (v : Nat) : List Nat :=
  let vs := (allVis.filter fun x => x != v && viPresent s x) ++ [v]
  (if allotOk s vs then [] else [pcAllot]) ++ (if viRangeOk s v && fqFits s v then [] else [pcRange]) ++
  (if viMinimaOk s v && sumMinimaOk s then [] else [pcMinima]) ++ (if roomOk s vs then [] else [pcReserved])

/-- CREATE. -/
def viCreate (v : Nat) : M Unit := do
  let s ← cur
  if viPresent s v then viCode v pcBusy
  else
    match createCodes s v with
    | [] => do
      viCode v pcOk
      putF (F.MGMT_VI_CTL_PRESENT v) 1
      putF (F.FAULT_VI_CTL_STATE v) 0
      (viTiles s v).forM fun t => tileAllot t v
      reclockNow
    | codes => do
      let k ← pickCode codes
      viCode v k

/-- VI_CREATE. -/
def execViCreate (v : ViNo) (s : State) : Host.Outcome State Fault Refusal := act (whenLive (viCreate v)) s

/-- Registers that hold the allotments of a VI. -/
def allotRegs (s : State) (v : Nat) : List RegRef :=
  [R.MGMT_VI_CFG v, R.SIG_VI_CFG v, R.COL_VI_CFG v, R.HOST_VI_CFG v, R.CLKPWR_TCLK v] ++
  (upto 3).map (fun j => R.MGMT_VI_TILES v j) ++ (viQs s v).map (fun q => R.DMA_Q_CFG q) ++
  (upto 8).map (fun c => R.DIVIDE_OWN_CFG v c) ++ (upto 8).map (fun c => R.MERE_OWN_MAX (8 * v + c)) ++
  (upto 8).flatMap (fun c => (upto 5).map fun p => R.MERE_OWN_MIN (8 * v + c) p)

/-- DESTROY. -/
def viDestroy (v : Nat) : M Unit := do
  let s ← cur
  if !viPresent s v || viLoaded s v || viState s v != 0 then viCode v pcBusy
  else do
    let tiles := tilesHeld s v
    let gs := viGrps s v
    gs.forM freeContext
    retireEngines v tiles
    retireDeep gs
    retireFrames v
    (viHqs s v).forM resetHostQueue
    tiles.forM fun t => do
      emit (.tileClear t)
      emit (.core t {})
    viCode v pcOk
    putF (F.MGMT_VI_CTL_PRESENT v) 0
    (allotRegs s v).forM fun r => emit (.reg r.off 0)
    reclockNow

/-- VI_DESTROY. -/
def execViDestroy (v : ViNo) (s : State) : Host.Outcome State Fault Refusal := act (whenLive (viDestroy v)) s

/-! LOAD (R441, R442). -/

/-- The stage-1 leaf of a VA, when the VA translates to a page of the allotment (05 R143, R144). -/
def s1leaf (s : State) (v va : Nat) : List Nat → Nat → Option Nat
  | [], _ => none
  | level :: rest, table =>
    let a := table + 8 * bits va (47 - 9 * level) (39 - 9 * level)
    if allotHbm s v ≤ a then none
    else
      let e := ofBytes (ipaRead s v a 8)
      if !teV e || teMalformed e level then none
      else if teLeaf e then
        if allotHbm s v ≤ teAddr e + va % leafSize level then none else some e
      else s1leaf s v va rest (teAddr e)

/-- The leaf of a VA in HBM. -/
def leafOf (s : State) (v va : Nat) : Option Nat :=
  if 0xFE0000000000 ≤ va ∨ flag s (F.MMU_VI_S1ROOT_EN v) = false then none
  else s1leaf s v va [0, 1, 2, 3] (getF s (F.MMU_VI_S1ROOT_ROOT v) * 4096)

/-- A code page: X = 1, R = W = 0. -/
def codePage (s : State) (v va : Nat) : Bool := (leafOf s v va).any fun e => teX e && !teR e && !teW e
/-- A tape page: R = W = 1. -/
def tapePage (s : State) (v va : Nat) : Bool := (leafOf s v va).any fun e => teR e && teW e

/-- A manifest, as its bytes. -/
abbrev Manifest := List Byte

def mfTiles (m : Manifest) : Nat := imgWord m 6 2
def mfCode (m : Manifest) : Nat := imgWord m 40 8
def mfCodeLen (m : Manifest) : Nat := imgWord m 48 4
def mfTape (m : Manifest) : Nat := imgWord m 52 4
def mfEntry (m : Manifest) : Nat := imgWord m 56 8
def mfTapeVa (m : Manifest) : Nat := imgWord m 64 8
def mfMere (m : Manifest) (c : Nat) : Nat := imgWord m (72 + 2 * c) 2
def mfExpert (m : Manifest) : Bool := bit (imgWord m 88 4) 0

/-- MAGIC, FORMAT and CRC. -/
def manifestOk (m : Manifest) : Bool :=
  imgWord m 0 4 == 0x4D4E4631 && imgWord m 4 2 == 1 &&
  imgWord m 12 4 == crc32c (m.take 12 ++ [0, 0, 0, 0] ++ m.drop 16)

/-- VA of tape segment j. -/
def segVa (m : Manifest) (j : Nat) : Nat := mfTapeVa m + j * mfTape m * 4096

/-- Whether the code is mapped, and ENTRY lies in it. -/
def codeOk (s : State) (v : Nat) (m : Manifest) : Bool :=
  (upto (mfCodeLen m)).all (fun i => codePage s v (mfCode m + 4096 * i)) &&
  decide (mfCode m ≤ mfEntry m ∧ mfEntry m < mfCode m + 4096 * mfCodeLen m)

/-- Whether every tape page is mapped, and expert controls are not used without the gate. -/
def tapeOk (s : State) (v : Nat) (m : Manifest) : Bool :=
  (upto ((viTiles s v).length * mfTape m)).all (fun i => tapePage s v (mfTapeVa m + 4096 * i)) &&
  (!mfExpert m || expertOn s (some v))

/-- The checks of R442 in order, each with its code. -/
def loadChecks (s : State) (v : Nat) (m : Manifest) : List (Nat × Bool) :=
  [(lcTiles, decide (mfTiles m ≤ (viTiles s v).length)), (lcPond, decide (imgWord m 8 4 ≤ pondSize)),
   (lcHbm, decide (imgWord m 16 8 ≤ allotHbm s v)),
   (lcCounters, decide (imgWord m 24 4 ≤ getF s (F.SIG_VI_CFG_COUNT v))),
   (lcGroups, decide (imgWord m 28 2 ≤ getF s (F.COL_VI_CFG_COUNT v))),
   (lcQueues, decide (imgWord m 30 2 ≤ (viQs s v).length ∧ imgWord m 36 2 ≤ getF s (F.HOST_VI_CFG_QCOUNT v))),
   (lcDesc, decide (imgWord m 32 4 ≤ allotDesc s v)),
   (lcVectors, decide (imgWord m 38 2 ≤ getF s (F.HOST_VI_CFG_VCOUNT v))),
   (lcMere, (upto 8).all fun c => decide (mfMere m c ≤ getF s (F.MERE_OWN_MIN_MIN (8 * v + c) 4))),
   (lcCode, codeOk s v m), (lcTape, tapeOk s v m)]

/-- IPA of the manifest. -/
def manifestIpa (s : State) (v : Nat) : Nat := getF s (F.MGMT_VI_MANIFEST_IPA v) * 4096

/-- The code of a LOAD: the first check that fails. -/
def loadCode (s : State) (v : Nat) (m : Manifest) : Nat :=
  if !viPresent s v || viLoaded s v then lcState
  else if viState s v != 0 then pcBusy
  else if !fqFits s v then pcRange
  else if allotHbm s v < manifestIpa s v + 128 || !manifestOk m then lcBadManifest
  else
    match (loadChecks s v m).find? fun p => !p.2 with
    | some p => p.1
    | none => pcOk

/-- Tile j of the VI starts at ENTRY with its tape segment. -/
def tileStart (v j t : Nat) (m : Manifest) : M Unit := do
  let s ← cur
  let c := (tileOf s t).core
  putF (F.TILE_TAPE_BASE_BASE t) (segVa m j / 4096)
  putF (F.TILE_TAPE_SIZE_SIZE t) (mfTape m)
  emit (.core t { pc := BitVec.ofNat 48 (mfEntry m), state := .run, vi := v, inc := BitVec.ofNat 8 (viInc s v),
                  phase := c.phase, phaseStart := c.phaseStart })

/-- LOAD. -/
def viLoad (v : Nat) : M Unit := do
  let s ← cur
  let m := ipaRead s v (manifestIpa s v) 128
  let code := loadCode s v m
  viCode v code
  whenB (code == pcOk) do
    (indexed 0 (viTiles s v)).forM fun p => tileStart v p.1 p.2 m
    putF (F.FAULT_VI_CTL_STATE v) 1
    putF (F.MGMT_VI_CTL_LOADED v) 1
    modViFault v fun x => { x with needTiles := mfTiles m }

/-- VI_LOAD. -/
def execViLoad (v : ViNo) (s : State) : Host.Outcome State Fault Refusal := act (whenLive (viLoad v)) s

/-- UNLOAD: a VI reset with cause REQUEST that also clears LOADED. -/
def viUnload (v : Nat) : M Unit := do
  let s ← cur
  if viLoaded s v then do
    viCode v pcOk
    viReset v causeRequest true
  else viCode v pcBusy

/-- VI_UNLOAD. -/
def execViUnload (v : ViNo) (s : State) : Host.Outcome State Fault Refusal := act (whenLive (viUnload v)) s

/-- A write of MGMT_VI_CTL_v. -/
def viCmd (v cmd : Nat) : M Unit :=
  match cmd with
  | 1 => viCreate v
  | 2 => viDestroy v
  | 3 => viLoad v
  | 4 => viUnload v
  | _ => pure ()

/-! The expert gate (R443). -/

/-- Whether a path is the administrator's: BAR0 of the physical function or the management path. -/
def adminPath : Via → Bool
  | .bar0 _ => true
  | .mgmt => true
  | _ => false

/-- A write of MGMT_EXPERT. -/
def expertWrite (via : Via) (val : Nat) : M Unit := do
  let s ← cur
  whenB (adminPath via && !flag s F.MGMT_EXPERT_LOCK) do
    putF F.MGMT_EXPERT_GLOBAL (bits val 31 31)
    putF F.MGMT_EXPERT_VI (bits val 15 0)

/-- EXPERT_WRITE. -/
def execExpertWrite (via : Via) (val : W32) (s : State) : Host.Outcome State Fault Refusal :=
  act (whenLive (expertWrite via val.toNat)) s

end Sys2Proof.Machine
end

