-- ==== Sys2Proof/Machine/RegView.lean ====
section
/-! DEFINITION. What a register reads as (00 R4-R8): the fields that show the state of a unit, the offsets that an access
path reaches (01 R26, 12 R354, R355, R366, 15 R445), and reads. -/
namespace Sys2Proof.Machine

/-! Views. -/

/-- A register with some of its fields replaced by what they show: FIELD at hi:lo, VALUE. -/
def withFields (stored : Nat) (l : List (Nat × Nat × Nat)) : Nat :=
  l.foldl (fun x f => setBits x f.1 f.2.1 f.2.2) stored

/-- TILE_STATUS (03 R101). -/
def viewTileStatus (s : State) (t _j x : Nat) : Nat :=
  let c := (tileOf s t).core
  withFields x [(31, 24, c.inc.toNat), (23, 20, c.vi), (11, 4, (getCsr s t csrECAUSE).toNat), (3, 3, b2n c.ih),
    (2, 0, tileCode c.state)]

/-- TELEM_PHASE_t (14 R420). -/
def viewPhase (s : State) (t _j x : Nat) : Nat :=
  let c := (tileOf s t).core
  withFields x [(63, 48, c.phase.toNat), (47, 0, c.phaseStart)]

/-- TARN_UNIT_STAT (08 R261). -/
def viewUnit (s : State) (u _j x : Nat) : Nat :=
  let y := unitSt s u
  withFields x [(16, 11, deepUsed y), (10, 6, windowsUsed y.blocks),
    (1, 1, b2n (y.blocks.any fun b => b.spilled || !b.mere.isEmpty))]

/-- CLKPWR_GPIO.VAL (16 R468): the level of each pin. -/
def viewGpio (s : State) (_i _j x : Nat) : Nat :=
  setBits x 7 0 (Nat.lor (Nat.land (bits x 7 0) (bits x 15 8))
    (Nat.land s.sys.power.gpioIn.toNat (255 - bits x 15 8)))

/-- Registers with fields that show state kept elsewhere, by their base: the register at indices i and j. -/
def regViews : List (Nat × (State → Nat → Nat → Nat → Nat)) :=
  [(D.TILE_STATUS.base, viewTileStatus),
   (D.TILE_PC.base, fun s t _ _ => (tileOf s t).core.pc.toNat),
   (D.TILE_TAPE_HEAD.base, fun s t _ x => setBits x 39 3 ((tileOf s t).core.tapeHead / 8)),
   (D.TILE_TAPE_TAIL.base, fun s t _ x => setBits x 39 3 ((tileOf s t).core.tapeTail / 8)),
   (D.TELEM_TIME.base, fun s _ _ _ => nowNs s),
   (D.TELEM_PHASE.base, viewPhase),
   (D.MMU_VI_FSTAT.base, fun s v _ x => withFields x [(31, 16, fstatPend s v), (1, 1, b2n (fqFull s v))]),
   (D.DMA_Q_STAT.base, fun s q _ x => setBits x 44 32 (qOut s (.dma (Fin.ofNat 1024 q)))),
   (D.HOST_Q_STAT.base, fun s q _ x => setBits x 63 48 (hqOut s (Fin.ofNat 512 q))),
   (D.COL_GRP_GEN.base, fun s g _ x => setBits x 36 32 (liveCount s g)),
   (D.TARN_UNIT_STAT.base, viewUnit),
   (D.DIVIDE_OWN_USE.base, fun s o c x => withFields x [(51, 32, divUse s 1 o c), (19, 0, divUse s 0 o c)]),
   (D.DIVIDE_BUF_STAT.base, fun s d _ x =>
      withFields x [(51, 32, shFree s d), (19, 0, sumOf (fun f => if f.die = d then f.f.cells else 0) s.sys.div.frames)]),
   (D.MERE_POOL_FREE.base, fun s p _ x => setBits x 23 0 (poolFree s p)),
   (D.MERE_OWN_MIN.base, fun s o p x => setBits x 63 40 (held s o p)),
   (D.TALUS_STAT.base, fun s d _ x => setBits x 63 32 (talusUsed s d).length),
   (D.FAULT_VI_CTL.base, fun s v _ x => setBits x 47 32 (min 0xFFFF (quiesce s v))),
   (D.CLKPWR_GPIO.base, viewGpio),
   (D.FAULT_HEALTH.base, fun s n _ x => setBits x 9 0 (scoreOf s n))]

/-- MGMT_MAINT_STAT (15 R454), whose base is that of another register (DESIGN CHOICE, log entry 6). -/
def viewMaint (s : State) (x : Nat) : Nat :=
  withFields x [(47, 44, s.sys.boot.queued.length), (39, 32, s.sys.boot.running.length)]

/-- Value of a register as it reads. -/
def regVal (s : State) (d : RegDesc) (ix : List Nat) : Nat :=
  let x := getR s (regRef d ix)
  if d.base = D.MGMT_MAINT_STAT.base ∧ d.shift ≠ 0 then viewMaint s x
  else
    match regViews.find? fun p => p.1 == d.base with
    | some p => p.2 s (ix.getD 0 0) (ix.getD 1 0) x
    | none => x

/-! Access paths. -/

/-- What an offset of an access path names. -/
inductive Place where
  | nothing
  /-- A BAR0 offset. -/
  | reg (o : Nat)
  /-- A double word of the MSI-X table of a link, and of its pending bits. -/
  | msix (d i : Nat)
  | pba (d i : Nat)
  /-- SQTAIL or CQHEAD of a host queue, and its push window. -/
  | door (q : HqNo) (head : Bool)
  | push (q : HqNo) (off : Nat)
  deriving DecidableEq, Repr

/-- What a BAR0 offset names, on a link. -/
def bar0Place (d o : Nat) : Place :=
  if 0x1100000 ≤ o ∧ o < 0x1108000 then .msix d ((o - 0x1100000) / 4)
  else if 0x1108000 ≤ o ∧ o < 0x1108100 then .pba d ((o - 0x1108000) / 4)
  else if o < 0x4000000 then .reg o else .nothing

/-- What an offset of the page of a VI names (12 R351, R354). -/
def pagePlace (s : State) (d v o : Nat) : Place :=
  let hq := fun (lq : Nat) (k : HqNo → Place) =>
    match pageQueue s d v lq with
    | some q => k q
    | none => .nothing
  if getF s (F.HOST_VI_CFG_LINK v) ≠ d then .nothing
  else if o < 0x400 then
    hq (o / 16) fun q => if o % 16 = 0 then .door q false else if o % 16 = 4 then .door q true else .nothing
  else if 0x1000 ≤ o ∧ o < 0x2000 then hq ((o - 0x1000) / 64) fun q => .push q (o % 64)
  else if 0x2000 ≤ o ∧ o < 0x3000 then hq ((o - 0x2000) / 64) fun q => .reg (0x1010000 + q * 64 + o % 64)
  else if 0x10000 ≤ o ∧ o < 0x11000 then .reg (0x1400000 + v * 0x1000 + (o - 0x10000))
  else if 0x20000 ≤ o ∧ o < 0x30000 then
    match qOf s v ((o - 0x20000) / 64) with
    | some q => .reg (0x1800000 + q * 64 + o % 64)
    | none => .nothing
  else if 0x30000 ≤ o ∧ o < 0x30020 then .reg (0x1810000 + v * 64 + (o - 0x30000))
  else if 0x40000 ≤ o ∧ o < 0x80000 then
    match grpOf s v ((o - 0x40000) / 256) with
    | some g => .reg (0x2000000 + g * 256 + o % 256)
    | none => .nothing
  else if 0x80000 ≤ o ∧ o < 0x80100 then .reg (0x2410000 + v * 256 + (o - 0x80000))
  else if 0x81000 ≤ o ∧ o < 0x81100 then .reg (0x2420000 + v * 256 + (o - 0x81000))
  else if 0x90000 ≤ o ∧ (o - 0x90000) / 256 < 144 ∧ [0, 8, 12, 64, 72, 76].contains (o % 256) then
    match slotTile s v ((o - 0x90000) / 256) with
    | some t => .reg (0x3C00000 + t * 0x4000 + o % 256)
    | none => .nothing
  else .nothing

/-- What an offset names on an access path. The SPI slave reaches the first five windows (15 R445). -/
def placeOf (s : State) (via : Via) (o : Nat) : Place :=
  match via with
  | .bar0 d => bar0Place d o
  | .page d v => pagePlace s d v o
  | .spi => if o < 0x1000000 then .reg o else .nothing
  | .mgmt => bar0Place 0 o

/-- Whether the device answers on a path (15 R432, R434). -/
def answers (s : State) (via : Via) : Bool :=
  clocked s && (live s || via == .spi || via == .mgmt)

/-! Latches (00 R7). -/

/-- A latch: the offset it serves and the half it holds. -/
def latch64 (s : State) (via : Via) (read : Bool) : Nat × Nat := smGet (0, 0) s.sys.latches (2 * pathNo via + b2n read)
def setLatch (via : Via) (read : Bool) (x : Nat × Nat) : M Unit :=
  modSys fun y => { y with latches := smSet (0, 0) y.latches (2 * pathNo via + b2n read) x }

/-! Reads. -/

/-- Place in the store of a double word of the MSI-X table: address and data of a vector. -/
def msixRef (d i : Nat) : RegRef := ⟨0x10000000 + d * 0x10000 + 4 * i, 0⟩

/-- A double word of the MSI-X table; the fourth of an entry holds the mask bit (12 R366). -/
def msixDword (s : State) (d i : Nat) : Nat :=
  if i % 4 = 3 then b2n (!s.sys.host.msixOpen.contains (d, i / 4)) else getR s (msixRef d i)

/-- A double word of the pending-bit array. -/
def pbaDword (s : State) (d i : Nat) : Nat :=
  sumOf (fun k => if s.sys.host.msixPend.contains (d, 32 * i + k) then 2 ^ k else 0) (upto 32)

/-- Registers of which a 32-bit access at an offset reaches the whole or a half. -/
def regs32 (o : Nat) : List (RegDesc × List Nat × Nat) :=
  (findRegs o).filter fun p => (p.1.width == 32 && p.2.2 == 0) || (p.1.width == 64 && p.2.2 % 4 == 0)

/-- PTILE of four positions (01 R28). -/
def mapDword (s : State) (o : Nat) : Nat :=
  packW 8 ((upto 4).map fun k => getF s (F.GLOBAL_TILE_MAP_PTILE (o - 0x100 + k)))

/-- One of the registers at an offset: where two share it, which one answers is open (DESIGN CHOICE, log entry 6). -/
def pickReg (l : List (RegDesc × List Nat × Nat)) : M (Option (RegDesc × List Nat × Nat)) := do
  match l with
  | [] => return none
  | [x] => return some x
  | _ => do
    let c ← takeFree
    return l[c.toNat % l.length]?

/-- A 32-bit read of a BAR0 offset. -/
def readReg32 (via : Via) (o : Nat) : M Nat := do
  let s ← cur
  if 0x100 ≤ o ∧ o < 0x190 then return mapDword s o
  else do
    let r ← pickReg (regs32 o)
    match r with
    | none => return 0
    | some (d, ix, k) => do
      let x := regVal s d ix
      if d.width = 32 then return x % 2 ^ 32
      else if k = 0 then do
        setLatch via true (o, x / 2 ^ 32)
        return x % 2 ^ 32
      else if (latch64 s via true).1 = o - 4 then return (latch64 s via true).2
      else return x / 2 ^ 32

/-- A 32-bit read on a path (00 R7, 01 R26): the value. -/
def read32 (via : Via) (o : Nat) : M Nat := do
  let s ← cur
  if o % 4 ≠ 0 then return 2 ^ 32 - 1
  else
    match placeOf s via o with
    | .nothing => return 0
    | .reg a => readReg32 via a
    | .msix d i => return msixDword s d i
    | .pba d i => return pbaDword s d i
    | .door q head => return (if head then (hqSt s q).cqhead else (hqSt s q).sqtail)
    | .push _ _ => return 0

end Sys2Proof.Machine
end

