-- ==== Sys2Proof/Machine/Topology.lean ====
section
/-! DEFINITION. The checks of a map image (11 R334), discovery sweeps (R337, R338), publishing (R339, 07 R208) and draining
(R340). -/
namespace Sys2Proof.Machine

/-! The image (R334). -/

/-- Bytes of a map image. -/
def mapSize : Nat := 8896

/-- Numbers of n bytes of an image, from an offset. -/
def imgTable (img : List Byte) (off n count : Nat) : List Nat :=
  ((chunks n ((img.drop off).take (n * count)))).map ofBytes

/-- Whether the relay chain from a pod ends: within n entries it reaches one with DIRECT = 1 or RELAY = 0. -/
def chainEnds (pods : Array Nat) : Nat → Nat → Bool
  | 0, _ => false
  | n + 1, b =>
    let e := pods.getD b 0
    pdDirect e || !pdRelay e || chainEnds pods n (pdRpod e)

/-- Whether the metro entries of the sites name devices at this site only. -/
def metroOk (img : List Byte) : Bool :=
  let here := siteOf img (imgSelf img)
  (indexed 0 (imgTable img 0x2240 4 32)).all fun p =>
    bits p.2 31 19 == 0 && (!mtValid p.2 || p.1 / 8 == here || siteOf img (mtDev p.2) == here)

/-- Whether a sweep takes an image; else it is refused with BADMAP. -/
def mapOk (img : List Byte) : Bool :=
  let pods := imgTable img 0x240 4 1024
  imgNum img 0 4 == 0x54504D31 && imgShape img ≤ 4 && imgSelf img < 32768 &&
  ((img.drop 9).take 51).all (· == 0) &&
  (imgTable img 0x40 8 64).all (fun e => pkKind e ≤ 4 && bits e 63 25 == 0) &&
  pods.all (fun e => !bit e 2 && bits e 31 26 == 0) &&
  (upto 1024).all (fun b => chainEnds pods.toArray 1025 b) && metroOk img &&
  crc32c (img.take 60 ++ List.replicate 4 0 ++ img.drop 64) == imgNum img 60 4

/-! Sweeps. -/

/-- RESULT codes (R348). -/
def swNone : Nat := 0
def swRunning : Nat := 1
def swClean : Nat := 2
def swStale : Nat := 3
def swIncomplete : Nat := 4
def swBadMap : Nat := 5

def sweepResult (s : State) : Nat := getF s F.GLOBAL_TOPO_SWEEP_RESULT

/-- Slots of this device's pod that are present in an image. -/
def podSlots (img : List Byte) : List Nat := (upto 32).filter fun k => imgPresent img (podOf (imgSelf img) * 32 + k)

/-- The pod leader's slot. -/
def leaderSlot (img : List Byte) : Nat := (podSlots img).headD 0

/-- A SWEEP starts (R337 steps 1 and 2). -/
def sweepStart : M Unit := do
  let s ← cur
  let img := hbmRead s (getF s F.GLOBAL_TOPO_CAND_BASE * 4096) mapSize
  addSat F.GLOBAL_TOPO_SWEEP_SWEEPS 1
  if !mapOk img then do
    putF F.GLOBAL_TOPO_SWEEP_RESULT swBadMap
    modTopo fun y => { y with sweep := none, swept := none }
  else do
    putF F.GLOBAL_TOPO_SWEEP_RESULT swRunning
    putF F.GLOBAL_TOPO_SWEEP_LEADER (b2n (leaderSlot img == imgSelf img % 32))
    (upto 64).forM fun p => whenB (decide (linkSt s p ≠ {})) (modLink p fun l => { l with identFresh := false })
    modTopo fun y =>
      { y with sweep := some { start := nowNs s, dirty := false, image := img }, swept := none, reports := [],
               leadStart := nowNs s, staleAt := none }
    ((upto 64).filter fun p => linkMsgs s p && portLs s p != lsCapex && portLs s p != lsNegFail).forM sendIdent

/-- SWEEP (R337, R348). -/
def execSweep (s : State) : Host.Outcome State Fault Refusal := act (whenLive sweepStart) s

/-- The result of a port: 0 MATCH, 1 MISWIRED, 2 ABSENT, 3 UNEXPECTED (R337 step 3). -/
def portResult (s : State) (img : List Byte) (p : Nat) : Nat :=
  let e := imgPort img p
  let heard := (linkSt s p).identFresh
  if pkKind e = 0 then (if heard then 3 else 0)
  else if !heard then 2
  else if getF s (F.PORT_LINK_NBR_PDEV p) = pkDev e ∧ getF s (F.PORT_LINK_NBR_PPORT p) = pkPort e then 0 else 1

/-- The pod result is told to the fault manager over the management network (R338). -/
def podReport (result : Nat) : M Unit := do
  let s ← cur
  putF F.GLOBAL_TOPO_SWEEP_RESULT result
  send (.report 4 (bytesOf 1 result ++ s.sys.topo.reports.flatMap fun r =>
    bytesOf 1 r.1 ++ (match r.2 with
      | .stale => [1]
      | .results l => 0 :: l)))

/-- A report reaches the leader (R338). -/
def discTake (slot : Nat) (rep : SweepReport) : M Unit := do
  let s ← cur
  whenB (flag s F.GLOBAL_TOPO_SWEEP_LEADER && (sweepResult s == swRunning || sweepResult s == swStale)) do
    modTopo fun y => { y with reports := (y.reports.filter fun r => r.1 != slot) ++ [(slot, rep)] }
    let s ← cur
    let img := match s.sys.topo.sweep with
      | some w => w.image
      | none => s.sys.topo.swept.getD []
    if rep = .stale then do
      modTopo fun y => { y with staleAt := some (y.staleAt.getD (nowNs s)) }
      podReport swStale
    else whenB (sweepResult s == swRunning &&
        (podSlots img).all fun k => s.sys.topo.reports.any fun r => r.1 == k) (podReport swClean)

/-- The bytes of a report in a DISC frame. -/
def repBytes : SweepReport → List Byte
  | .stale => [1]
  | .results l => 0 :: l

/-- A report leaves for the leader: by the mesh port whose link is ACTIVE, or over the management network (R337). -/
def repSend (img : List Byte) (rep : SweepReport) : M Unit := do
  let s ← cur
  let dest := podOf (imgSelf img) * 32 + leaderSlot img
  match meshPort img dest with
  | .port p =>
    if portLs s p = lsActive then
      send (.send 7 (mkHdr s 6 dest 0 0 0 0 (repBytes rep).length
        (BitVec.ofNat 64 ((repBytes rep).length * 2 ^ 32)) 0) (repBytes rep))
    else send (.report 5 (repBytes rep))
  | _ => send (.report 5 (repBytes rep))

/-- SWEEP_REPLY_TIMEOUT (R337 steps 3 and 4). -/
def execSweepReplyTimeout (s : State) : Host.Outcome State Fault Refusal :=
  act (do
    let s ← cur
    match s.sys.topo.sweep with
    | none => pure ()
    | some w =>
      whenB (live s) do
        let rep : SweepReport :=
          if w.dirty then .stale else .results ((upto 64).map fun p => BitVec.ofNat 8 (portResult s w.image p))
        modTopo fun y => { y with sweep := none, swept := some w.image }
        (if flag s F.GLOBAL_TOPO_SWEEP_LEADER then discTake (imgSelf w.image % 32) rep
         else do
          putF F.GLOBAL_TOPO_SWEEP_RESULT (if w.dirty then swStale else swClean)
          repSend w.image rep)
        whenB w.dirty (modTopo fun y => { y with swept := none })) s

/-- DISC (R338). -/
def execDisc (slot : Fin 32) (rep : SweepReport) (s : State) : Host.Outcome State Fault Refusal :=
  act (whenLive (discTake slot rep)) s

/-- LEADER_RESWEEP (R338): SWEEP goes to every present device of the pod, and this one sweeps too. -/
def execLeaderResweep (s : State) : Host.Outcome State Fault Refusal :=
  act (do
    let s ← cur
    whenB (live s && flag s F.GLOBAL_TOPO_SWEEP_LEADER && s.sys.topo.staleAt.isSome) do
      send (.report 6 [])
      sweepStart) s

/-- SWEEP_INCOMPLETE (R338). -/
def execSweepIncomplete (s : State) : Host.Outcome State Fault Refusal :=
  act (do
    let s ← cur
    whenB (live s && flag s F.GLOBAL_TOPO_SWEEP_LEADER && sweepResult s == swRunning) (podReport swIncomplete)) s

/-- ABANDON (R348): a sweep, or the sweeping again that follows a STALE one, ends without result. -/
def topoAbandon : M Unit := do
  let s ← cur
  whenB (sweepResult s == swRunning) (putF F.GLOBAL_TOPO_SWEEP_RESULT swNone)
  modTopo fun y => { y with sweep := none, staleAt := none, reports := [] }

/-- ABANDON (R348). -/
def execAbandon (s : State) : Host.Outcome State Fault Refusal := act (whenLive topoAbandon) s

/-! Publishing (R339). -/

/-- A group is checked against the placement rules again (07 R208). -/
def placementCheck (g : Nat) : M Unit := do
  let s ← cur
  let x := grpSt s g
  let ok := placementOk s g x.members
  if grpState s g = stActive ∧ ok = false then do
    setState g stSuspended
    putF (F.COL_GRP_STAT_CODE g) gcPlacement
    modGrp g fun y => { y with placement := true }
  else whenB (grpState s g == stSuspended && x.placement && ok) do
    modGrp g fun y => { y with placement := false }
    whenB x.excluded.isEmpty (setState g stActive)

/-- A map becomes the active one. -/
def mapActivate (img : List Byte) : M Unit := do
  let s ← cur
  modTopo fun y =>
    { y with prevEpoch := if flag s F.GLOBAL_TOPO_ACT_VALID then some (selfEpoch s) else none, active := some img }
  putF F.GLOBAL_TOPO_ACT_DEV (imgSelf img)
  putF F.GLOBAL_TOPO_ACT_SHAPE (imgShape img)
  putF F.GLOBAL_TOPO_ACT_VALID 1
  putF F.GLOBAL_TOPO_ACT_EPOCH (imgEpoch img)
  ((upto 64).filter fun p => portPs s p == psUp &&
    (portLs s p == lsActive || portLs s p == lsMiswired || portLs s p == lsUnmapped)).forM identCheck
  (s.sys.col.grps.map (·.1)).forM placementCheck

/-- PUBLISH: armed for T_act, at once where that has passed, or refused (R339). -/
def topoPublish : M Unit := do
  let s ← cur
  match s.sys.topo.swept with
  | none => pure ()
  | some img =>
    whenB (!flag s F.GLOBAL_TOPO_ACT_VALID || imgEpoch img == (selfEpoch s + 1) % 65536) do
      let t := getF s F.GLOBAL_TOPO_TACT_TACT
      if t ≤ nowNs s then mapActivate img else modTopo fun y => { y with armed := y.armed ++ [(t, img)] }

/-- PUBLISH (R339, R348). -/
def execPublish (s : State) : Host.Outcome State Fault Refusal := act (whenLive topoPublish) s

/-- The armed activation of the earliest T_act, and the others. -/
def firstArmed : List (Nat × List Byte) → Option ((Nat × List Byte) × List (Nat × List Byte))
  | [] => none
  | a :: l =>
    match firstArmed l with
    | none => some (a, [])
    | some (b, rest) => if b.1 < a.1 then some (b, a :: rest) else some (a, l)

/-- PUBLISH_ACTIVATE (R339): T_act has come. -/
def execPublishActivate (s : State) : Host.Outcome State Fault Refusal :=
  act (do
    let s ← cur
    match firstArmed s.sys.topo.armed with
    | none => pure ()
    | some (a, rest) =>
      whenB (live s) do
        modTopo fun y => { y with armed := rest }
        mapActivate a.2) s

/-! Draining (R340). -/

/-- Nothing is queued for a port and nothing it has sent is unacknowledged. -/
def portEmpty (s : State) (p : Nat) : Bool :=
  (linkSt s p).sent.isEmpty && !s.sys.div.frames.any fun d => d.residue.contains p || d.unacked.contains p

/-- DRAINED is set, or cleared with DRAIN (R340). -/
def drainCheck (p : Nat) : M Unit := do
  let s ← cur
  putF (F.PORT_LINK_STAT_DRAINED p) (b2n (flag s (F.PORT_LINK_CFG_DRAIN p) && portEmpty s p))

/-- DRAIN_SET (R340): a write of 1 to DRAIN. -/
def execDrainSet (p : PortNo) (s : State) : Host.Outcome State Fault Refusal :=
  act (putF (F.PORT_LINK_CFG_DRAIN p) 1) s

/-- DRAINED (R340). -/
def execDrained (p : PortNo) (s : State) : Host.Outcome State Fault Refusal := act (whenLive (drainCheck p)) s

end Sys2Proof.Machine
end

