-- ==== Sys2Proof/Machine/RegWrite.lean ====
section
/-! DEFINITION. What a write of a register does (00 R4-R7, 01 R26): the fields it sets by their access types, and the
registers whose writes act. -/
namespace Sys2Proof.Machine

/-! Access types (00 R4). -/

/-- The VI that owns an instance of a register (01 R16). -/
def ownerOf (s : State) (d : RegDesc) (ix : List Nat) (val : Nat) : Option Nat :=
  let i := ix.getD 0 0
  match d.owner with
  | .none => none
  | .vi => some i
  | .tile => tileOwner s i
  | .dmaQ => some (if flag s (F.DMA_Q_CFG_EN i) then getF s (F.DMA_Q_CFG_VI i) else bits val 27 24)
  | .grp => grpOwner s i
  | .divOwn => if i < 16 then some i else none
  | .mereOwn => if i < 128 then some (i / 8) else none

/-- Whether a VI is quiesced (DEDUCED, log entry 43): it does not exist, or it is IDLE with no stale work left. -/
def viQuiesced (s : State) (v : Nat) : Bool := !viPresent s v || (viState s v == 0 && quiesce s v == 0)

/-- Paths that go through the page of a VI. -/
def viaPage : Via → Bool
  | .page _ _ => true
  | _ => false

/-- Whether a write sets fields of a type; RWP fields act as RO through the page (12 R355). -/
def takes (s : State) (via : Via) (o : Option Nat) : AccType → Bool
  | .rw => true
  | .rwp => !viaPage via && o.any (viQuiesced s)
  | .rwx => expertOn s o
  | .ro => false
  | .rw1c => false
  | .wo => false

/-- The value of a register after a write: fields that are set, then bits that a 1 clears. -/
def regNew (s : State) (via : Via) (d : RegDesc) (ix : List Nat) (val : Nat) : Nat :=
  let x := maskIn (getR s (regRef d ix)) (accMask d.fields (takes s via (ownerOf s d ix val))) val
  Nat.xor x (Nat.land x (Nat.land val (accMask d.fields (· == .rw1c))))

/-! Registers whose writes act. -/

/-- What a write does: the path, the two first indices, the value that the fields take, and the value written. -/
abbrev WriteAct := Via → Nat → Nat → Nat → Nat → M Unit

/-- GLOBAL_TOPO_CMD (11 R348). -/
def wTopoCmd : WriteAct := fun _ _ _ _ val =>
  match bits val 3 0 with
  | 1 => sweepStart
  | 2 => topoPublish
  | 3 => topoAbandon
  | _ => pure ()

/-- MGMT_PROF_CTL (15 R438). -/
def wProfCtl : WriteAct := fun _ _ _ _ val => whenB (bits val 3 0 == 1) (profCmd (bits val 5 4))

/-- MGMT_VI_TILES: a change moves tiles between VIs. -/
def wViTiles : WriteAct := fun _ v j new _ => do
  putR (R.MGMT_VI_TILES v j) new
  (upto 152).forM retile
  reclockNow

/-- CLKPWR_PCAP: a write below 800 stores 800 (15 R455). -/
def wPcap : WriteAct := fun _ _ _ new _ => putR R.CLKPWR_PCAP (max 800 new)

/-- CLKPWR_TCLK. -/
def wTclk : WriteAct := fun _ v _ new _ => do
  putR (R.CLKPWR_TCLK v) new
  reclockNow

/-- Names of the GPIO pins (16 R468). -/
def gpioName (n : Nat) : String := "GPIO" ++ toString n

/-- CLKPWR_GPIO: the pins that are driven show VAL (16 R468). -/
def wGpio : WriteAct := fun _ _ _ new _ => do
  putR R.CLKPWR_GPIO new
  (upto 8).forM fun n => whenB (bit new (8 + n)) (send (.pin (gpioName n) (bit new n)))

/-- TELEM_TIME_SET. -/
def wTimeSet : WriteAct := fun _ _ _ _ val => timeSet val

/-- TELEM_SNAP_CTL: CMD triggers (14 R416). -/
def wSnapCtl : WriteAct := fun _ _ _ new val => do
  putR R.TELEM_SNAP_CTL new
  whenB (bit val 16) (trigger srcCmd 0 0 0)

/-- TELEM_SNAP_AT. -/
def wSnapAt : WriteAct := fun _ _ _ new _ => snapAt new

/-- TELEM_CTR_CFG: a counter set up again may trigger again (14 R415). -/
def wCtrCfg : WriteAct := fun _ i _ new _ => do
  putR (R.TELEM_CTR_CFG i) new
  modTelem fun y => { y with triggered := y.triggered.filter (· != i) }

/-- TELEM_VI_REC_CTL: a new MODE starts the sequence numbers afresh (14 R422). -/
def wRecCtl : WriteAct := fun _ v _ new _ => do
  let s ← cur
  whenB (getF s (F.TELEM_VI_REC_CTL_MODE v) != bits new 31 30) (modRec v fun y => { y with seqs := [] })
  putR (R.TELEM_VI_REC_CTL v) new

/-- TELEM_VI_REC_TAIL. -/
def wRecTail : WriteAct := fun _ v _ new _ => recTailSet v new

/-- FAULT_VI_CTL (13 R389). -/
def wViCtl : WriteAct := fun _ v _ _ val => whenB (bits val 3 0 == 1) (viReset v causeRequest false)

/-- FAULT_TILE_MIG (13 R396). -/
def wTileMig : WriteAct := fun _ _ _ new val => do
  let s ← cur
  if bits val 3 0 = 1 then whenB (enginesRun s) (migStart (bits val 15 8))
  else putR R.FAULT_TILE_MIG new

/-- A ring of a host queue: only while EN = 0 (12 R356). -/
def wHostRing (r : Nat → RegRef) : WriteAct := fun _ q _ new _ => do
  let s ← cur
  whenB (!flag s (F.HOST_Q_CFG_EN q)) (putR (r q) new)

/-- The MODE of a host queue after a write (12 R356, R372). -/
def hqModeNew (s : State) (via : Via) (q m : Nat) : Nat :=
  if flag s (F.HOST_Q_CFG_EN q) ∨ m = 3 ∨ (m = 2 ∧ viaPage via = true) then getF s (F.HOST_Q_CFG_MODE q) else m

/-- HOST_Q_CFG: EN starts and ends the service of the queue. -/
def wHostCfg : WriteAct := fun via q _ new _ => do
  let s ← cur
  let en := b2n (flag s (F.HOST_Q_CFG_EN q))
  putR (R.HOST_Q_CFG q) (setBits (setBits new 30 29 (hqModeNew s via q (bits new 30 29))) 31 31 en)
  if bit new 31 then hqEnable (Fin.ofNat 512 q) else hqDisable (Fin.ofNat 512 q)

/-- MMU_VI_FQ_BASE: a ring beyond the allotment has no effect (05 R151). -/
def wFqBase : WriteAct := fun _ v _ new _ => do
  let s ← cur
  whenB (decide (bits new 38 12 * 4096 + 16 * 2 ^ bits new 3 0 * 32 ≤ allotHbm s v)) (putR (R.MMU_VI_FQ_BASE v) new)

/-- MMU_VI_FQ_TAIL. -/
def wFqTail : WriteAct := fun _ v _ new _ => fqTail v new

/-- MMU_VI_RESUME (05 R155). -/
def wResume : WriteAct := fun _ v _ _ val => mmuResume v (bits val 47 40) (bits val 33 32) (bits val 31 0)

/-- MMU_VI_INVAL (05 R146). -/
def wInval : WriteAct := fun _ v _ _ val => mmuInval v (bits val 47 12) (bit val 0)

/-- MMU_SVC_LIMIT (05 R158). -/
def wSvcLimit : WriteAct := fun _ _ _ _ val => do
  let s ← cur
  whenB (expertOn s none) (svcLimit (bits val 13 0))

/-- SIG_CTR (06 R195). -/
def wSigCtr : WriteAct := fun _ c _ _ val => sigCtrWrite c (BitVec.ofNat 64 val)

/-- COL_GRP_CTL (07 R236). -/
def wGrpCtl : WriteAct := fun _ g _ _ val =>
  match bits val 3 0 with
  | 1 => grpCreate g false
  | 2 => grpClose g
  | 3 => grpCreate g true
  | _ => pure ()

/-- A register of a group context that only a FREE context takes (07 R236): its RWX fields do not wait for that. -/
def wGrpReg (r : Nat → Nat → RegRef) (rwx : Nat) : WriteAct := fun _ g j new _ => do
  let s ← cur
  if grpState s g = stFree then putR (r g j) new
  else putR (r g j) (maskIn (getR s (r g j)) rwx new)

/-- TARN_VI_WATCH_CTL (08 R261). -/
def wWatchCtl : WriteAct := fun _ v _ new val => do
  putR (R.TARN_VI_WATCH_CTL v) new
  whenB (bit val 31) (watchClear v)

/-- TARN_VI_CMP_CFG. -/
def wCmpCfg : WriteAct := fun _ v k new _ => cmpCfg v k new

/-- DIVIDE_MIR_CFG. -/
def wMirCfg : WriteAct := fun _ m _ new _ => mirCfg m new

/-- PORT_CTL and EDGE_CTL (10 R302). -/
def wPortCtl : WriteAct := fun _ p _ _ val => cmdWrite (bits val 3 0) (.hyora (Fin.ofNat 64 p))
def wEdgeCtl : WriteAct := fun _ e _ _ val => cmdWrite (bits val 3 0) (.edge (Fin.ofNat 8 e))

/-- PORT_PRBS_CTL and EDGE_PRBS_CTL (10 R311, R312). -/
def wPortPrbs : WriteAct := fun _ p _ new _ => prbsWrite (.hyora (Fin.ofNat 64 p)) new
def wEdgePrbs : WriteAct := fun _ e _ new _ => prbsWrite (.edge (Fin.ofNat 8 e)) new

/-- PORT_LINK_CFG: DRAINED is cleared with DRAIN (11 R340). -/
def wLinkCfg : WriteAct := fun _ p _ new _ => do
  putR (R.PORT_LINK_CFG p) new
  whenB (!bit new 0) (drainCheck p)

/-- TILE_CTL (05 R164). -/
def wTileCtl : WriteAct := fun _ t _ _ val =>
  match bits val 1 0 with
  | 1 => preemptStart t
  | 2 => restoreStart t
  | _ => pure ()

/-- MGMT_EXPERT (15 R443). -/
def wExpert : WriteAct := fun via _ _ _ val => expertWrite via val

/-- MGMT_VI_CTL (15 R440-R442). -/
def wViAdmin : WriteAct := fun _ v _ _ val => viCmd v (bits val 3 0)

/-- MGMT_RST (15 R429): PROFILE_SEL is sampled, and its level is open. -/
def wRst : WriteAct := fun via _ _ _ val =>
  whenB (rstPath via && bits val 3 0 == 0xA) do
    let sel ← takeFree
    mgmtReset (sel.toNat % 4)

/-- MGMT_MAINT_CMD (15 R450). -/
def wMaint : WriteAct := fun _ _ _ _ val =>
  match bits val 31 28 with
  | 1 => maintStart (bits val 27 24) (bits val 23 16) (bits val 15 0)
  | 2 => maintCancel (bits val 23 16)
  | _ => pure ()

/-- Writes that act while the management domain runs, by base. -/
def mgmtActs : List (Nat × WriteAct) := [(D.MGMT_RST.base, wRst), (D.MGMT_MAINT_CMD.base, wMaint)]

/-- Writes that act while the blocks run, by base. -/
def writeActs : List (Nat × WriteAct) :=
  [(D.GLOBAL_TOPO_CMD.base, wTopoCmd), (D.MGMT_PROF_CTL.base, wProfCtl), (D.MGMT_EXPERT.base, wExpert),
   (D.MGMT_VI_CTL.base, wViAdmin), (D.MGMT_VI_TILES.base, wViTiles), (D.CLKPWR_PCAP.base, wPcap),
   (D.CLKPWR_TCLK.base, wTclk), (D.CLKPWR_GPIO.base, wGpio), (D.TELEM_TIME_SET.base, wTimeSet),
   (D.TELEM_SNAP_CTL.base, wSnapCtl), (D.TELEM_SNAP_AT.base, wSnapAt), (D.TELEM_CTR_CFG.base, wCtrCfg),
   (D.TELEM_VI_REC_CTL.base, wRecCtl), (D.TELEM_VI_REC_TAIL.base, wRecTail), (D.FAULT_VI_CTL.base, wViCtl),
   (D.FAULT_TILE_MIG.base, wTileMig)] ++
  [(D.HOST_Q_SQ.base, wHostRing fun q => R.HOST_Q_SQ q), (D.HOST_Q_CQ.base, wHostRing fun q => R.HOST_Q_CQ q),
   (D.HOST_Q_CFG.base, wHostCfg), (D.MMU_VI_FQ_BASE.base, wFqBase), (D.MMU_VI_FQ_TAIL.base, wFqTail),
   (D.MMU_VI_RESUME.base, wResume), (D.MMU_VI_INVAL.base, wInval), (D.MMU_SVC_LIMIT.base, wSvcLimit),
   (D.SIG_CTR.base, wSigCtr), (D.COL_GRP_CTL.base, wGrpCtl), (D.COL_GRP_ID.base, wGrpReg (fun g _ => R.COL_GRP_ID g) 0),
   (D.COL_GRP_CFG.base, wGrpReg (fun g _ => R.COL_GRP_CFG g) (3 * 2 ^ 56)),
   (D.COL_GRP_MEMB.base, wGrpReg (fun g _ => R.COL_GRP_MEMB g) 0),
   (D.COL_GRP_RANK.base, wGrpReg (fun g _ => R.COL_GRP_RANK g) 0),
   (D.COL_GRP_SEED0.base, wGrpReg (fun g _ => R.COL_GRP_SEED0 g) 0),
   (D.COL_GRP_SEED1.base, wGrpReg (fun g _ => R.COL_GRP_SEED1 g) 0),
   (D.COL_GRP_SEQ.base, wGrpReg (fun g _ => R.COL_GRP_SEQ g) 0)] ++
  [(D.TARN_VI_WATCH_CTL.base, wWatchCtl), (D.TARN_VI_CMP_CFG.base, wCmpCfg), (D.DIVIDE_MIR_CFG.base, wMirCfg),
   (D.PORT_CTL.base, wPortCtl), (D.EDGE_CTL.base, wEdgeCtl), (D.PORT_PRBS_CTL.base, wPortPrbs),
   (D.EDGE_PRBS_CTL.base, wEdgePrbs), (D.PORT_LINK_CFG.base, wLinkCfg), (D.TILE_CTL.base, wTileCtl)]

/-- A write of a register. Without the blocks, only the management domain's own commands act (15 R432, R434). -/
def regStore (via : Via) (d : RegDesc) (ix : List Nat) (val : Nat) : M Unit := do
  let s ← cur
  let new := regNew s via d ix val
  match (mgmtActs ++ (if live s then writeActs else [])).find? fun p => p.1 == d.base with
  | some p => p.2 via (ix.getD 0 0) (ix.getD 1 0) new val
  | none => putR (regRef d ix) new

/-! Offsets. -/

/-- A vector's mask bit (12 R366): a message that is pending goes out when it is unmasked. -/
def maskSet (d vec : Nat) (masked : Bool) : M Unit := do
  let s ← cur
  if masked then modHost fun y => { y with msixOpen := y.msixOpen.filter (· != (d, vec)) }
  else do
    whenB (!s.sys.host.msixOpen.contains (d, vec)) (modHost fun y => { y with msixOpen := y.msixOpen ++ [(d, vec)] })
    whenB (s.sys.host.msixPend.contains (d, vec)) do
      modHost fun y => { y with msixPend := y.msixPend.filter (· != (d, vec)) }
      sendVec d vec

/-- A double word of the MSI-X table is written. -/
def msixPut (d i val : Nat) : M Unit := if i % 4 = 3 then maskSet d (i / 4) (bit val 0) else putR (msixRef d i) val

/-- A doorbell (12 R354, R357, R361). -/
def doorPut (q : HqNo) (head : Bool) (val : Nat) : M Unit := do
  let s ← cur
  if head then whenB (live s) (cqHead q val) else whenB (enginesRun s) (sqTail q val)

/-- Bytes for a push window. -/
def pushPut (q : HqNo) (off : Nat) (l : List Byte) : M Unit := do
  let s ← cur
  whenB (enginesRun s && decide (off + l.length ≤ 64)) (pushWrite q off l)

/-- The value that the upper half completes (00 R7). -/
def upperVal (s : State) (via : Via) (o : Nat) (d : RegDesc) (ix : List Nat) (val : Nat) : Nat :=
  let lo := if latch64 s via false = (0, 0) ∨ (latch64 s via false).1 ≠ o then getR s (regRef d ix) % 2 ^ 32
    else (latch64 s via false).2
  lo + val * 2 ^ 32

/-- A 32-bit write of a BAR0 offset (00 R7). Registers that share the offset all take it (DESIGN CHOICE, log entry 6). -/
def writeReg32 (via : Via) (o val : Nat) : M Unit := do
  let s ← cur
  let rs := regs32 o
  (rs.filter fun p => p.1.width == 32).forM fun p => regStore via p.1 p.2.1 val
  if rs.any fun p => p.1.width == 64 && p.2.2 == 0 then setLatch via false (o, val)
  else whenB (rs.any fun p => p.1.width == 64) do
    (rs.filter fun p => p.1.width == 64).forM fun p => regStore via p.1 p.2.1 (upperVal s via (o - 4) p.1 p.2.1 val)
    let t ← cur
    whenB ((latch64 t via false).1 == o - 4) (setLatch via false (0, 0))

/-- A 32-bit write on a path. -/
def write32 (via : Via) (o val : Nat) : M Unit := do
  let s ← cur
  if o % 4 ≠ 0 then pure ()
  else
    match placeOf s via o with
    | .nothing => pure ()
    | .reg a => writeReg32 via a val
    | .msix d i => msixPut d i val
    | .pba _ _ => pure ()
    | .door q head => doorPut q head val
    | .push q k => pushPut q k (bytesOf 4 val)

/-- Registers of 64 bits at an offset. -/
def regs64 (o : Nat) : List (RegDesc × List Nat) :=
  ((findRegs o).filter fun p => p.1.width == 64 && p.2.2 == 0).map fun p => (p.1, p.2.1)

/-- A 64-bit write on a path: to a 32-bit register it is discarded (00 R7). -/
def write64 (via : Via) (o val : Nat) : M Unit := do
  let s ← cur
  if o % 8 ≠ 0 then pure ()
  else
    match placeOf s via o with
    | .nothing => pure ()
    | .reg a => (regs64 a).forM fun p => regStore via p.1 p.2 val
    | .msix d i => do
      msixPut d i (val % 2 ^ 32)
      msixPut d (i + 1) (val / 2 ^ 32)
    | .pba _ _ => pure ()
    | .door _ _ => pure ()
    | .push q k => pushPut q k (bytesOf 8 val)

/-! Reads of any width. -/

/-- A 64-bit read of a BAR0 offset: all ones where it would cover a register of another width (00 R7). -/
def readReg64 (o : Nat) : M Nat := do
  let s ← cur
  if 0x100 ≤ o ∧ o < 0x190 then return mapDword s o + mapDword s (o + 4) * 2 ^ 32
  else
    match regs64 o with
    | [] => return (if (findRegs o).isEmpty ∧ (findRegs (o + 4)).isEmpty then 0 else 2 ^ 64 - 1)
    | l => do
      let r ← pickReg (l.map fun p => (p.1, p.2, 0))
      return (match r with
        | some (d, ix, _) => regVal s d ix
        | none => 0)

/-- A 64-bit read on a path. -/
def read64 (via : Via) (o : Nat) : M Nat := do
  let s ← cur
  if o % 8 ≠ 0 then return 2 ^ 64 - 1
  else
    match placeOf s via o with
    | .nothing => return 0
    | .reg a => readReg64 a
    | .msix d i => return msixDword s d i + msixDword s d (i + 1) * 2 ^ 32
    | .pba d i => return pbaDword s d i + pbaDword s d (i + 1) * 2 ^ 32
    | .door _ _ => return 2 ^ 64 - 1
    | .push _ _ => return 0

/-- A read of any width on a path (00 R7, 01 R28): all ones where it is of the wrong width or alignment. -/
def readAny (via : Via) (o width : Nat) : M Nat := do
  let s ← cur
  match width, placeOf s via o with
  | 4, _ => read32 via o
  | 8, _ => read64 via o
  | 1, .reg a =>
    if 0x100 ≤ a ∧ a < 0x190 then return getF s (F.GLOBAL_TILE_MAP_PTILE (a - 0x100)) else return 2 ^ 8 - 1
  | _, _ => return 2 ^ (8 * width) - 1

end Sys2Proof.Machine
end

