-- ==== Sys2Proof/Machine/Bar0.lean ====
section
/-! DEFINITION. Register accesses (00 R4-R7, 01 R26, 12 R354, R355). -/
namespace Sys2Proof.Machine

/-- The access when the device answers on its path. -/
def onPath (via : Via) (m : M Unit) : M Unit := do
  let s ← cur
  whenB (answers s via) m

/-- A write of 4 or 8 bytes; any other is discarded (00 R7). -/
def writeAny (via : Via) (off width val : Nat) : M Unit :=
  match width with
  | 4 => write32 via off (val % 2 ^ 32)
  | 8 => write64 via off val
  | _ => pure ()

/-- A 32-bit read that answers. -/
def answer32 (via : Via) (off : Nat) : M Unit := do
  let x ← read32 via off
  send (.readData via x)

/-- REG_WRITE (00 R4). -/
def execRegWrite (via : Via) (off width : Nat) (val : W64) (s : State) : Host.Outcome State Fault Refusal :=
  act (onPath via (writeAny via off width val.toNat)) s

/-- REG_WRITE_LOWER_HALF (00 R7). -/
def execRegWriteLowerHalf (via : Via) (off : Nat) (val : W32) (s : State) : Host.Outcome State Fault Refusal :=
  act (onPath via (write32 via off val.toNat)) s

/-- REG_WRITE_UPPER_HALF (00 R7). -/
def execRegWriteUpperHalf (via : Via) (off : Nat) (val : W32) (s : State) : Host.Outcome State Fault Refusal :=
  act (onPath via (write32 via off val.toNat)) s

/-- REG_READ_LOWER_HALF (00 R7). -/
def execRegReadLowerHalf (via : Via) (off : Nat) (s : State) : Host.Outcome State Fault Refusal :=
  act (onPath via (answer32 via off)) s

/-- REG_READ_UPPER_HALF (00 R7). -/
def execRegReadUpperHalf (via : Via) (off : Nat) (s : State) : Host.Outcome State Fault Refusal :=
  act (onPath via (answer32 via off)) s

/-- REG_ACCESS_BAD_WIDTH (00 R7): a write is discarded, a read answers all ones. A read that is natural after all
answers its value (DEDUCED, log entry 44). -/
def execRegAccessBadWidth (via : Via) (off width : Nat) (write : Bool) (s : State) : Host.Outcome State Fault Refusal :=
  act (onPath via (whenB (!write) do
    let x ← readAny via off width
    send (.readData via x))) s

end Sys2Proof.Machine
end

