-- ==== Sys2Proof/Machine/VectorUnit.lean ====
section
/-! DEFINITION. The vector unit: elements, predication, length (03 R76-R79), and the shared shape of vector
instructions. -/
namespace Sys2Proof.Machine

/-- VL. -/
def vlNow (s : State) (t : Nat) : Nat := (getCsr s t csrVL).toNat

/-- n of R77 over the element types that an instruction reads or writes. -/
def nOf (s : State) (t : Nat) (ets : List Nat) : Nat := ets.foldl (fun n et => min n (vlmax et)) (vlNow s t)

/-- The widest of the types, in bits. -/
def widest (ets : List Nat) : Nat := ets.foldl (fun w et => max w (etWidth et)) 4

/-- Element k of width w bits of a vector register (03 R76). -/
def elem (v : BitVec 8192) (w k : Nat) : Nat := bits v.toNat (k * w + w - 1) (k * w)

/-- A vector register whose first elements of width w are the list's, the rest as before. -/
def packV (w : Nat) (l : List Nat) (old : BitVec 8192) : BitVec 8192 :=
  BitVec.ofNat 8192 (packW w l + old.toNat / 2 ^ (w * l.length) * 2 ^ (w * l.length))

/-- Element k of lanes of w bits is active under a predicate (03 R79). -/
def activeAt (p : BitVec 1024) (w k : Nat) : Bool := p.getLsbD (k * w / 8)

/-- Commit of a vector instruction: vector beats are counted (03 R65, 14 R413). -/
def commitV (t n w : Nat) : M Unit := do
  let s ← cur
  countEv 1 4 t (some (tileVi s t)) (max 1 (cdiv (n * w) 2048))
  commit t

/-- Issue of a vector instruction: with VL = 0 it is no operation (03 R78). -/
def vissue (t : TileNo) (row : Bool) (w : W64) (m : M Unit) : M Unit :=
  issue t row w do
    let s ← cur
    if vlNow s t = 0 then commit t else m

/-- The Spring output for element k (03 R85). -/
def vecG (s : State) (t rnd k : Nat) : Nat :=
  if rnd = 4 then
    spring (tileSeed s t) 0 (getCsr s t csrSRTID).toNat ((getCsr s t csrSRBASE).toNat + k)
  else 0

/-- Codes of a, b, c for element k of type ET (03 R73, R83): SS takes the place of VB when SC = 1. -/
def opA (s : State) (t : Nat) (w : W64) (et k : Nat) : Nat := elem (getV s t (vVA w)) (etWidth et) k
def opB (s : State) (t : Nat) (w : W64) (et k : Nat) : Nat :=
  if vSC w then (getS s t (vSS w)).toNat % 2 ^ etWidth et else elem (getV s t (vVB w)) (etWidth et) k
def opC (s : State) (t : Nat) (w : W64) (et k : Nat) : Nat := elem (getV s t (vVC w)) (etWidth et) k

/-- The elements 0 to n - 1 of a destination: computed where active, zero or unchanged where not (03 R79). -/
def vecElems (p : BitVec 1024) (lane : Nat) (zm : Bool) (old : BitVec 8192) (dw n : Nat) (res : Nat → Nat) : List Nat :=
  (upto n).map fun k => if activeAt p lane k then res k % 2 ^ dw else if zm then 0 else elem old dw k

/-- Flags of the active elements (03 R71). -/
def vecFlags (p : BitVec 1024) (lane n : Nat) (res : Nat → Nat) : Nat :=
  (upto n).foldl (fun f k => if activeAt p lane k then Nat.lor f (res k) else f) 0

/-- Writes elements of a destination of width dw with their flags, and commits. -/
def vecWrite (t vd pg lane : Nat) (zm : Bool) (dw n : Nat) (res : Nat → Nat × Nat) : M Unit := do
  let s ← cur
  let p := getP s t pg
  setFlags t (vecFlags p lane n fun k => (res k).2)
  emit (.vreg t vd (packV dw (vecElems p lane zm (getV s t vd) dw n fun k => (res k).1) (getV s t vd)))
  commitV t n lane

/-- An element-wise instruction on one type: the result of a, b, c and the Spring output. -/
def vecOp (t : TileNo) (w : W64) (op : Nat) (f : Nat → Nat → Nat → Nat → Nat × Nat) : M Unit :=
  vissue t (opIs op w) w do
    let s ← cur
    let et := vET w
    vecWrite t (vVD w) (vPG w) (etWidth et) (vZM w) (etWidth et) (nOf s t [et]) fun k =>
      f (opA s t w et k) (opB s t w et k) (opC s t w et k) (vecG s t (vRnd w) k)

/-- A two-operand arithmetic of an element type: an integer one wraps, a floating one narrows (03 R83, R84). -/
def arith2 (et rnd ovf g a b : Nat) (fi : Int → Int → Int) (ff : Nat → Ex → Ex → ExF) : Nat × Nat :=
  match etFmt et with
  | some f => fbin ff f rnd ovf g a b
  | none => (ofI (etWidth et) (fi (etToInt et a) (etToInt et b)), 0)

/-- A one-operand arithmetic. -/
def arith1 (et rnd ovf g a : Nat) (fi : Int → Int) (ff : Ex → ExF) : Nat × Nat :=
  match etFmt et with
  | some f => fres f rnd ovf g (snan1 f a) (ff (decodeF f a))
  | none => (ofI (etWidth et) (fi (etToInt et a)), 0)

/-- A two-operand instruction. -/
def vec2 (t : TileNo) (w : W64) (op : Nat) (fi : Int → Int → Int) (ff : Nat → Ex → Ex → ExF) : M Unit :=
  vecOp t w op fun a b _ g => arith2 (vET w) (vRnd w) (vOvf w) g a b fi ff

/-- A one-operand instruction. -/
def vec1 (t : TileNo) (w : W64) (op : Nat) (fi : Int → Int) (ff : Ex → ExF) : M Unit :=
  vecOp t w op fun a _ _ g => arith1 (vET w) (vRnd w) (vOvf w) g a fi ff

/-- A fused multiply-add of codes of a format. -/
def fmaCode (f : Fmt) (rnd ovf g a b c : Nat) : Nat × Nat :=
  fres f rnd ovf g (Nat.lor (snan2 f a b) (snan1 f c)) (exFma rnd (decodeF f a) (decodeF f b) (decodeF f c))

/-- A predicate from a Boolean per element: all lanes of an element, inactive ones and those beyond n clear (03 R79).
`lane` is the element width in bits. -/
def predOf (p : BitVec 1024) (lane n : Nat) (f : Nat → Bool) : BitVec 1024 :=
  BitVec.ofNat 1024 (sumOf (fun i =>
    let k := i * 8 / lane
    if k < n ∧ activeAt p lane k = true ∧ f k = true then 2 ^ i else 0) (upto 1024))

/-- Writes a predicate and commits. -/
def predWrite (t : TileNo) (w : W64) (lane n : Nat) (f : Nat → Bool) : M Unit := do
  let s ← cur
  emit (.preg t (vVD w % 8) (predOf (getP s t (vPG w)) lane n f))
  commitV t n lane

end Sys2Proof.Machine
end

