-- ==== Sys2Proof/Machine/Matrix.lean ====
section
/-! DEFINITION. The meanings of the matrix instructions (04 R102-R117). -/
namespace Sys2Proof.Machine

/-- M, N and K of the shape of an operand type (04 R102). -/
def shapeM (f64 : Bool) : Nat := if f64 then 32 else 64
def shapeN (f64 : Bool) : Nat := if f64 then 32 else 128
def shapeK (f64 : Bool) : Nat := if f64 then 32 else 64

/-- Offset in the tile's own pond of an address (04 R106). -/
def ownPondOff (s : State) (t a acc : Nat) : Option Nat :=
  match translate s (tileVi s t) (some t) a acc with
  | .ok (.pond u off) => if u = t then some off else none
  | _ => none

/-- The first byte of `rows` rows of `len` bytes, `ld` apart from a base address, that lies outside the pond: the base
where it is not in the pond at all (04 R106). -/
def outOfPond (s : State) (t base acc rows ld len : Nat) : Option Nat :=
  match ownPondOff s t base acc with
  | none => some base
  | some off =>
    match (upto rows).find? fun r => decide (pondSize < off + r * ld + len) with
    | some r => some (base + (max (off + r * ld) pondSize - off))
    | none => none

/-- An operand as stored: base address, accesses, rows, stride and bytes of a row. -/
structure Operand where
  base : Nat
  acc : Nat
  rows : Nat
  ld : Nat
  len : Nat

/-- The address for which an operand raises ALIGN, if any (04 R106). `strict` asks for multiples of 64 bytes. -/
def operandAlign (s : State) (t : Nat) (strict : Bool) (o : Operand) : Option Nat :=
  if strict && (o.base % 64 != 0 || o.ld % 64 != 0) then some o.base else outOfPond s t o.base o.acc o.rows o.ld o.len

/-- A and B of an MMA, and the block-code tables (04 R105, R116). -/
def mmaOperand (s : State) (t : Nat) (w d : W64) : List (Bool × Operand) :=
  let a := (getS s t (xSA w)).toNat
  let b := (getS s t (xSB w)).toNat
  let ea := etBytes (xETA w)
  let eb := etBytes (xETB w)
  [(true, if mmaTA w then ⟨a, aRead, dimK d, dimLDA d, dimM d * ea⟩ else ⟨a, aRead, dimM d, dimLDA d, dimK d * ea⟩),
   (true, if mmaTB w then ⟨b, aRead, dimN d, dimLDB d, dimK d * eb⟩ else ⟨b, aRead, dimK d, dimLDB d, dimN d * eb⟩)] ++
  (if xSC w then
    [(false, ⟨(getS s t (xSS w)).toNat, aRead, dimM d, 2, 2⟩),
     (false, ⟨(getS s t (xSS w + 1)).toNat, aRead, dimN d, 2, 2⟩)]
   else [])

/-- The first operand that raises ALIGN. -/
def firstAlign (s : State) (t : Nat) : List (Bool × Operand) → Option Nat
  | [] => none
  | p :: l =>
    match operandAlign s t p.1 p.2 with
    | some a => some a
    | none => firstAlign s t l

/-- The matrix instruction enters the unit, the oldest completing when two are there (04 R103), and commits (R117). -/
def matIssue (t : Nat) (o : MatOp) : M Unit := do
  let s ← cur
  whenB (decide (2 ≤ (tileOf s t).core.mat.length)) (matStep t)
  modCore t fun c => { c with mat := c.mat ++ [o] }
  commit t

/-- A matrix instruction with dimensions: a zero one is no operation (04 R107), then the shape and the tag (R106),
then the operands, then issue. -/
def matCheck (t : Nat) (w : W64) (illegal : State → W64 → Bool) (ops : State → W64 → List (Bool × Operand))
    (op : State → W64 → MatOp) (m : M Unit) : M Unit := do
  let s ← cur
  let d := getS s t (xSM w)
  if dimM d = 0 ∨ dimN d = 0 ∨ dimK d = 0 then commit t
  else
    waitAcc t (xACD w)
    let s ← cur
    if illegal s d then raise t xIllegal w
    else
      match firstAlign s t (ops s d) with
      | some a => raise t xAlign (BitVec.ofNat 64 a)
      | none =>
        m
        matIssue t (op s d)

/-- Offset of an operand that has been checked. -/
def pondOff (s : State) (t i : Nat) : Nat := (ownPondOff s t (getS s t i).toNat aRead).getD 0

/-- MMA in its four forms (04 R102-R107, R112-R116). -/
def mmaForm (t : TileNo) (w : W64) (op : Nat) : M Unit :=
  issue t (opIs op w) w (matCheck t w
    (fun s d =>
      let f64 := xETA w == 8
      decide (shapeM f64 < dimM d ∨ shapeN f64 < dimN d ∨ shapeK f64 < dimK d) || accF64 s t (xACD w) != f64)
    (fun s d => mmaOperand s t w d)
    (fun s d => { w, dims := d, a := pondOff s t (xSA w), b := pondOff s t (xSB w), ss := getS s t (xSS w),
                  ss1 := getS s t (xSS w + 1) })
    (do
      let s ← cur
      countEv 1 3 t (some (tileVi s t)) 1))

/-- The block of an MLD or MST in the pond (04 R104, R105). -/
def blockOperand (s : State) (t : Nat) (w d : W64) (acc : Nat) : List (Bool × Operand) :=
  [(true, ⟨(getS s t (xSA w)).toNat, acc, dimM d, dimLDA d, dimN d * etBytes (xETA w)⟩)]

/-- MLD and MST as the unit holds them. -/
def blockOp (s : State) (t : Nat) (w d : W64) : MatOp :=
  { w, dims := d, a := pondOff s t (xSA w), b := 0, ss := getS s t (xSS w), ss1 := 0 }

/-- MMA (04 R105, R112). -/
def execMma (t : TileNo) (w : W64) (s : State) : Host.Outcome State Fault Refusal := act (mmaForm t w 0x90) s
/-- MMA.TA (04 R105, R114). -/
def execMmaTa (t : TileNo) (w : W64) (s : State) : Host.Outcome State Fault Refusal := act (mmaForm t w 0x91) s
/-- MMA.TB (04 R105, R114). -/
def execMmaTb (t : TileNo) (w : W64) (s : State) : Host.Outcome State Fault Refusal := act (mmaForm t w 0x92) s
/-- MMA.TATB (04 R105, R114). -/
def execMmaTatb (t : TileNo) (w : W64) (s : State) : Host.Outcome State Fault Refusal := act (mmaForm t w 0x93) s

/-- MZERO (04 R105, R108). -/
def execMzero (t : TileNo) (w : W64) (s : State) : Host.Outcome State Fault Refusal :=
  act (issue t (opIs 0x94 w) w do
    waitAcc t (xACD w)
    setTag t (xACD w) (xETA w == 8) true
    commit t) s

/-- MLD (04 R105-R108, R110). -/
def execMld (t : TileNo) (w : W64) (s : State) : Host.Outcome State Fault Refusal :=
  act (issue t (opIs 0x95 w) w (matCheck t w
    (fun _ d => decide (shapeM (xETA w == 8) < dimM d ∨ shapeN (xETA w == 8) < dimN d))
    (fun s d => blockOperand s t w d aRead) (fun s d => blockOp s t w d) (pure ()))) s

/-- MST (04 R105-R109). -/
def execMst (t : TileNo) (w : W64) (s : State) : Host.Outcome State Fault Refusal :=
  act (issue t (opIs 0x96 w) w (matCheck t w
    (fun s d => decide (shapeM (accF64 s t (xACD w)) < dimM d ∨ shapeN (accF64 s t (xACD w)) < dimN d))
    (fun s d => blockOperand s t w d aWrite) (fun s d => blockOp s t w d) (pure ()))) s

/-- MROW on a row of the accumulator (04 R111). -/
def rowForm (t : TileNo) (w : W64) (op : Nat) (m : Bool → M Unit) : M Unit :=
  issue t (opIs op w) w do
    waitAcc t (xACD w)
    let s ← cur
    let f64 := accF64 s t (xACD w)
    if accRows f64 ≤ xRow w then raise t xIllegal w
    else do
      m f64
      commit t

/-- MROW.R (04 R111). -/
def execMrowR (t : TileNo) (w : W64) (s : State) : Host.Outcome State Fault Refusal :=
  act (rowForm t w 0x97 fun f64 => do
    let s ← cur
    emit (.vreg t (xVR w) (packV (if f64 then 64 else 32)
      ((upto (accCols f64)).map fun c => accElem s t (xACD w) (xRow w) c) (getV s t (xVR w))))) s

/-- MROW.W (04 R111). -/
def execMrowW (t : TileNo) (w : W64) (s : State) : Host.Outcome State Fault Refusal :=
  act (rowForm t w 0x98 fun f64 => do
    let s ← cur
    (upto (accCols f64)).forM fun c =>
      emit (.acc t (accKey f64 (xACD w) (xRow w) c)
        (BitVec.ofNat 64 (elem (getV s t (xVR w)) (if f64 then 64 else 32) c)))) s

/-- MATRIX_COMPLETE (04 R115, R117). -/
def execMatrixComplete (t : TileNo) (s : State) : Host.Outcome State Fault Refusal :=
  act (whenB (enginesRun s) (matStep t)) s

end Sys2Proof.Machine
end

