-- ==== Sys2Proof/Machine/Mgmt.lean ====
section
/-! DEFINITION. The board controller's SPI slave (15 R444, R445), register access datagrams (15 R446), attestation
(15 R435) and configuration requests (15 R431, 12 R350, R352, R366). -/
namespace Sys2Proof.Machine

/-! Frames (R444). -/

def spOp (w0 : Nat) : Nat := bits w0 31 28
def opRead : Nat := 1
def opWrite : Nat := 2
/-- N data words. -/
def spN (w0 : Nat) : Nat := bits w0 23 20 + 1
/-- BAR0 offset. -/
def spOff (w1 : Nat) : Nat := bits w1 25 0

/-- Bytes of words in the order they are sent, most significant bit first. -/
def sentBytes (l : List W32) : List Byte := l.flatMap fun w => (bytesOf 4 w.toNat).reverse

/-- CRC-32C over words. -/
def spCrc (l : List W32) : W32 := BitVec.ofNat 32 (crc32c (sentBytes l))

/-- Word i of a frame. -/
def spWord (l : List W32) (i : Nat) : Nat := (l.getD i 0).toNat

/-- Data word k is written at offset + 4 k. -/
def frameWrite (via : Via) (l : List W32) : M Unit :=
  (upto (spN (spWord l 0))).forM fun k => write32 via (spOff (spWord l 1) + 4 * k) (spWord l (2 + k))

/-- The N data words of a READ from an offset, in order. -/
def frameRead (via : Via) : Nat → Nat → M (List W32)
  | 0, _ => return []
  | n + 1, o => do
    let x ← read32 via o
    let l ← frameRead via n (o + 4)
    return BitVec.ofNat 32 x :: l

/-! The SPI slave (R445). -/

/-- Words of a whole frame. -/
def spLen (w0 : Nat) : Nat := if spOp w0 = opRead then spN w0 + 5 else spN w0 + 3

/-- Whether select rose after a whole frame. -/
def spWhole (f : SpiFrame) : Bool :=
  decide (1 ≤ f.words.length ∧ 32 * spLen (spWord f.words 0) ≤ f.edges ∧ spLen (spWord f.words 0) ≤ f.words.length)

/-- Clock edges beyond the frame. -/
def spOver (f : SpiFrame) : M Unit :=
  whenB (decide (32 * spLen (spWord f.words 0) < f.edges)) (addSat F.MGMT_SPI_STAT_OVERCLK 1)

/-- A WRITE, or a frame that is none. -/
def spiPut (f : SpiFrame) : M Unit :=
  if f.words ≠ [] ∧ spOp (spWord f.words 0) = opRead then pure ()
  else if spWhole f = false ∨ spOp (spWord f.words 0) ≠ opWrite then addSat F.MGMT_SPI_STAT_FRAME_ERR 1
  else do
    let n := spN (spWord f.words 0)
    spOver f
    if spWord f.words (2 + n) = (spCrc (f.words.take (2 + n))).toNat then frameWrite .spi f.words
    else addSat F.MGMT_SPI_STAT_CRC_ERR 1

/-- SPI_WRITE. -/
def execSpiWrite (f : SpiFrame) (s : State) : Host.Outcome State Fault Refusal := act (onPath .spi (spiPut f)) s

/-- A READ: a turnaround word of zeros, the data and its CRC. A discarded READ has no effect. -/
def spiGet (f : SpiFrame) : M Unit := do
  if spWhole f = false ∨ spOp (spWord f.words 0) ≠ opRead then pure ()
  else do
    spOver f
    if spWord f.words 2 = (spCrc (f.words.take 2)).toNat then do
      let l ← frameRead .spi (spN (spWord f.words 0)) (spOff (spWord f.words 1))
      send (.spi (0 :: l ++ [spCrc l]))
    else pure ()

/-- SPI_READ. -/
def execSpiRead (f : SpiFrame) (s : State) : Host.Outcome State Fault Refusal := act (onPath .spi (spiGet f)) s

/-! Datagrams (R446). -/

/-- Whether a datagram carries one frame of R444 without its CRC words. -/
def dgOk (l : List W32) : Bool :=
  let w0 := spWord l 0
  (spOp w0 == opWrite && l.length == spN w0 + 2) || (spOp w0 == opRead && l.length == 2)

/-- A datagram: its answer holds the data words of a READ; one that is not accepted is dropped and counted. -/
def dgTake (l : List W32) (inSession : Bool) (answer : List W32 → M Unit) : M Unit :=
  if inSession = false ∨ dgOk l = false then modBoot fun y => { y with dropped := y.dropped + 1 }
  else if spOp (spWord l 0) = opWrite then do
    frameWrite .mgmt l
    answer []
  else do
    let d ← frameRead .mgmt (spN (spWord l 0)) (spOff (spWord l 1))
    answer d

/-- MGMT_DATAGRAM: the answer leaves on the port of the request. -/
def execMgmtDatagram (port : Fin 2) (words : List W32) (inSession : Bool) (s : State) : Host.Outcome State Fault Refusal :=
  act (onPath .mgmt (dgTake words inSession fun l => send (.datagram port l))) s

/-- Words as the payload of a frame. -/
def dgBytes (l : List W32) : List Byte := l.flatMap fun w => bytesOf 4 w.toNat

/-- MGMT: a datagram in a KIND MGMT frame of TC7 (11 R321); the answer returns to its sender with its tunnel sequence.
It is addressed to the device, not to a VI, so containment does not discard it (13 R377). -/
def execMgmt (a : Addr) (seq : W32) (datagram : List W32) (inSession : Bool) (s : State) :
    Host.Outcome State Fault Refusal :=
  act (do
    let s ← cur
    whenB (live s && a.tc.val == 7 && epochOk s a.epoch.toNat)
      (dgTake datagram inSession fun l => do
        let t ← cur
        send (.send 7 (mkHdr t 5 a.sdev a.svi a.sinc 0 0 (4 * l.length)
          (BitVec.ofNat 64 (seq.toNat + 4 * l.length * 2 ^ 32)) 0) (dgBytes l)))) s

/-! Attestation (R435). -/

/-- A measurement. -/
def measurement (s : State) (index : Nat) : Option (List Byte) :=
  match index with
  | 1 => some Config.romVersion
  | 2 => some (bytesOf 48 s.sys.boot.fwHash.toNat)
  | 3 => some (bytesOf 48 s.sys.boot.profHash.toNat)
  | 4 => some (bytesOf 8 s.sys.boot.fuseVersion ++ Config.revocation)
  | _ => none

/-- SPDM_REQUEST: a signed measurement. -/
def execSpdmRequest (index : Nat) (s : State) : Host.Outcome State Fault Refusal :=
  act (do
    let s ← cur
    whenB (clocked s && decide (stageSelftest ≤ bootStage s ∧ bootStage s ≠ stageRecovery))
      (match measurement s index with
      | some m => send (.spdm index m (Config.sign m))
      | none => pure ())) s

/-! Configuration requests. -/

/-- What a configuration request sets. -/
def cfgApply (d : LinkNo) (r : CfgReq) : M Unit := do
  let s ← cur
  match r with
  | .other => pure ()
  | .maskVector vec masked => whenB (decide (vec < 2048)) (maskSet d vec masked)
  | .sizeBar2 gib =>
    whenB ((upto 10).any fun k => gib == 2 ^ k) (modHost fun y => { y with bar2Size := smSet 0 y.bar2Size d gib })
  | .enableCache on => whenB (flag s (F.HOST_LINK_CXL d)) (putF (F.HOST_LINK_CACHEEN d) (b2n on))
  | .enableMem on => whenB (flag s (F.HOST_LINK_CXL d)) (putF (F.HOST_LINK_MEMEN d) (b2n on))

/-- CONFIGURATION_REQUEST (R431, R432, R434): retry until a profile has been tried; none in BOOT_FAIL and RECOVERY. -/
def execConfigurationRequest (d : LinkNo) (r : CfgReq) (s : State) : Host.Outcome State Fault Refusal :=
  act (do
    let s ← cur
    whenB (live s && s.sys.boot.linksTrain && flag s (F.HOST_LINK_LINKUP d))
      (if bootStage s = stageReady ∨ bootStage s = stageNoProfile then do
        cfgApply d r
        send (.config d false)
      else send (.config d true))) s

end Sys2Proof.Machine
end

