-- ==== Sys2Proof/Machine/Scalar.lean ====
section
/-! DEFINITION. The meanings of the scalar instructions (03 R80-R82). -/
namespace Sys2Proof.Machine

/-- An integer instruction on two registers. -/
def aluRR (t : TileNo) (w : W64) (fn : Nat) (f : W64 → W64 → W64) : M Unit :=
  issue t (fnIs 0 fn w) w do
    let s ← cur
    writeS t (oSD w) (f (getS s t (oSA w)) (getS s t (oSB w)))

/-- An integer instruction on a register and the sign-extended immediate. -/
def aluRI (t : TileNo) (w : W64) (op : Nat) (f : W64 → W64 → W64) : M Unit :=
  issue t (opIs op w) w do
    let s ← cur
    writeS t (oSD w) (f (getS s t (oSA w)) (w64I (oImm w)))

/-- A floating instruction: the result of the codes of SA, SB and SD, its flags, and commit. -/
def fpOp (t : TileNo) (w : W64) (op fn : Nat) (r : Nat → W64 → W64 → W64 → Nat × Nat) : M Unit :=
  issue t (fnIs op fn w) w do
    let s ← cur
    let x := r (scalarG s t (oRnd w)) (getS s t (oSA w)) (getS s t (oSB w)) (getS s t (oSD w))
    setFlags t x.2
    writeS t (oSD w) (BitVec.ofNat 64 x.1)

/-- Two-operand floating instruction of a format. -/
def fpBin (t : TileNo) (w : W64) (f : Fmt) (op fn : Nat) (g : Nat → Ex → Ex → ExF) : M Unit :=
  fpOp t w op fn fun sr a b _ => fbin g f (oRnd w) (oOvf w) sr (fcode f a) (fcode f b)

/-- Square root. -/
def fpSqrt (t : TileNo) (w : W64) (f : Fmt) (op : Nat) : M Unit :=
  fpOp t w op 0x04 fun sr a _ _ =>
    fres f (oRnd w) (oOvf w) sr (snan1 f (fcode f a)) (exSqrt (decodeF f (fcode f a)))

/-- Fused multiply-add: SA × SB + SD. -/
def fpFma (t : TileNo) (w : W64) (f : Fmt) (op : Nat) : M Unit :=
  fpOp t w op 0x07 fun sr a b d =>
    fres f (oRnd w) (oOvf w) sr (Nat.lor (snan2 f (fcode f a) (fcode f b)) (snan1 f (fcode f d)))
      (exFma (oRnd w) (decodeF f (fcode f a)) (decodeF f (fcode f b)) (decodeF f (fcode f d)))

/-- A comparison: NaN gives 0 and only a signalling NaN sets NV (03 R71, R80, DEDUCED, log entry 17). -/
def fpCmp (t : TileNo) (w : W64) (f : Fmt) (op fn : Nat) (p : Ordering → Bool) : M Unit :=
  fpOp t w op fn fun _ a b _ => fcmp p f (fcode f a) (fcode f b)

/-- FCVT from one type to another (03 R75, R84). -/
def fpCvt (t : TileNo) (w : W64) (fn src dst : Nat) : M Unit :=
  fpOp t w 3 fn fun sr a _ _ =>
    let c := convert src dst (oRnd w) (oOvf w) sr (a.toNat % 2 ^ etWidth src)
    (c.code, c.flags)

/-- PC-relative target, in instructions (03 R80). -/
def jumpTo (pc : BitVec 48) (off : Int) : BitVec 48 := pc + BitVec.ofNat 48 (ofI 48 (8 * off))

/-- A conditional branch. -/
def branch (t : TileNo) (w : W64) (op : Nat) (p : W64 → W64 → Bool) : M Unit :=
  issue t (opIs op w) w do
    let s ← cur
    let pc := (tileOf s t).core.pc
    if p (getS s t (bSA w)) (getS s t (bSB w)) then commitTo t (jumpTo pc (oImm w)) else commit t

/-- Effective address of a scalar load or store. -/
def memAddr (s : State) (t : TileNo) (w : W64) : Nat := effAddr (getS s t (oSA w)) (oImm w)

/-- A scalar load of n bytes (03 R80, R82). -/
def load (t : TileNo) (w : W64) (op n : Nat) (f : Nat → W64) : M Unit :=
  issue t (opIs op w) w do
    let s ← cur
    let a := memAddr s t w
    if a % n ≠ 0 then raise t xAlign (BitVec.ofNat 64 a)
    else tileLoad t (addrs a n) fun l => writeS t (oSD w) (f (ofBytes l))

/-- A scalar store of the low n bytes of SS (03 R80, R82). -/
def store (t : TileNo) (w : W64) (op n : Nat) : M Unit :=
  issue t (opIs op w) w do
    let s ← cur
    let a := memAddr s t w
    if a % n ≠ 0 then raise t xAlign (BitVec.ofNat 64 a)
    else tileStore t ((addrs a n).zip (bytesOf n (getS s t (oSD w)).toNat)) (commit t)

/-- A zero-extended and a sign-extended result. -/
def zext (x : Nat) : W64 := BitVec.ofNat 64 x
def sext (n x : Nat) : W64 := w64I (toI n x)


/-- ADD (03 R80). -/
def execAdd (t : TileNo) (w : W64) (s : State) : Host.Outcome State Fault Refusal :=
  act (aluRR t w 0x00 (fun a b => a + b)) s

/-- SUB (03 R80). -/
def execSub (t : TileNo) (w : W64) (s : State) : Host.Outcome State Fault Refusal :=
  act (aluRR t w 0x01 (fun a b => a - b)) s

/-- MUL (03 R80). -/
def execMul (t : TileNo) (w : W64) (s : State) : Host.Outcome State Fault Refusal :=
  act (aluRR t w 0x02 (fun a b => a * b)) s

/-- MULH (03 R80). -/
def execMulh (t : TileNo) (w : W64) (s : State) : Host.Outcome State Fault Refusal :=
  act (aluRR t w 0x03 mulHS) s

/-- MULHU (03 R80). -/
def execMulhu (t : TileNo) (w : W64) (s : State) : Host.Outcome State Fault Refusal :=
  act (aluRR t w 0x04 mulHU) s

/-- DIV (03 R81). -/
def execDiv (t : TileNo) (w : W64) (s : State) : Host.Outcome State Fault Refusal :=
  act (aluRR t w 0x05 divS) s

/-- DIVU (03 R81). -/
def execDivu (t : TileNo) (w : W64) (s : State) : Host.Outcome State Fault Refusal :=
  act (aluRR t w 0x06 divU) s

/-- REM (03 R81). -/
def execRem (t : TileNo) (w : W64) (s : State) : Host.Outcome State Fault Refusal :=
  act (aluRR t w 0x07 remS) s

/-- REMU (03 R81). -/
def execRemu (t : TileNo) (w : W64) (s : State) : Host.Outcome State Fault Refusal :=
  act (aluRR t w 0x08 remU) s

/-- AND (03 R80). -/
def execAnd (t : TileNo) (w : W64) (s : State) : Host.Outcome State Fault Refusal :=
  act (aluRR t w 0x09 (fun a b => a &&& b)) s

/-- OR (03 R80). -/
def execOr (t : TileNo) (w : W64) (s : State) : Host.Outcome State Fault Refusal :=
  act (aluRR t w 0x0a (fun a b => a ||| b)) s

/-- XOR (03 R80). -/
def execXor (t : TileNo) (w : W64) (s : State) : Host.Outcome State Fault Refusal :=
  act (aluRR t w 0x0b (fun a b => a ^^^ b)) s

/-- SHL (03 R80). -/
def execShl (t : TileNo) (w : W64) (s : State) : Host.Outcome State Fault Refusal :=
  act (aluRR t w 0x0c shL) s

/-- SHR (03 R80). -/
def execShr (t : TileNo) (w : W64) (s : State) : Host.Outcome State Fault Refusal :=
  act (aluRR t w 0x0d shR) s

/-- SAR (03 R80). -/
def execSar (t : TileNo) (w : W64) (s : State) : Host.Outcome State Fault Refusal :=
  act (aluRR t w 0x0e saR) s

/-- SLT (03 R80). -/
def execSlt (t : TileNo) (w : W64) (s : State) : Host.Outcome State Fault Refusal :=
  act (aluRR t w 0x0f (fun a b => boolW (ltS a b))) s

/-- SLTU (03 R80). -/
def execSltu (t : TileNo) (w : W64) (s : State) : Host.Outcome State Fault Refusal :=
  act (aluRR t w 0x10 (fun a b => boolW (ltU a b))) s

/-- FADD.F64 (03 R80). -/
def execFaddF64 (t : TileNo) (w : W64) (s : State) : Host.Outcome State Fault Refusal :=
  act (fpBin t w .f64 1 0x00 exAdd) s

/-- FSUB.F64 (03 R80). -/
def execFsubF64 (t : TileNo) (w : W64) (s : State) : Host.Outcome State Fault Refusal :=
  act (fpBin t w .f64 1 0x01 (fun r x y => exAdd r x (exNeg y))) s

/-- FMUL.F64 (03 R80). -/
def execFmulF64 (t : TileNo) (w : W64) (s : State) : Host.Outcome State Fault Refusal :=
  act (fpBin t w .f64 1 0x02 (fun _ x y => exMul x y)) s

/-- FDIV.F64 (03 R80). -/
def execFdivF64 (t : TileNo) (w : W64) (s : State) : Host.Outcome State Fault Refusal :=
  act (fpBin t w .f64 1 0x03 (fun _ x y => exDiv x y)) s

/-- FSQRT.F64 (03 R80). -/
def execFsqrtF64 (t : TileNo) (w : W64) (s : State) : Host.Outcome State Fault Refusal :=
  act (fpSqrt t w .f64 1) s

/-- FMIN.F64 (03 R81). -/
def execFminF64 (t : TileNo) (w : W64) (s : State) : Host.Outcome State Fault Refusal :=
  act (fpBin t w .f64 1 0x05 (fun _ x y => (exMin false x y, 0))) s

/-- FMAX.F64 (03 R81). -/
def execFmaxF64 (t : TileNo) (w : W64) (s : State) : Host.Outcome State Fault Refusal :=
  act (fpBin t w .f64 1 0x06 (fun _ x y => (exMin true x y, 0))) s

/-- FFMA.F64 (03 R80). -/
def execFfmaF64 (t : TileNo) (w : W64) (s : State) : Host.Outcome State Fault Refusal :=
  act (fpFma t w .f64 1) s

/-- FCMP.EQ.F64 (03 R80). -/
def execFcmpEqF64 (t : TileNo) (w : W64) (s : State) : Host.Outcome State Fault Refusal :=
  act (fpCmp t w .f64 1 0x08 (fun o => o == .eq)) s

/-- FCMP.LT.F64 (03 R80). -/
def execFcmpLtF64 (t : TileNo) (w : W64) (s : State) : Host.Outcome State Fault Refusal :=
  act (fpCmp t w .f64 1 0x09 (fun o => o == .lt)) s

/-- FCMP.LE.F64 (03 R80). -/
def execFcmpLeF64 (t : TileNo) (w : W64) (s : State) : Host.Outcome State Fault Refusal :=
  act (fpCmp t w .f64 1 0x0a (fun o => o != .gt)) s

/-- FADD.F32 (03 R80). -/
def execFaddF32 (t : TileNo) (w : W64) (s : State) : Host.Outcome State Fault Refusal :=
  act (fpBin t w .f32 2 0x00 exAdd) s

/-- FSUB.F32 (03 R80). -/
def execFsubF32 (t : TileNo) (w : W64) (s : State) : Host.Outcome State Fault Refusal :=
  act (fpBin t w .f32 2 0x01 (fun r x y => exAdd r x (exNeg y))) s

/-- FMUL.F32 (03 R80). -/
def execFmulF32 (t : TileNo) (w : W64) (s : State) : Host.Outcome State Fault Refusal :=
  act (fpBin t w .f32 2 0x02 (fun _ x y => exMul x y)) s

/-- FDIV.F32 (03 R80). -/
def execFdivF32 (t : TileNo) (w : W64) (s : State) : Host.Outcome State Fault Refusal :=
  act (fpBin t w .f32 2 0x03 (fun _ x y => exDiv x y)) s

/-- FSQRT.F32 (03 R80). -/
def execFsqrtF32 (t : TileNo) (w : W64) (s : State) : Host.Outcome State Fault Refusal :=
  act (fpSqrt t w .f32 2) s

/-- FMIN.F32 (03 R81). -/
def execFminF32 (t : TileNo) (w : W64) (s : State) : Host.Outcome State Fault Refusal :=
  act (fpBin t w .f32 2 0x05 (fun _ x y => (exMin false x y, 0))) s

/-- FMAX.F32 (03 R81). -/
def execFmaxF32 (t : TileNo) (w : W64) (s : State) : Host.Outcome State Fault Refusal :=
  act (fpBin t w .f32 2 0x06 (fun _ x y => (exMin true x y, 0))) s

/-- FFMA.F32 (03 R80). -/
def execFfmaF32 (t : TileNo) (w : W64) (s : State) : Host.Outcome State Fault Refusal :=
  act (fpFma t w .f32 2) s

/-- FCMP.EQ.F32 (03 R80). -/
def execFcmpEqF32 (t : TileNo) (w : W64) (s : State) : Host.Outcome State Fault Refusal :=
  act (fpCmp t w .f32 2 0x08 (fun o => o == .eq)) s

/-- FCMP.LT.F32 (03 R80). -/
def execFcmpLtF32 (t : TileNo) (w : W64) (s : State) : Host.Outcome State Fault Refusal :=
  act (fpCmp t w .f32 2 0x09 (fun o => o == .lt)) s

/-- FCMP.LE.F32 (03 R80). -/
def execFcmpLeF32 (t : TileNo) (w : W64) (s : State) : Host.Outcome State Fault Refusal :=
  act (fpCmp t w .f32 2 0x0a (fun o => o != .gt)) s

/-- FCVT.F64F32: the destination is named first (03 R75, R80, R84). -/
def execFcvtF64F32 (t : TileNo) (w : W64) (s : State) : Host.Outcome State Fault Refusal :=
  act (fpCvt t w 0 9 8) s

/-- FCVT.F32F64: the destination is named first (03 R75, R80, R84). -/
def execFcvtF32F64 (t : TileNo) (w : W64) (s : State) : Host.Outcome State Fault Refusal :=
  act (fpCvt t w 1 8 9) s

/-- FCVT.F64I64: the destination is named first (03 R75, R80, R84). -/
def execFcvtF64I64 (t : TileNo) (w : W64) (s : State) : Host.Outcome State Fault Refusal :=
  act (fpCvt t w 2 3 8) s

/-- FCVT.F32I64: the destination is named first (03 R75, R80, R84). -/
def execFcvtF32I64 (t : TileNo) (w : W64) (s : State) : Host.Outcome State Fault Refusal :=
  act (fpCvt t w 3 3 9) s

/-- FCVT.I64F64: the destination is named first (03 R75, R80, R84). -/
def execFcvtI64F64 (t : TileNo) (w : W64) (s : State) : Host.Outcome State Fault Refusal :=
  act (fpCvt t w 4 8 3) s

/-- FCVT.I64F32: the destination is named first (03 R75, R80, R84). -/
def execFcvtI64F32 (t : TileNo) (w : W64) (s : State) : Host.Outcome State Fault Refusal :=
  act (fpCvt t w 5 9 3) s

/-- ADDI (03 R80). -/
def execAddi (t : TileNo) (w : W64) (s : State) : Host.Outcome State Fault Refusal :=
  act (aluRI t w 0x10 (fun a b => a + b)) s

/-- ANDI (03 R80). -/
def execAndi (t : TileNo) (w : W64) (s : State) : Host.Outcome State Fault Refusal :=
  act (aluRI t w 0x11 (fun a b => a &&& b)) s

/-- ORI (03 R80). -/
def execOri (t : TileNo) (w : W64) (s : State) : Host.Outcome State Fault Refusal :=
  act (aluRI t w 0x12 (fun a b => a ||| b)) s

/-- XORI (03 R80). -/
def execXori (t : TileNo) (w : W64) (s : State) : Host.Outcome State Fault Refusal :=
  act (aluRI t w 0x13 (fun a b => a ^^^ b)) s

/-- SHLI (03 R80). -/
def execShli (t : TileNo) (w : W64) (s : State) : Host.Outcome State Fault Refusal :=
  act (aluRI t w 0x14 shL) s

/-- SHRI (03 R80). -/
def execShri (t : TileNo) (w : W64) (s : State) : Host.Outcome State Fault Refusal :=
  act (aluRI t w 0x15 shR) s

/-- SARI (03 R80). -/
def execSari (t : TileNo) (w : W64) (s : State) : Host.Outcome State Fault Refusal :=
  act (aluRI t w 0x16 saR) s

/-- SLTI (03 R80). -/
def execSlti (t : TileNo) (w : W64) (s : State) : Host.Outcome State Fault Refusal :=
  act (aluRI t w 0x17 (fun a b => boolW (ltS a b))) s

/-- MOVI (03 R80). -/
def execMovi (t : TileNo) (w : W64) (s : State) : Host.Outcome State Fault Refusal :=
  act (aluRI t w 0x18 (fun _ b => b)) s

/-- MOVHI (03 R80). -/
def execMovhi (t : TileNo) (w : W64) (s : State) : Host.Outcome State Fault Refusal :=
  act (issue t (opIs 0x19 w) w do
    let s ← cur
    writeS t (oSD w) (BitVec.ofNat 64 (wf w 31 0 * 2 ^ 32 + (getS s t (oSD w)).toNat % 2 ^ 32))) s

/-- BEQ (03 R80). -/
def execBeq (t : TileNo) (w : W64) (s : State) : Host.Outcome State Fault Refusal :=
  act (branch t w 0x20 (fun a b => a == b)) s

/-- BNE (03 R80). -/
def execBne (t : TileNo) (w : W64) (s : State) : Host.Outcome State Fault Refusal :=
  act (branch t w 0x21 (fun a b => a != b)) s

/-- BLT (03 R80). -/
def execBlt (t : TileNo) (w : W64) (s : State) : Host.Outcome State Fault Refusal :=
  act (branch t w 0x22 ltS) s

/-- BGE (03 R80). -/
def execBge (t : TileNo) (w : W64) (s : State) : Host.Outcome State Fault Refusal :=
  act (branch t w 0x23 (fun a b => !ltS a b)) s

/-- BLTU (03 R80). -/
def execBltu (t : TileNo) (w : W64) (s : State) : Host.Outcome State Fault Refusal :=
  act (branch t w 0x24 ltU) s

/-- BGEU (03 R80). -/
def execBgeu (t : TileNo) (w : W64) (s : State) : Host.Outcome State Fault Refusal :=
  act (branch t w 0x25 (fun a b => !ltU a b)) s

/-- JAL (03 R80). -/
def execJal (t : TileNo) (w : W64) (s : State) : Host.Outcome State Fault Refusal :=
  act (issue t (opIs 0x26 w) w do
    let s ← cur
    let pc := (tileOf s t).core.pc
    emit (.sreg t (bSA w) ((nextPc pc).setWidth 64))
    commitTo t (jumpTo pc (oImm w))) s

/-- JR: the link is written first, then PC := SB, so with SA = SB it goes to the next instruction; a misaligned target
raises ALIGN at the jump (03 R80, R82). -/
def execJr (t : TileNo) (w : W64) (s : State) : Host.Outcome State Fault Refusal :=
  act (issue t (opIs 0x27 w) w do
    let s ← cur
    let link := (nextPc (tileOf s t).core.pc).setWidth 64
    let a := if bSA w ≠ 0 ∧ bSA w = bSB w then link else getS s t (bSB w)
    if a.toNat % 8 ≠ 0 then raise t xAlign a
    else
      emit (.sreg t (bSA w) link)
      commitTo t (a.setWidth 48)) s

/-- LD.B (03 R80, R82). -/
def execLdB (t : TileNo) (w : W64) (s : State) : Host.Outcome State Fault Refusal :=
  act (load t w 0x30 1 zext) s

/-- LD.H (03 R80, R82). -/
def execLdH (t : TileNo) (w : W64) (s : State) : Host.Outcome State Fault Refusal :=
  act (load t w 0x31 2 zext) s

/-- LD.W (03 R80, R82). -/
def execLdW (t : TileNo) (w : W64) (s : State) : Host.Outcome State Fault Refusal :=
  act (load t w 0x32 4 zext) s

/-- LD.D (03 R80, R82). -/
def execLdD (t : TileNo) (w : W64) (s : State) : Host.Outcome State Fault Refusal :=
  act (load t w 0x33 8 zext) s

/-- LDS.B (03 R80, R82). -/
def execLdsB (t : TileNo) (w : W64) (s : State) : Host.Outcome State Fault Refusal :=
  act (load t w 0x34 1 (sext 8)) s

/-- LDS.H (03 R80, R82). -/
def execLdsH (t : TileNo) (w : W64) (s : State) : Host.Outcome State Fault Refusal :=
  act (load t w 0x35 2 (sext 16)) s

/-- LDS.W (03 R80, R82). -/
def execLdsW (t : TileNo) (w : W64) (s : State) : Host.Outcome State Fault Refusal :=
  act (load t w 0x36 4 (sext 32)) s

/-- ST.B (03 R80, R82). -/
def execStB (t : TileNo) (w : W64) (s : State) : Host.Outcome State Fault Refusal :=
  act (store t w 0x38 1) s

/-- ST.H (03 R80, R82). -/
def execStH (t : TileNo) (w : W64) (s : State) : Host.Outcome State Fault Refusal :=
  act (store t w 0x39 2) s

/-- ST.W (03 R80, R82). -/
def execStW (t : TileNo) (w : W64) (s : State) : Host.Outcome State Fault Refusal :=
  act (store t w 0x3a 4) s

/-- ST.D (03 R80, R82). -/
def execStD (t : TileNo) (w : W64) (s : State) : Host.Outcome State Fault Refusal :=
  act (store t w 0x3b 8) s

end Sys2Proof.Machine
end

