-- ==== Sys2Proof/Machine/Vector.lean ====
section
/-! DEFINITION. The meanings of the vector arithmetic, movement, conversion, scaling, reduction, fixed-point, compare
and predicate instructions (03 R83-R89). -/
namespace Sys2Proof.Machine

/-- A comparison of two codes by type: none where a NaN is an operand (03 R84). -/
def cmpCodes (et a b : Nat) : Option Ordering := exCmp (etVal et a) (etVal et b)

/-- Flags of a comparison: NV for signalling NaN operands (DEDUCED, log entry 17). -/
def cmpFlags (et a b : Nat) : Nat := Nat.lor (snanFlag et a) (snanFlag et b)

/-- VCMP: SC takes SS in place of VB. -/
def vecCmp (t : TileNo) (w : W64) (op : Nat) (f : Option Ordering → Bool) : M Unit :=
  vissue t (opIs op w) w do
    let s ← cur
    let et := vET w
    let n := nOf s t [et]
    setFlags t (vecFlags (getP s t (vPG w)) (etWidth et) n fun k => cmpFlags et (opA s t w et k) (opB s t w et k))
    predWrite t w (etWidth et) n fun k => f (cmpCodes et (opA s t w et k) (opB s t w et k))

/-- Predicate logic on the byte lanes of elements 0 to n - 1 of ET (03 R79, R83, DEDUCED, log entry 25). -/
def predLogic (t : TileNo) (w : W64) (op : Nat) (f : Bool → Bool → Bool) : M Unit :=
  vissue t (opIs op w) w do
    let s ← cur
    let p := getP s t (vPG w)
    let n := nOf s t [vET w]
    let a := getP s t (vVA w % 8)
    let b := getP s t (vVB w % 8)
    let lane := etWidth (vET w)
    emit (.preg t (vVD w % 8) (BitVec.ofNat 1024 (sumOf (fun i =>
      let k := i * 8 / lane
      if k < n ∧ activeAt p lane k = true ∧ f (a.getLsbD i) (b.getLsbD i) = true then 2 ^ i else 0) (upto 1024))))
    commitV t n lane

/-- Codes of the active elements of a, in index order. -/
def activeCodes (s : State) (t : Nat) (w : W64) : List Nat :=
  ((upto (nOf s t [vET w])).filter fun k => activeAt (getP s t (vPG w)) (etWidth (vET w)) k).map fun k =>
    opA s t w (vET w) k

/-- A reduction into element 0 of VD (03 R83, R86); none leaves VD unchanged. -/
def vecRed (t : TileNo) (w : W64) (op : Nat) (f : State → List Nat → Option (Nat × Nat)) : M Unit :=
  vissue t (opIs op w) w do
    let s ← cur
    let et := vET w
    (match f s (activeCodes s t w) with
     | some (c, fl) => do
       setFlags t fl
       emit (.vreg t (vVD w) (packV (etWidth et) [c % 2 ^ etWidth et] (getV s t (vVD w))))
     | none => pure ())
    commitV t (nOf s t [et]) (etWidth et)

/-- One addition of a floating sum, carrying its flags (03 R86). -/
def redAdd (f : Fmt) (rnd ovf g : Nat) (x y : Nat × Nat) : Nat × Nat :=
  let r := fbin exAdd f rnd ovf g x.1 y.1
  (r.1, Nat.lor (Nat.lor x.2 y.2) r.2)

/-- A NaN left in a result is canonical (02 R33). -/
def canonNaN (f : Fmt) (c : Nat) : Nat := if decodeF f c = .nan then f.nan else c

/-- VREDSUM (03 R86). -/
def redSum (t : Nat) (w : W64) (s : State) (l : List Nat) : Option (Nat × Nat) :=
  match etFmt (vET w) with
  | some f =>
    match treeSum (redAdd f (vRnd w) (vOvf w) (vecG s t (vRnd w) 0)) (l.map fun c => (c, snan1 f c)) with
    | some (c, fl) => some (canonNaN f c, fl)
    | none => some (0, 0)
  | none => some (ofI (etWidth (vET w)) (l.foldl (fun a c => a + etToInt (vET w) c) 0), 0)

/-- VREDMIN, VREDMAX. -/
def redMin (mx : Bool) (t : Nat) (w : W64) (s : State) (l : List Nat) : Option (Nat × Nat) :=
  match l with
  | [] => none
  | c :: l =>
    match etFmt (vET w) with
    | some f =>
      some (fres f (vRnd w) (vOvf w) (vecG s t (vRnd w) 0) ((c :: l).foldl (fun fl c => Nat.lor fl (snan1 f c)) 0)
        (l.foldl (fun a c => exMin mx a (decodeF f c)) (decodeF f c), 0))
    | none =>
      some (ofI (etWidth (vET w)) (l.foldl (fun a c =>
        if mx then max a (etToInt (vET w) c) else min a (etToInt (vET w) c)) (etToInt (vET w) c)), 0)

/-- `rnd_fx` of 03 R88. -/
def rndFx (v : Int) (sh fxr : Nat) : Int :=
  if sh = 0 then v
  else
    let q := v / 2 ^ sh
    let r := v - q * 2 ^ sh
    let h := (2 : Int) ^ (sh - 1)
    let inc := match fxr with
      | 0 => decide (h ≤ r)
      | 1 => decide (h < r) || (decide (r = h) && q % 2 != 0)
      | _ => false
    q + (b2n inc : Nat)

/-- FXR of a tile. -/
def fxrOf (s : State) (t : Nat) : Nat := wf (getCsr s t csrTCTL) 1 0

/-- `sat_T` of 03 R88. -/
def satTo (et : Nat) (v : Int) : Nat × Nat :=
  let (x, c) := clampI (etRange et).1 (etRange et).2 v
  (ofI (etWidth et) x, b2n c * fSAT)

/-- The shift count of VSHRR and VSNARROW: SS with SC = 1, else IMM12 bits 5:0 where IMM12 is not zero, else the
element of VB; modulo the width (03 R88, DEDUCED, log entry 26). -/
def shCount (s : State) (t : Nat) (w : W64) (et k : Nat) : Nat :=
  (if vSC w then (getS s t (vSS w)).toNat
   else if vImm w = 0 then elem (getV s t (vVB w)) (etWidth et) k
   else vImm w % 64) % etWidth et

/-- A fixed-point instruction. -/
def vecFx (t : TileNo) (w : W64) (op : Nat) (f : State → Nat → Nat × Nat) : M Unit :=
  vissue t (opIs op w) w do
    let s ← cur
    let et := vET w
    vecWrite t (vVD w) (vPG w) (etWidth et) (vZM w) (etWidth et) (nOf s t [et]) (f s)

/-- A bitwise or shift instruction on an integer type. -/
def vecBit (t : TileNo) (w : W64) (op : Nat) (f : Nat → Nat → Nat → Nat) : M Unit :=
  vecOp t w op fun a b _ _ => (f (vET w) a b, 0)

/-- The slide distance (03 R83). -/
def slideBy (s : State) (t : Nat) (w : W64) : Nat := if vSC w then (getS s t (vSS w)).toNat else vImm w

/-- IMM12, sign-extended. -/
def immElem (w : W64) (et : Nat) : Nat := ofI (etWidth et) (toI 12 (vImm w))

/-- VSCALE.Q of a block: its elements divided by s and encoded (03 R87). -/
def scaleBlock (s : State) (t : Nat) (w : W64) (n j : Nat) (esc : Bool) : Block × Nat :=
  match etFmt (vET w) with
  | some f =>
    let xs := (upto 32).map fun k =>
      if 32 * j + k < n then etVal (vET2 w) (opA s t w (vET2 w) (32 * j + k)) else .fin false 0 1 0
    let sn := (upto 32).foldl (fun fl k =>
      if 32 * j + k < n then Nat.lor fl (snanFlag (vET2 w) (opA s t w (vET2 w) (32 * j + k))) else fl) 0
    let d := divideBy (decodeF .f32 (wf (getS s t (vSS w)) 31 0)) xs
    (encodeBlock f (vRnd w) (vOvf w) esc (fun k => vecG s t (vRnd w) (32 * j + k)) d.1, Nat.lor d.2 sn)
  | none => (⟨0, [], 0, 0, 0, 0, 0, 0⟩, 0)

/-- Bytes of a register replaced from a byte lane on. -/
def putLanes (v : BitVec 8192) (lane : Nat) (l : List Byte) : BitVec 8192 :=
  BitVec.ofNat 8192 (setBits v.toNat (8 * (lane + l.length) - 1) (8 * lane) (ofBytes l))

/-- The results of VSCALE.Q: element codes, VC, flags and crushed elements. -/
def scaleQ (s : State) (t : Nat) (w : W64) (n : Nat) (esc : Bool) : List Nat × BitVec 8192 × Nat × Nat :=
  let bs := (upto (cdiv n 32)).map fun j => scaleBlock s t w n j esc
  let codes := bs.map fun b => BitVec.ofNat 8 b.1.code
  let vc := putLanes (getV s t (vVC w)) 0 codes
  let vc := if esc then putLanes vc 32 (bs.flatMap fun b => bytesOf 3 b.1.esc) else vc
  let crush := sumOf (fun b => b.1.crush) bs
  ((bs.flatMap fun b => b.1.elems).take n, vc,
   bs.foldl (fun fl b => Nat.lor fl (Nat.lor b.1.flags b.2)) (if crush = 0 then 0 else fCR), crush)

/-- Code and escape word of a block from VC (03 R83, R87, DEDUCED, log entry 27). -/
def vcCode (s : State) (t : Nat) (w : W64) (j : Nat) : Nat := elem (getV s t (vVC w)) 8 j
def vcEsc (s : State) (t : Nat) (w : W64) (esc : Bool) (j : Nat) : Nat :=
  if esc then bits (getV s t (vVC w)).toNat (8 * (35 + 3 * j) - 1) (8 * (32 + 3 * j)) else 0

/-- VSCALE.DQ of element k (02 R43). -/
def scaleDq (s : State) (t : Nat) (w : W64) (esc : Bool) (k : Nat) : Nat × Nat :=
  match etFmt (vET2 w) with
  | some f =>
    let r := decodeElem f (vET w) (vRnd w) (vOvf w) (vecG s t (vRnd w) k) (vcCode s t w (k / 32))
      (vcEsc s t w esc (k / 32)) (k % 32) (opA s t w (vET2 w) k) (decodeF .f32 (wf (getS s t (vSS w)) 31 0))
    (r.code, r.flags)
  | none => (0, 0)

/-- A result in SS of an element of the type: integers by value, floating codes zero-extended (DEDUCED, log entry 28). -/
def extElem (et c : Nat) : W64 := if etInt et then w64I (etToInt et c) else BitVec.ofNat 64 c


/-- VADD (03 R83, R84). -/
def execVadd (t : TileNo) (w : W64) (s : State) : Host.Outcome State Fault Refusal :=
  act (vec2 t w 0x50 (fun a b => a + b) exAdd) s

/-- VSUB (03 R83, R84). -/
def execVsub (t : TileNo) (w : W64) (s : State) : Host.Outcome State Fault Refusal :=
  act (vec2 t w 0x51 (fun a b => a - b) (fun r x y => exAdd r x (exNeg y))) s

/-- VMUL (03 R83, R84). -/
def execVmul (t : TileNo) (w : W64) (s : State) : Host.Outcome State Fault Refusal :=
  act (vec2 t w 0x52 (fun a b => a * b) (fun _ x y => exMul x y)) s

/-- VMIN (03 R83, R84). -/
def execVmin (t : TileNo) (w : W64) (s : State) : Host.Outcome State Fault Refusal :=
  act (vec2 t w 0x53 min (fun _ x y => (exMin false x y, 0))) s

/-- VMAX (03 R83, R84). -/
def execVmax (t : TileNo) (w : W64) (s : State) : Host.Outcome State Fault Refusal :=
  act (vec2 t w 0x54 max (fun _ x y => (exMin true x y, 0))) s

/-- VNEG (03 R83). -/
def execVneg (t : TileNo) (w : W64) (s : State) : Host.Outcome State Fault Refusal :=
  act (vec1 t w 0x55 (fun a => -a) (fun x => (exNeg x, 0))) s

/-- VABS (03 R83). -/
def execVabs (t : TileNo) (w : W64) (s : State) : Host.Outcome State Fault Refusal :=
  act (vec1 t w 0x56 (fun a => (a.natAbs : Int)) (fun x => (exAbs x, 0))) s

/-- VFMA (03 R83). -/
def execVfma (t : TileNo) (w : W64) (s : State) : Host.Outcome State Fault Refusal :=
  act (vecOp t w 0x57 fun a b c g =>
    match etFmt (vET w) with
    | some f => fmaCode f (vRnd w) (vOvf w) g a b c
    | none => (0, 0)) s

/-- VDIV, floating only (03 R83). -/
def execVdiv (t : TileNo) (w : W64) (s : State) : Host.Outcome State Fault Refusal :=
  act (vec2 t w 0x58 (fun a _ => a) (fun _ x y => exDiv x y)) s

/-- VSQRT, floating only (03 R83). -/
def execVsqrt (t : TileNo) (w : W64) (s : State) : Host.Outcome State Fault Refusal :=
  act (vec1 t w 0x59 (fun a => a) exSqrt) s

/-- VAND (03 R83). -/
def execVand (t : TileNo) (w : W64) (s : State) : Host.Outcome State Fault Refusal :=
  act (vecBit t w 0x5a (fun _ a b => Nat.land a b)) s

/-- VOR (03 R83). -/
def execVor (t : TileNo) (w : W64) (s : State) : Host.Outcome State Fault Refusal :=
  act (vecBit t w 0x5b (fun _ a b => Nat.lor a b)) s

/-- VXOR (03 R83). -/
def execVxor (t : TileNo) (w : W64) (s : State) : Host.Outcome State Fault Refusal :=
  act (vecBit t w 0x5c (fun _ a b => Nat.xor a b)) s

/-- VSHL (03 R83). -/
def execVshl (t : TileNo) (w : W64) (s : State) : Host.Outcome State Fault Refusal :=
  act (vecBit t w 0x5d (fun et a b => a * 2 ^ (b % etWidth et))) s

/-- VSHR (03 R83). -/
def execVshr (t : TileNo) (w : W64) (s : State) : Host.Outcome State Fault Refusal :=
  act (vecBit t w 0x5e (fun et a b => ofI (etWidth et) (etToInt et a / 2 ^ (b % etWidth et)))) s

/-- VMOV: the bits are copied (03 R83). -/
def execVmov (t : TileNo) (w : W64) (s : State) : Host.Outcome State Fault Refusal :=
  act (vecOp t w 0x5f fun a _ _ _ => (a, 0)) s

/-- VBCAST (03 R83). -/
def execVbcast (t : TileNo) (w : W64) (s : State) : Host.Outcome State Fault Refusal :=
  act (vissue t (opIs 0x70 w) w do
    let s ← cur
    let et := vET w
    let x := if vSC w then (getS s t (vSS w)).toNat else immElem w et
    vecWrite t (vVD w) (vPG w) (etWidth et) (vZM w) (etWidth et) (nOf s t [et]) fun _ => (x, 0)) s

/-- VSLIDEUP (03 R83). -/
def execVslideup (t : TileNo) (w : W64) (s : State) : Host.Outcome State Fault Refusal :=
  act (vissue t (opIs 0x71 w) w do
    let s ← cur
    let et := vET w
    vecWrite t (vVD w) (vPG w) (etWidth et) (vZM w) (etWidth et) (nOf s t [et]) fun k =>
      (if k < slideBy s t w then 0 else opA s t w et (k - slideBy s t w), 0)) s

/-- VSLIDEDN (03 R83). -/
def execVslidedn (t : TileNo) (w : W64) (s : State) : Host.Outcome State Fault Refusal :=
  act (vissue t (opIs 0x72 w) w do
    let s ← cur
    let et := vET w
    vecWrite t (vVD w) (vPG w) (etWidth et) (vZM w) (etWidth et) (nOf s t [et]) fun k =>
      (if nOf s t [et] ≤ k + slideBy s t w then 0 else opA s t w et (k + slideBy s t w), 0)) s

/-- VCVT (03 R83, R84). -/
def execVcvt (t : TileNo) (w : W64) (s : State) : Host.Outcome State Fault Refusal :=
  act (vissue t (opIs 0x73 w) w do
    let s ← cur
    let ets := [vET w, vET2 w]
    vecWrite t (vVD w) (vPG w) (widest ets) (vZM w) (etWidth (vET w)) (nOf s t ets) fun k =>
      let r := convert (vET2 w) (vET w) (vRnd w) (vOvf w) (vecG s t (vRnd w) k) (opA s t w (vET2 w) k)
      (r.code, r.flags)) s

/-- VSCALE.Q (03 R87). -/
def execVscaleQ (t : TileNo) (w : W64) (s : State) : Host.Outcome State Fault Refusal :=
  act (vissue t (opIs 0x74 w) w do
    let s ← cur
    let esc := bit (vImm w) 0
    if esc && !expertOn s (some (tileVi s t)) then raise t xIllegal w
    else
      let n := nOf s t [vET w, vET2 w]
      let r := scaleQ s t w n esc
      setFlags t r.2.2.1
      emit (.vreg t (vVD w) (packV (etWidth (vET w)) r.1 (getV s t (vVD w))))
      emit (.vreg t (vVC w) r.2.1)
      watch (tileVi s t) wCrush r.2.2.2
      commitV t n (widest [vET w, vET2 w])) s

/-- VSCALE.DQ (03 R83, R87). -/
def execVscaleDq (t : TileNo) (w : W64) (s : State) : Host.Outcome State Fault Refusal :=
  act (vissue t (opIs 0x75 w) w do
    let s ← cur
    let ets := [vET w, vET2 w]
    vecWrite t (vVD w) 0 (widest ets) false (etWidth (vET w)) (nOf s t ets) (scaleDq s t w (bit (vImm w) 0))) s

/-- VREDSUM (03 R86). -/
def execVredsum (t : TileNo) (w : W64) (s : State) : Host.Outcome State Fault Refusal :=
  act (vecRed t w 0x76 (redSum t w)) s

/-- VREDMIN (03 R83, R86). -/
def execVredmin (t : TileNo) (w : W64) (s : State) : Host.Outcome State Fault Refusal :=
  act (vecRed t w 0x77 (redMin false t w)) s

/-- VREDMAX (03 R83, R86). -/
def execVredmax (t : TileNo) (w : W64) (s : State) : Host.Outcome State Fault Refusal :=
  act (vecRed t w 0x78 (redMin true t w)) s

/-- VEXT: an index at or beyond n reads nothing (03 R77, R79, R83, DEDUCED, log entry 28). -/
def execVext (t : TileNo) (w : W64) (s : State) : Host.Outcome State Fault Refusal :=
  act (vissue t (opIs 0x79 w) w do
    let s ← cur
    let et := vET w
    let k := vImm w
    (if nOf s t [et] ≤ k then pure ()
     else if activeAt (getP s t (vPG w)) (etWidth et) k then emit (.sreg t (vSS w) (extElem et (opA s t w et k)))
     else whenB (vZM w) (emit (.sreg t (vSS w) 0)))
    commitV t (nOf s t [et]) (etWidth et)) s

/-- VINS (03 R77, R79, R83, DEDUCED, log entry 28). -/
def execVins (t : TileNo) (w : W64) (s : State) : Host.Outcome State Fault Refusal :=
  act (vissue t (opIs 0x7a w) w do
    let s ← cur
    let et := vET w
    let ew := etWidth et
    let n := nOf s t [et]
    let old := getV s t (vVD w)
    (if n ≤ vImm w then pure ()
     else emit (.vreg t (vVD w) (packV ew ((upto n).map fun k =>
       if k ≠ vImm w then elem old ew k
       else if activeAt (getP s t (vPG w)) ew k then (getS s t (vSS w)).toNat % 2 ^ ew
       else if vZM w then 0 else elem old ew k) old)))
    commitV t n ew) s

/-- VSADD (03 R88). -/
def execVsadd (t : TileNo) (w : W64) (s : State) : Host.Outcome State Fault Refusal :=
  act (vecFx t w 0x7b fun s k =>
    satTo (vET w) (etToInt (vET w) (opA s t w (vET w) k) + etToInt (vET w) (opB s t w (vET w) k))) s

/-- VSSUB (03 R88). -/
def execVssub (t : TileNo) (w : W64) (s : State) : Host.Outcome State Fault Refusal :=
  act (vecFx t w 0x7c fun s k =>
    satTo (vET w) (etToInt (vET w) (opA s t w (vET w) k) - etToInt (vET w) (opB s t w (vET w) k))) s

/-- VRMULH (03 R88). -/
def execVrmulh (t : TileNo) (w : W64) (s : State) : Host.Outcome State Fault Refusal :=
  act (vecFx t w 0x7d fun s k =>
    satTo (vET w) (rndFx (etToInt (vET w) (opA s t w (vET w) k) * etToInt (vET w) (opB s t w (vET w) k))
      (etWidth (vET w) - 1) (fxrOf s t))) s

/-- VSHRR (03 R88). -/
def execVshrr (t : TileNo) (w : W64) (s : State) : Host.Outcome State Fault Refusal :=
  act (vecFx t w 0x7e fun s k =>
    (ofI (etWidth (vET w)) (rndFx (etToInt (vET w) (opA s t w (vET w) k)) (shCount s t w (vET w) k) (fxrOf s t)), 0)) s

/-- VSNARROW; its predicate lanes are those of ET (03 R88, R89, DEDUCED, log entry 29). -/
def execVsnarrow (t : TileNo) (w : W64) (s : State) : Host.Outcome State Fault Refusal :=
  act (vissue t (opIs 0x7f w) w do
    let s ← cur
    let et := vET w
    let e2 := vET2 w
    let src := fun k => if k < vlmax e2 then elem (getV s t (vVA w)) (etWidth e2) k
      else elem (getV s t (vVA w + 1)) (etWidth e2) (k - vlmax e2)
    vecWrite t (vVD w) (vPG w) (etWidth et) (vZM w) (etWidth et) (nOf s t [et]) fun k =>
      satTo et (rndFx (etToInt e2 (src k)) (shCount s t w e2 k) (fxrOf s t))) s

/-- VCMP.EQ (03 R83, R84). -/
def execVcmpEq (t : TileNo) (w : W64) (s : State) : Host.Outcome State Fault Refusal :=
  act (vecCmp t w 0x80 (fun o => o == some .eq)) s

/-- VCMP.NE (03 R83, R84). -/
def execVcmpNe (t : TileNo) (w : W64) (s : State) : Host.Outcome State Fault Refusal :=
  act (vecCmp t w 0x81 (fun o => o != some .eq)) s

/-- VCMP.LT (03 R83, R84). -/
def execVcmpLt (t : TileNo) (w : W64) (s : State) : Host.Outcome State Fault Refusal :=
  act (vecCmp t w 0x82 (fun o => o == some .lt)) s

/-- VCMP.LE (03 R83, R84). -/
def execVcmpLe (t : TileNo) (w : W64) (s : State) : Host.Outcome State Fault Refusal :=
  act (vecCmp t w 0x83 (fun o => o == some .lt || o == some .eq)) s

/-- PAND (03 R83). -/
def execPand (t : TileNo) (w : W64) (s : State) : Host.Outcome State Fault Refusal :=
  act (predLogic t w 0x84 (fun a b => a && b)) s

/-- POR (03 R83). -/
def execPor (t : TileNo) (w : W64) (s : State) : Host.Outcome State Fault Refusal :=
  act (predLogic t w 0x85 (fun a b => a || b)) s

/-- PXOR (03 R83). -/
def execPxor (t : TileNo) (w : W64) (s : State) : Host.Outcome State Fault Refusal :=
  act (predLogic t w 0x86 (fun a b => a != b)) s

/-- PNOT (03 R83). -/
def execPnot (t : TileNo) (w : W64) (s : State) : Host.Outcome State Fault Refusal :=
  act (predLogic t w 0x87 (fun a _ => !a)) s

/-- PSETN (03 R79, R83). -/
def execPsetn (t : TileNo) (w : W64) (s : State) : Host.Outcome State Fault Refusal :=
  act (vissue t (opIs 0x88 w) w do
    let s ← cur
    predWrite t w (etWidth (vET w)) (nOf s t [vET w]) fun _ => true) s

/-- VFIRST (03 R83). -/
def execVfirst (t : TileNo) (w : W64) (s : State) : Host.Outcome State Fault Refusal :=
  act (vissue t (opIs 0x89 w) w do
    let s ← cur
    let lane := etWidth (vET w)
    let n := nOf s t [vET w]
    emit (.sreg t (vSS w) (match (upto n).find? fun k => activeAt (getP s t (vPG w)) lane k with
      | some k => BitVec.ofNat 64 k
      | none => BitVec.allOnes 64))
    commitV t n lane) s

/-- VPCNT (03 R83). -/
def execVpcnt (t : TileNo) (w : W64) (s : State) : Host.Outcome State Fault Refusal :=
  act (vissue t (opIs 0x8a w) w do
    let s ← cur
    let lane := etWidth (vET w)
    let n := nOf s t [vET w]
    emit (.sreg t (vSS w) (BitVec.ofNat 64 (cnt (fun k => activeAt (getP s t (vPG w)) lane k) (upto n))))
    commitV t n lane) s

end Sys2Proof.Machine
end

