-- ==== Sys2Proof/Machine/Tape.lean ====
section
/-! DEFINITION. The meanings of the tangent, tape and adjoint instructions (04 R119-R128). -/
namespace Sys2Proof.Machine

/-! Tangents. -/

/-- TCTL.QD (03 R70, 04 R122). -/
def qdOf (s : State) (t : Nat) : Nat := wf (getCsr s t csrTCTL) 3 2

/-- A value of the tangent half narrowed to the tangent type with RNE and the instruction's OVF (04 R120). -/
def tanRes (T : Fmt) (ovf sn : Nat) (x : ExF) : Nat × Nat := fres T 0 ovf 0 sn x

/-- Operations of the tangent half, each rounded (04 R120, DEDUCED, log entry 30). -/
def tanAdd (T : Fmt) (ovf a b : Nat) : Nat × Nat := tanRes T ovf (snan2 T a b) (exAdd 0 (decodeF T a) (decodeF T b))
def tanSub (T : Fmt) (ovf a b : Nat) : Nat × Nat :=
  tanRes T ovf (snan2 T a b) (exAdd 0 (decodeF T a) (exNeg (decodeF T b)))
def tanMul (T : Fmt) (ovf a b : Nat) : Nat × Nat := tanRes T ovf (snan2 T a b) (exMul (decodeF T a) (decodeF T b))
def tanDiv (T : Fmt) (ovf a b : Nat) : Nat × Nat := tanRes T ovf (snan2 T a b) (exDiv (decodeF T a) (decodeF T b))
def tanFma (T : Fmt) (ovf : Nat) (neg : Bool) (a b c : Nat) : Nat × Nat :=
  tanRes T ovf (Nat.lor (snan2 T a b) (snan1 T c))
    (exFma 0 (if neg then exNeg (decodeF T a) else decodeF T a) (decodeF T b) (decodeF T c))

/-- The operands of a tangent half: a′, b′, d′ converted with RNE, and at, bt, ct (04 R120). -/
structure TanIn where
  a : Nat
  b : Nat
  d : Nat
  at' : Nat
  bt : Nat
  ct : Nat

/-- Results in sequence: the flags of both. -/
def thenF (x : Nat × Nat) (f : Nat → Nat × Nat) : Nat × Nat := ((f x.1).1, Nat.lor x.2 (f x.1).2)

/-- The tangents of the table of 04 R120. -/
def tanOp (op : Nat) (T : Fmt) (ovf : Nat) (i : TanIn) : Nat × Nat :=
  match op with
  | 0xA0 => tanAdd T ovf i.at' i.bt
  | 0xA1 => tanSub T ovf i.at' i.bt
  | 0xA2 => thenF (tanMul T ovf i.a i.bt) fun p => tanFma T ovf false i.at' i.b p
  | 0xA3 => thenF (thenF (tanMul T ovf i.a i.bt) fun p => tanFma T ovf false i.at' i.b p) fun q => tanAdd T ovf q i.ct
  | 0xA4 => thenF (tanFma T ovf true i.d i.bt i.at') fun p => tanDiv T ovf p i.b
  | _ => thenF (tanAdd T ovf i.d i.d) fun dd => tanDiv T ovf i.at' dd

/-- Which of a′, b′, d′ the tangent of an opcode takes. -/
def tanUses (op : Nat) : Bool × Bool × Bool :=
  match op with
  | 0xA2 | 0xA3 => (true, true, false)
  | 0xA4 => (false, true, true)
  | 0xA5 => (false, false, true)
  | _ => (false, false, false)

/-- The tangent of element k given its value result: code and flags (04 R120). With SC = 1 the scalar is a constant. -/
def tanElem (s : State) (t : Nat) (w : W64) (te : Nat) (T : Fmt) (k d : Nat) : Nat × Nat :=
  let op := oOP w
  let cv := fun (use : Bool) (c : Nat) =>
    if use then (let r := convert (vET w) te 0 (vOvf w) 0 c; (r.code, r.flags)) else (0, 0)
  let u := tanUses op
  let ca := cv u.1 (opA s t w (vET w) k)
  let cb := cv u.2.1 (opB s t w (vET w) k)
  let cd := cv u.2.2 d
  let tw := etWidth te
  let r := tanOp op T (vOvf w)
    { a := ca.1, b := cb.1, d := cd.1, at' := elem (getV s t (vVA w + 1)) tw k
      bt := if vSC w then 0 else elem (getV s t (vVB w + 1)) tw k, ct := elem (getV s t (vVC w + 1)) tw k }
  (r.1, Nat.lor r.2 (Nat.lor ca.2 (Nat.lor cb.2 cd.2)))

/-- Writes a value and its tangent and commits: predication, ZM and n act on both halves alike (04 R120). -/
def pairWrite (t : TileNo) (w : W64) (lane vw tw n : Nat) (zm : Bool) (val tan : Nat → Nat × Nat) : M Unit := do
  let s ← cur
  let p := getP s t (vPG w)
  setFlags t (vecFlags p lane n fun k => Nat.lor (val k).2 (tan k).2)
  emit (.vreg t (vVD w) (packV vw (vecElems p lane zm (getV s t (vVD w)) vw n fun k => (val k).1) (getV s t (vVD w))))
  emit (.vreg t (vVD w + 1)
    (packV tw (vecElems p lane zm (getV s t (vVD w + 1)) tw n fun k => (tan k).1) (getV s t (vVD w + 1))))
  commitV t n lane

/-- A tangent arithmetic instruction: the value half is the instruction without the suffix (04 R119, R120). -/
def tanForm (t : TileNo) (w : W64) (op : Nat) (val : Fmt → Nat → Nat → Nat → Nat → Nat × Nat) : M Unit :=
  vissue t (opIs op w) w do
    let s ← cur
    let et := vET w
    let te := vET2 w
    match etFmt et, etFmt te with
    | some f, some T =>
      let v := fun k => val f (vecG s t (vRnd w) k) (opA s t w et k) (opB s t w et k) (opC s t w et k)
      pairWrite t w (widest [et, te]) (etWidth et) (etWidth te) (nOf s t [et, te]) (vZM w) v
        (fun k => tanElem s t w te T k (v k).1)
    | _, _ => raise t xIllegal w

/-- A two-operand value half. -/
def valBin (w : W64) (op : Nat → Ex → Ex → ExF) (f : Fmt) (g a b _c : Nat) : Nat × Nat :=
  fbin op f (vRnd w) (vOvf w) g a b

/-- VADD.T (04 R120). -/
def execVaddT (t : TileNo) (w : W64) (s : State) : Host.Outcome State Fault Refusal :=
  act (tanForm t w 0xA0 (valBin w exAdd)) s
/-- VSUB.T (04 R120). -/
def execVsubT (t : TileNo) (w : W64) (s : State) : Host.Outcome State Fault Refusal :=
  act (tanForm t w 0xA1 (valBin w fun r x y => exAdd r x (exNeg y))) s
/-- VMUL.T (04 R120). -/
def execVmulT (t : TileNo) (w : W64) (s : State) : Host.Outcome State Fault Refusal :=
  act (tanForm t w 0xA2 (valBin w fun _ x y => exMul x y)) s
/-- VFMA.T (04 R120). -/
def execVfmaT (t : TileNo) (w : W64) (s : State) : Host.Outcome State Fault Refusal :=
  act (tanForm t w 0xA3 fun f g a b c => fmaCode f (vRnd w) (vOvf w) g a b c) s
/-- VDIV.T (04 R120). -/
def execVdivT (t : TileNo) (w : W64) (s : State) : Host.Outcome State Fault Refusal :=
  act (tanForm t w 0xA4 (valBin w fun _ x y => exDiv x y)) s
/-- VSQRT.T (04 R120). -/
def execVsqrtT (t : TileNo) (w : W64) (s : State) : Host.Outcome State Fault Refusal :=
  act (tanForm t w 0xA5 fun f g a _ _ => fres f (vRnd w) (vOvf w) g (snan1 f a) (exSqrt (decodeF f a))) s

/-- The tangent type of VCVT.T, VSCALE.Q.T and VSCALE.DQ.T (04 R119). -/
def qTan (w : W64) : Nat := vImm w / 256

/-- 2^(-e) / s of the encode direction, s × 2^e of the decode direction, applied to a value; +0 for a zero block
(04 R122). -/
def scaleFactor (decode : Bool) (code : Nat) (sc x : Ex) : ExF :=
  if code = 255 then (.fin false 0 1 0, 0)
  else if decode then exMul (exScale ((code : Int) - 127) x) sc
  else exDiv (exScale (127 - (code : Int)) x) sc

/-- The tangent of a quantising step by QD, rounded once (04 R122): at, and the scaled value. -/
def quantTan (qd : Nat) (T : Fmt) (ovf at' : Nat) (scaled : Ex → ExF) : Nat × Nat :=
  match qd with
  | 1 => (0, 0)
  | 2 => tanRes T ovf (snan1 T at') (scaled (decodeF T at'))
  | _ => tanRes T ovf (snan1 T at') (decodeF T at', 0)

/-- VCVT.T (04 R120, R122). -/
def execVcvtT (t : TileNo) (w : W64) (s : State) : Host.Outcome State Fault Refusal :=
  act (vissue t (opIs 0xA6 w) w do
    let s ← cur
    let te := qTan w
    match etFmt te with
    | some T =>
      let ets := [vET w, vET2 w, te]
      pairWrite t w (widest ets) (etWidth (vET w)) (etWidth te) (nOf s t ets) (vZM w)
        (fun k =>
          let r := convert (vET2 w) (vET w) (vRnd w) (vOvf w) (vecG s t (vRnd w) k) (opA s t w (vET2 w) k)
          (r.code, r.flags))
        (fun k => quantTan (qdOf s t) T (vOvf w) (elem (getV s t (vVA w + 1)) (etWidth te) k) fun x => (x, 0))
    | none => raise t xIllegal w) s

/-- The F32 tensor scale in SS (03 R87). -/
def tensorScale (s : State) (t : Nat) (w : W64) : Ex := decodeF .f32 (wf (getS s t (vSS w)) 31 0)

/-- VSCALE.Q.T (04 R120, R122). -/
def execVscaleQT (t : TileNo) (w : W64) (s : State) : Host.Outcome State Fault Refusal :=
  act (vissue t (opIs 0xA7 w) w do
    let s ← cur
    let te := qTan w
    match etFmt te with
    | some T =>
      let ets := [vET w, vET2 w, te]
      let n := nOf s t ets
      let r := scaleQ s t w n false
      emit (.vreg t (vVC w) r.2.1)
      watch (tileVi s t) wCrush r.2.2.2
      setFlags t r.2.2.1
      pairWrite t w (widest ets) (etWidth (vET w)) (etWidth te) n false (fun k => (r.1.getD k 0, 0))
        (fun k => quantTan (qdOf s t) T (vOvf w) (elem (getV s t (vVA w + 1)) (etWidth te) k)
          (scaleFactor false (elem r.2.1 8 (k / 32)) (tensorScale s t w)))
    | none => raise t xIllegal w) s

/-- VSCALE.DQ.T (04 R120, R122). -/
def execVscaleDqT (t : TileNo) (w : W64) (s : State) : Host.Outcome State Fault Refusal :=
  act (vissue t (opIs 0xA8 w) w do
    let s ← cur
    let te := qTan w
    match etFmt te with
    | some T =>
      let ets := [vET w, vET2 w, te]
      pairWrite t w (widest ets) (etWidth (vET w)) (etWidth te) (nOf s t ets) false (scaleDq s t w (bit (vImm w) 0))
        (fun k => quantTan (qdOf s t) T (vOvf w) (elem (getV s t (vVA w + 1)) (etWidth te) k)
          (scaleFactor true (vcCode s t w (k / 32)) (tensorScale s t w)))
    | none => raise t xIllegal w) s

/-! The tape. -/

/-- Base and size in bytes of a tile's segment (04 R123). -/
def tapeBase (s : State) (t : Nat) : Nat := getF s (F.TILE_TAPE_BASE_BASE t) * 4096
def tapeSize (s : State) (t : Nat) : Nat := getF s (F.TILE_TAPE_SIZE_SIZE t) * 4096

/-- Head and tail of the segment, and the used size (04 R123). -/
def tapeHeadOf (s : State) (t : Nat) : Nat := (tileOf s t).core.tapeHead
def tapeTailOf (s : State) (t : Nat) : Nat := (tileOf s t).core.tapeTail
def tapeUsed (s : State) (t : Nat) : Nat := (tapeHeadOf s t + tapeSize s t - tapeTailOf s t) % tapeSize s t

/-- Addresses of n bytes from an offset, wrapping at the end of the segment (04 R124). -/
def tapeAddrs (s : State) (t off n : Nat) : List Nat := (upto n).map fun i => tapeBase s t + (off + i) % tapeSize s t

/-- Bytes of the payload of n elements (04 R124). -/
def payloadLen (n et : Nat) : Nat := cdiv (n * etWidth et) 64 * 8

/-- The trailer (04 R124). -/
def trailer (n et tag : Nat) : Nat := n + et * 2 ^ 16 + tag * 2 ^ 20

/-- PERM at an offset of the segment (04 R126). -/
def tapePerm (t off : Nat) : M Unit := do
  let s ← cur
  raise t xPerm (BitVec.ofNat 64 (tapeBase s t + off))

/-- TAPE.PUSH (04 R124-R127). -/
def execTapePush (t : TileNo) (w : W64) (s : State) : Host.Outcome State Fault Refusal :=
  act (vissue t (opIs 0xA9 w) w do
    let s ← cur
    let et := vET w
    let n := nOf s t [et]
    let len := payloadLen n et + 8
    if tapeSize s t ≤ tapeUsed s t + len then tapePerm t (tapeTailOf s t)
    else
      let data := bytesOf (payloadLen n et) ((getV s t (vVA w)).toNat % 2 ^ (n * etWidth et)) ++
        bytesOf 8 (trailer n et (vImm w))
      tileStore t ((tapeAddrs s t (tapeHeadOf s t) len).zip data) do
        modCore t fun c => { c with tapeHead := (c.tapeHead + len) % tapeSize s t }
        commitV t n (etWidth et)) s

/-- Pops the record at the head: n elements of a type with the instruction's tag (04 R125-R127). The payload is given
as one number. -/
def tapePopThen (t : TileNo) (w : W64) (n et : Nat) (k : Nat → M Unit) : M Unit := do
  let s ← cur
  let size := tapeSize s t
  if size = 0 ∨ tapeUsed s t = 0 then tapePerm t (tapeHeadOf s t)
  else
    tileLoad t (tapeAddrs s t (tapeHeadOf s t + size - 8) 8) fun tr =>
      if ofBytes tr % 2 ^ 32 ≠ trailer n et (vImm w) then raise t xIllegal w
      else
        let len := payloadLen n et
        let start := (tapeHeadOf s t + (len / size + 2) * size - 8 - len) % size
        tileLoad t (tapeAddrs s t start len) fun l => do
          modCore t fun c => { c with tapeHead := start }
          k (ofBytes l)

/-- Element of a popped payload. -/
def popElem (x w k : Nat) : Nat := bits x (k * w + w - 1) (k * w)

/-- TAPE.POP (04 R125, R126). -/
def execTapePop (t : TileNo) (w : W64) (s : State) : Host.Outcome State Fault Refusal :=
  act (vissue t (opIs 0xAA w) w do
    let s ← cur
    let et := vET w
    let n := nOf s t [et]
    tapePopThen t w n et fun x =>
      vecWrite t (vVD w) 0 (etWidth et) false (etWidth et) n fun k => (popElem x (etWidth et) k, 0)) s

/-- TAPE.TRIM, whatever VL (04 R125, R126, DEDUCED, log entry 31). -/
def execTapeTrim (t : TileNo) (w : W64) (s : State) : Host.Outcome State Fault Refusal :=
  act (issue t (opIs 0xAB w) w do
    let s ← cur
    let x := wf (getS s t (vSS w)) 39 0
    let size := tapeSize s t
    if size = 0 ∨ size ≤ x ∨ tapeUsed s t < (x + size - tapeTailOf s t) % size then tapePerm t (tapeHeadOf s t)
    else
      modCore t fun c => { c with tapeTail := x }
      commit t) s

/-- TAPE.HEAD, whatever VL (04 R125, DEDUCED, log entry 31). -/
def execTapeHead (t : TileNo) (w : W64) (s : State) : Host.Outcome State Fault Refusal :=
  act (issue t (opIs 0xAF w) w do
    let s ← cur
    if tapeSize s t = 0 then tapePerm t (tapeHeadOf s t)
    else writeS t (vSS w) (BitVec.ofNat 64 (tapeHeadOf s t))) s

/-- ADJ.FMA (04 R128). -/
def execAdjFma (t : TileNo) (w : W64) (s : State) : Host.Outcome State Fault Refusal :=
  act (vissue t (opIs 0xAC w) w do
    let s ← cur
    let et := vET w
    let n := nOf s t [et]
    match etFmt et with
    | some f =>
      tapePopThen t w n et fun x =>
        vecWrite t (vVD w) (vPG w) (etWidth et) (vZM w) (etWidth et) n fun k =>
          fmaCode f (vRnd w) (vOvf w) (vecG s t (vRnd w) k) (opA s t w et k) (popElem x (etWidth et) k) (opB s t w et k)
    | none => raise t xIllegal w) s

/-- b + y, rounded, with the flags of y's own step. -/
def addTo (f : Fmt) (w : W64) (g b : Nat) (y : Nat × Nat) : Nat × Nat :=
  let r := fbin exAdd f (vRnd w) (vOvf w) g b y.1
  (r.1, Nat.lor r.2 y.2)

/-- ADJ.DIV: each step rounded (04 R128). -/
def execAdjDiv (t : TileNo) (w : W64) (s : State) : Host.Outcome State Fault Refusal :=
  act (vissue t (opIs 0xAD w) w do
    let s ← cur
    let et := vET w
    let n := nOf s t [et]
    match etFmt et with
    | some f =>
      tapePopThen t w n et fun x =>
        vecWrite t (vVD w) (vPG w) (etWidth et) (vZM w) (etWidth et) n fun k =>
          let g := vecG s t (vRnd w) k
          addTo f w g (opB s t w et k)
            (fbin (fun _ x y => exDiv x y) f (vRnd w) (vOvf w) g (opA s t w et k) (popElem x (etWidth et) k))
    | none => raise t xIllegal w) s

/-- g(a) of ADJ.Q, rounded once (04 R122, R128). -/
def adjQuant (s : State) (t : Nat) (w : W64) (f : Fmt) (g code a : Nat) : Nat × Nat :=
  match qdOf s t with
  | 1 => (0, 0)
  | 2 => fres f (vRnd w) (vOvf w) g (snan1 f a) (scaleFactor (bit (vImm w) 0) code (tensorScale s t w) (decodeF f a))
  | _ => fres f (vRnd w) (vOvf w) g (snan1 f a) (decodeF f a, 0)

/-- ADJ.Q (04 R126, R128). -/
def execAdjQ (t : TileNo) (w : W64) (s : State) : Host.Outcome State Fault Refusal :=
  act (vissue t (opIs 0xAE w) w do
    let s ← cur
    let et := vET w
    let n := nOf s t [et]
    match etFmt et with
    | some f =>
      tapePopThen t w (cdiv n 32) 4 fun x =>
        vecWrite t (vVD w) (vPG w) (etWidth et) (vZM w) (etWidth et) n fun k =>
          let g := vecG s t (vRnd w) k
          addTo f w g (opB s t w et k) (adjQuant s t w f g (popElem x 8 (k / 32)) (opA s t w et k))
    | none => raise t xIllegal w) s

end Sys2Proof.Machine
end

