-- ==== Sys2Proof/Machine/Tick.lean ====
section
/-! DEFINITION. What passes while no command waits. -/
namespace Sys2Proof.Machine

/-- Instances of a source whose count cycles, caches or bursts decide, which the spec leaves open (14 R413, DESIGN CHOICE, log entry 8):
cycles of a stall, of a wait for a launch token and for credit, table walks, and reads and writes of HBM by 64 bytes. -/
def openSource (block ev : Nat) : Nat :=
  match block, ev with
  | 1, 2 => 152
  | 2, 1 => 2
  | 4, 5 => 2
  | 8, 4 => 64
  | 10, 1 => 256
  | 10, 2 => 256
  | _, _ => 0

/-- Counters that count such a source at an instance that exists, or at all. -/
def openCtrs (s : State) : List Nat :=
  (enabledCtrs s).filter fun i =>
    let n := openSource (getF s (F.TELEM_CTR_CFG_BLOCK i)) (getF s (F.TELEM_CTR_CFG_EVENT i))
    decide (0 < n) && (getF s (F.TELEM_CTR_CFG_INST i) == 0xFFF || decide (getF s (F.TELEM_CTR_CFG_INST i) < n))

/-- One cycle of the reference clock: global time advances by its rate (14 R410, DESIGN CHOICE, log entry 2), and the counters of open
sources by free amounts, unless the reference is lost (16 R459) or the rails hold the device in reset (16 R465). -/
def idleTick (s : State) : Host.Outcome State Fault Refusal :=
  act (do
    let s ← cur
    whenB (!s.sys.power.stopped && !s.sys.boot.inReset) do
      emit (.sys { s.sys with telem := { s.sys.telem with time := s.sys.telem.time + s.sys.telem.rate } })
      (openCtrs s).forM fun i => do
        let c ← takeFree
        ctrCount i (bits c.toNat 47 0)) s

end Sys2Proof.Machine
end

