-- ==== Sys2Proof/Machine/VectorMemory.lean ====
section
/-! DEFINITION. The meanings of the vector loads and stores (03 R90, R91, R93). -/
namespace Sys2Proof.Machine

/-- Base address SA + OFF32 (03 R90). -/
def vmemBase (s : State) (t : Nat) (w : W64) : Nat := effAddr (getS s t (mSA w)) (oImm w)

/-- Addresses of the bytes of element k; two E2M1 elements share byte k / 2 (03 R90). -/
def elemAddrs (et base k : Nat) : List Nat :=
  if etWidth et = 4 then [(base + k / 2) % 2 ^ 64]
  else (addrs (base + k * etBytes et) (etBytes et)).map fun a => a % 2 ^ 64

/-- Active elements below n, ascending. -/
def activeIdx (p : BitVec 1024) (lane n : Nat) : List Nat := (upto n).filter fun k => activeAt p lane k

/-- Code of element k in its bytes. -/
def elemCode (et k : Nat) (l : List Byte) : Nat :=
  if etWidth et = 4 then bits (ofBytes l) (4 * (k % 2) + 3) (4 * (k % 2)) else ofBytes l

/-- Whether an address lies in the pond part of the VI's space (05 R137). -/
def pondAddr (a : Nat) : Bool := decide (0xFE0000000000 ≤ a)

/-- The first address of a list that is not of the kind of its first one (03 R90). -/
def otherKind : List Nat → Option Nat
  | [] => none
  | a :: l => l.find? fun b => pondAddr b != pondAddr a

/-- A memory instruction on its base address: the alignment of VLD.A and VST.A first (03 R90). -/
def vmem (t : TileNo) (w : W64) (op : Nat) (aligned : Bool) (m : Nat → M Unit) : M Unit :=
  vissue t (opIs op w) w do
    let s ← cur
    let base := vmemBase s t w
    if aligned && base % 256 != 0 then raise t xAlign (BitVec.ofNat 64 base) else m base

/-- An access to the active bytes: ALIGN where they span pond memory and HBM (03 R90). -/
def spanChecked (t : Nat) (l : List Nat) (m : M Unit) : M Unit :=
  match otherKind l with
  | some a => raise t xAlign (BitVec.ofNat 64 a)
  | none => m

/-- Codes of the elements `ks` in the bytes read for them, as a map. -/
def loadedCodes (et : Nat) (ks : List Nat) (l : List Byte) : SMap Nat :=
  (ks.zip (chunks (max 1 (etBytes et)) l)).map fun p => (p.1, elemCode et p.1 p.2)

/-- VLD and VLD.A (03 R90, R91). -/
def vecLoad (t : TileNo) (w : W64) (op : Nat) (aligned : Bool) : M Unit :=
  vmem t w op aligned fun base => do
    let s ← cur
    let et := mET w
    let n := nOf s t [et]
    let ks := activeIdx (getP s t (mPG w)) (etWidth et) n
    let l := ks.flatMap (elemAddrs et base)
    spanChecked t l (tileLoad t l fun bs =>
      let codes := loadedCodes et ks bs
      vecWrite t (vVD w) (mPG w) (etWidth et) (mZM w) (etWidth et) n fun k => (smGet 0 codes k, 0))

/-- A byte of E2M1 elements after a store: each active half is replaced. -/
def storeNibbles (code : Nat → Nat) (on : Nat → Bool) (k : Nat) (old : Byte) : Byte :=
  let half := fun (j : Nat) => if on j then code j % 16 else bits old.toNat (4 * (j % 2) + 3) (4 * (j % 2))
  BitVec.ofNat 8 (half (k / 2 * 2) + 16 * half (k / 2 * 2 + 1))

/-- The bytes that element k stores, given those that stand there. -/
def elemBytes (et : Nat) (code : Nat → Nat) (on : Nat → Bool) (k : Nat) (old : List Byte) : List Byte :=
  if etWidth et = 4 then old.map (storeNibbles code on k) else bytesOf (etBytes et) (code k)

/-- VST and VST.A: every byte is translated before any is written (03 R90, R91). -/
def vecStore (t : TileNo) (w : W64) (op : Nat) (aligned : Bool) : M Unit :=
  vmem t w op aligned fun base => do
    let s ← cur
    let et := mET w
    let n := nOf s t [et]
    let ks := activeIdx (getP s t (mPG w)) (etWidth et) n
    let l := ks.flatMap (elemAddrs et base)
    let code := fun k => elem (getV s t (vVD w)) (etWidth et) k
    spanChecked t l (tileAccess t aWrite l fun ps => do
      waitStore t ps
      let s ← cur
      let old := chunks (max 1 (etBytes et)) (ps.map (paByte s))
      paWrite (ps.zip ((ks.zip old).flatMap fun p => elemBytes et code (fun k => ks.contains k) p.1 p.2))
      commitV t n (etWidth et))

/-- The elements that a first-fault load takes after its first active one: where it stops, if anywhere, and the places
of those it takes; none where an access waits for a migration (03 R93). -/
def ffScan (s : State) (t et base : Nat) (pond : Bool) : List Nat → Option (Option Nat × List Pa)
  | [] => some (none, [])
  | k :: ks =>
    let l := elemAddrs et base k
    if l.any fun a => pondAddr a != pond then some (some k, [])
    else
      match tileXlate s t aRead l with
      | .ok ps => (ffScan s t et base pond ks).map fun r => (r.1, ps ++ r.2)
      | .bad .. => some (some k, [])
      | .wait => none

/-- VLDFF with the places of the elements below `stop` (03 R93). -/
def ffWrite (t : TileNo) (w : W64) (n stop : Nat) (ks : List Nat) (ps : List Pa) : M Unit := do
  waitLoad t ps
  let s ← cur
  let et := mET w
  let codes := loadedCodes et ks (ps.map (paByte s))
  let old := getV s t (vVD w)
  emit (.vreg t (vVD w)
    (packV (etWidth et)
      (vecElems (getP s t (mPG w)) (etWidth et) (mZM w) old (etWidth et) stop fun k => smGet 0 codes k) old))
  emit (.csr t csrFFR (BitVec.ofNat 64 stop))
  commitV t n (etWidth et)

/-- VLDFF: the first active element faults as VLD would, a later one ends the load (03 R93). -/
def vecLoadFF (t : TileNo) (w : W64) : M Unit :=
  vmem t w 0x64 false fun base => do
    let s ← cur
    let et := mET w
    let n := nOf s t [et]
    match activeIdx (getP s t (mPG w)) (etWidth et) n with
    | [] => ffWrite t w n n [] []
    | k :: ks =>
      let l := elemAddrs et base k
      spanChecked t l (tileAccess t aRead l fun ps =>
        match ffScan s t et base (l.any pondAddr) ks with
        | some (none, qs) => ffWrite t w n n (k :: ks) (ps ++ qs)
        | some (some j, qs) => ffWrite t w n j ((k :: ks).filter fun i => decide (i < j)) (ps ++ qs)
        | none => pure ())

/-- VLD (03 R90). -/
def execVld (t : TileNo) (w : W64) (s : State) : Host.Outcome State Fault Refusal :=
  act (vecLoad t w 0x60 false) s

/-- VLD.A (03 R90). -/
def execVldA (t : TileNo) (w : W64) (s : State) : Host.Outcome State Fault Refusal :=
  act (vecLoad t w 0x61 true) s

/-- VST (03 R90, R91). -/
def execVst (t : TileNo) (w : W64) (s : State) : Host.Outcome State Fault Refusal :=
  act (vecStore t w 0x62 false) s

/-- VST.A (03 R90, R91). -/
def execVstA (t : TileNo) (w : W64) (s : State) : Host.Outcome State Fault Refusal :=
  act (vecStore t w 0x63 true) s

/-- VLDFF (03 R93). -/
def execVldff (t : TileNo) (w : W64) (s : State) : Host.Outcome State Fault Refusal :=
  act (vecLoadFF t w) s

end Sys2Proof.Machine
end

