-- ==== Sys2Proof/Machine/Dispatch.lean ====
section
/-! DEFINITION. What each command does: one arm per constructor. -/
namespace Sys2Proof.Machine

/-- The effect of a command on everything but the queue. -/
def exec (i : Instr) (s : State) : Host.Outcome State Fault Refusal :=
  match i with
  | .regWrite via off width val => Sys2Proof.Machine.execRegWrite via off width val s
  | .regWriteLowerHalf via off val => Sys2Proof.Machine.execRegWriteLowerHalf via off val s
  | .regWriteUpperHalf via off val => Sys2Proof.Machine.execRegWriteUpperHalf via off val s
  | .regReadLowerHalf via off => Sys2Proof.Machine.execRegReadLowerHalf via off s
  | .regReadUpperHalf via off => Sys2Proof.Machine.execRegReadUpperHalf via off s
  | .regAccessBadWidth via off width write => Sys2Proof.Machine.execRegAccessBadWidth via off width write s
  | .reservedOpcode t w => Sys2Proof.Machine.execReservedOpcode t w s
  | .add t w => Sys2Proof.Machine.execAdd t w s
  | .sub t w => Sys2Proof.Machine.execSub t w s
  | .mul t w => Sys2Proof.Machine.execMul t w s
  | .mulh t w => Sys2Proof.Machine.execMulh t w s
  | .mulhu t w => Sys2Proof.Machine.execMulhu t w s
  | .div t w => Sys2Proof.Machine.execDiv t w s
  | .divu t w => Sys2Proof.Machine.execDivu t w s
  | .rem t w => Sys2Proof.Machine.execRem t w s
  | .remu t w => Sys2Proof.Machine.execRemu t w s
  | .and t w => Sys2Proof.Machine.execAnd t w s
  | .or t w => Sys2Proof.Machine.execOr t w s
  | .xor t w => Sys2Proof.Machine.execXor t w s
  | .shl t w => Sys2Proof.Machine.execShl t w s
  | .shr t w => Sys2Proof.Machine.execShr t w s
  | .sar t w => Sys2Proof.Machine.execSar t w s
  | .slt t w => Sys2Proof.Machine.execSlt t w s
  | .sltu t w => Sys2Proof.Machine.execSltu t w s
  | .faddF64 t w => Sys2Proof.Machine.execFaddF64 t w s
  | .fsubF64 t w => Sys2Proof.Machine.execFsubF64 t w s
  | .fmulF64 t w => Sys2Proof.Machine.execFmulF64 t w s
  | .fdivF64 t w => Sys2Proof.Machine.execFdivF64 t w s
  | .fsqrtF64 t w => Sys2Proof.Machine.execFsqrtF64 t w s
  | .fminF64 t w => Sys2Proof.Machine.execFminF64 t w s
  | .fmaxF64 t w => Sys2Proof.Machine.execFmaxF64 t w s
  | .ffmaF64 t w => Sys2Proof.Machine.execFfmaF64 t w s
  | .fcmpEqF64 t w => Sys2Proof.Machine.execFcmpEqF64 t w s
  | .fcmpLtF64 t w => Sys2Proof.Machine.execFcmpLtF64 t w s
  | .fcmpLeF64 t w => Sys2Proof.Machine.execFcmpLeF64 t w s
  | .faddF32 t w => Sys2Proof.Machine.execFaddF32 t w s
  | .fsubF32 t w => Sys2Proof.Machine.execFsubF32 t w s
  | .fmulF32 t w => Sys2Proof.Machine.execFmulF32 t w s
  | .fdivF32 t w => Sys2Proof.Machine.execFdivF32 t w s
  | .fsqrtF32 t w => Sys2Proof.Machine.execFsqrtF32 t w s
  | .fminF32 t w => Sys2Proof.Machine.execFminF32 t w s
  | .fmaxF32 t w => Sys2Proof.Machine.execFmaxF32 t w s
  | .ffmaF32 t w => Sys2Proof.Machine.execFfmaF32 t w s
  | .fcmpEqF32 t w => Sys2Proof.Machine.execFcmpEqF32 t w s
  | .fcmpLtF32 t w => Sys2Proof.Machine.execFcmpLtF32 t w s
  | .fcmpLeF32 t w => Sys2Proof.Machine.execFcmpLeF32 t w s
  | .fcvtF64F32 t w => Sys2Proof.Machine.execFcvtF64F32 t w s
  | .fcvtF32F64 t w => Sys2Proof.Machine.execFcvtF32F64 t w s
  | .fcvtF64I64 t w => Sys2Proof.Machine.execFcvtF64I64 t w s
  | .fcvtF32I64 t w => Sys2Proof.Machine.execFcvtF32I64 t w s
  | .fcvtI64F64 t w => Sys2Proof.Machine.execFcvtI64F64 t w s
  | .fcvtI64F32 t w => Sys2Proof.Machine.execFcvtI64F32 t w s
  | .addi t w => Sys2Proof.Machine.execAddi t w s
  | .andi t w => Sys2Proof.Machine.execAndi t w s
  | .ori t w => Sys2Proof.Machine.execOri t w s
  | .xori t w => Sys2Proof.Machine.execXori t w s
  | .shli t w => Sys2Proof.Machine.execShli t w s
  | .shri t w => Sys2Proof.Machine.execShri t w s
  | .sari t w => Sys2Proof.Machine.execSari t w s
  | .slti t w => Sys2Proof.Machine.execSlti t w s
  | .movi t w => Sys2Proof.Machine.execMovi t w s
  | .movhi t w => Sys2Proof.Machine.execMovhi t w s
  | .beq t w => Sys2Proof.Machine.execBeq t w s
  | .bne t w => Sys2Proof.Machine.execBne t w s
  | .blt t w => Sys2Proof.Machine.execBlt t w s
  | .bge t w => Sys2Proof.Machine.execBge t w s
  | .bltu t w => Sys2Proof.Machine.execBltu t w s
  | .bgeu t w => Sys2Proof.Machine.execBgeu t w s
  | .jal t w => Sys2Proof.Machine.execJal t w s
  | .jr t w => Sys2Proof.Machine.execJr t w s
  | .ldB t w => Sys2Proof.Machine.execLdB t w s
  | .ldH t w => Sys2Proof.Machine.execLdH t w s
  | .ldW t w => Sys2Proof.Machine.execLdW t w s
  | .ldD t w => Sys2Proof.Machine.execLdD t w s
  | .ldsB t w => Sys2Proof.Machine.execLdsB t w s
  | .ldsH t w => Sys2Proof.Machine.execLdsH t w s
  | .ldsW t w => Sys2Proof.Machine.execLdsW t w s
  | .stB t w => Sys2Proof.Machine.execStB t w s
  | .stH t w => Sys2Proof.Machine.execStH t w s
  | .stW t w => Sys2Proof.Machine.execStW t w s
  | .stD t w => Sys2Proof.Machine.execStD t w s
  | .csrr t w => Sys2Proof.Machine.execCsrr t w s
  | .csrw t w => Sys2Proof.Machine.execCsrw t w s
  | .fence t w => Sys2Proof.Machine.execFence t w s
  | .trap t w => Sys2Proof.Machine.execTrap t w s
  | .eret t w => Sys2Proof.Machine.execEret t w s
  | .vsetvl t w => Sys2Proof.Machine.execVsetvl t w s
  | .vsetvlFfr t w => Sys2Proof.Machine.execVsetvlFfr t w s
  | .phase t w => Sys2Proof.Machine.execPhase t w s
  | .snap t w => Sys2Proof.Machine.execSnap t w s
  | .time t w => Sys2Proof.Machine.execTime t w s
  | .vadd t w => Sys2Proof.Machine.execVadd t w s
  | .vsub t w => Sys2Proof.Machine.execVsub t w s
  | .vmul t w => Sys2Proof.Machine.execVmul t w s
  | .vmin t w => Sys2Proof.Machine.execVmin t w s
  | .vmax t w => Sys2Proof.Machine.execVmax t w s
  | .vneg t w => Sys2Proof.Machine.execVneg t w s
  | .vabs t w => Sys2Proof.Machine.execVabs t w s
  | .vfma t w => Sys2Proof.Machine.execVfma t w s
  | .vdiv t w => Sys2Proof.Machine.execVdiv t w s
  | .vsqrt t w => Sys2Proof.Machine.execVsqrt t w s
  | .vand t w => Sys2Proof.Machine.execVand t w s
  | .vor t w => Sys2Proof.Machine.execVor t w s
  | .vxor t w => Sys2Proof.Machine.execVxor t w s
  | .vshl t w => Sys2Proof.Machine.execVshl t w s
  | .vshr t w => Sys2Proof.Machine.execVshr t w s
  | .vmov t w => Sys2Proof.Machine.execVmov t w s
  | .vld t w => Sys2Proof.Machine.execVld t w s
  | .vldA t w => Sys2Proof.Machine.execVldA t w s
  | .vst t w => Sys2Proof.Machine.execVst t w s
  | .vstA t w => Sys2Proof.Machine.execVstA t w s
  | .vldff t w => Sys2Proof.Machine.execVldff t w s
  | .vbcast t w => Sys2Proof.Machine.execVbcast t w s
  | .vslideup t w => Sys2Proof.Machine.execVslideup t w s
  | .vslidedn t w => Sys2Proof.Machine.execVslidedn t w s
  | .vcvt t w => Sys2Proof.Machine.execVcvt t w s
  | .vscaleQ t w => Sys2Proof.Machine.execVscaleQ t w s
  | .vscaleDq t w => Sys2Proof.Machine.execVscaleDq t w s
  | .vredsum t w => Sys2Proof.Machine.execVredsum t w s
  | .vredmin t w => Sys2Proof.Machine.execVredmin t w s
  | .vredmax t w => Sys2Proof.Machine.execVredmax t w s
  | .vext t w => Sys2Proof.Machine.execVext t w s
  | .vins t w => Sys2Proof.Machine.execVins t w s
  | .vsadd t w => Sys2Proof.Machine.execVsadd t w s
  | .vssub t w => Sys2Proof.Machine.execVssub t w s
  | .vrmulh t w => Sys2Proof.Machine.execVrmulh t w s
  | .vshrr t w => Sys2Proof.Machine.execVshrr t w s
  | .vsnarrow t w => Sys2Proof.Machine.execVsnarrow t w s
  | .vcmpEq t w => Sys2Proof.Machine.execVcmpEq t w s
  | .vcmpNe t w => Sys2Proof.Machine.execVcmpNe t w s
  | .vcmpLt t w => Sys2Proof.Machine.execVcmpLt t w s
  | .vcmpLe t w => Sys2Proof.Machine.execVcmpLe t w s
  | .pand t w => Sys2Proof.Machine.execPand t w s
  | .por t w => Sys2Proof.Machine.execPor t w s
  | .pxor t w => Sys2Proof.Machine.execPxor t w s
  | .pnot t w => Sys2Proof.Machine.execPnot t w s
  | .psetn t w => Sys2Proof.Machine.execPsetn t w s
  | .vfirst t w => Sys2Proof.Machine.execVfirst t w s
  | .vpcnt t w => Sys2Proof.Machine.execVpcnt t w s
  | .mma t w => Sys2Proof.Machine.execMma t w s
  | .mmaTa t w => Sys2Proof.Machine.execMmaTa t w s
  | .mmaTb t w => Sys2Proof.Machine.execMmaTb t w s
  | .mmaTatb t w => Sys2Proof.Machine.execMmaTatb t w s
  | .mzero t w => Sys2Proof.Machine.execMzero t w s
  | .mld t w => Sys2Proof.Machine.execMld t w s
  | .mst t w => Sys2Proof.Machine.execMst t w s
  | .mrowR t w => Sys2Proof.Machine.execMrowR t w s
  | .mrowW t w => Sys2Proof.Machine.execMrowW t w s
  | .matrixComplete t => Sys2Proof.Machine.execMatrixComplete t s
  | .vaddT t w => Sys2Proof.Machine.execVaddT t w s
  | .vsubT t w => Sys2Proof.Machine.execVsubT t w s
  | .vmulT t w => Sys2Proof.Machine.execVmulT t w s
  | .vfmaT t w => Sys2Proof.Machine.execVfmaT t w s
  | .vdivT t w => Sys2Proof.Machine.execVdivT t w s
  | .vsqrtT t w => Sys2Proof.Machine.execVsqrtT t w s
  | .vcvtT t w => Sys2Proof.Machine.execVcvtT t w s
  | .vscaleQT t w => Sys2Proof.Machine.execVscaleQT t w s
  | .vscaleDqT t w => Sys2Proof.Machine.execVscaleDqT t w s
  | .tapePush t w => Sys2Proof.Machine.execTapePush t w s
  | .tapePop t w => Sys2Proof.Machine.execTapePop t w s
  | .tapeTrim t w => Sys2Proof.Machine.execTapeTrim t w s
  | .tapeHead t w => Sys2Proof.Machine.execTapeHead t w s
  | .adjFma t w => Sys2Proof.Machine.execAdjFma t w s
  | .adjDiv t w => Sys2Proof.Machine.execAdjDiv t w s
  | .adjQ t w => Sys2Proof.Machine.execAdjQ t w s
  | .dmaPut t w => Sys2Proof.Machine.execDmaPut t w s
  | .sigAdd t w => Sys2Proof.Machine.execSigAdd t w s
  | .sigSub t w => Sys2Proof.Machine.execSigSub t w s
  | .sigSet t w => Sys2Proof.Machine.execSigSet t w s
  | .sigRead t w => Sys2Proof.Machine.execSigRead t w s
  | .sigRemote t w => Sys2Proof.Machine.execSigRemote t w s
  | .wait t w => Sys2Proof.Machine.execWait t w s
  | .collAllred t w => Sys2Proof.Machine.execCollAllred t w s
  | .collRedscat t w => Sys2Proof.Machine.execCollRedscat t w s
  | .collAllgath t w => Sys2Proof.Machine.execCollAllgath t w s
  | .collBcast t w => Sys2Proof.Machine.execCollBcast t w s
  | .collReduce t w => Sys2Proof.Machine.execCollReduce t w s
  | .collDispatch t w => Sys2Proof.Machine.execCollDispatch t w s
  | .collCombine t w => Sys2Proof.Machine.execCollCombine t w s
  | .collRing t w => Sys2Proof.Machine.execCollRing t w s
  | .stalledIssueProceed t => Sys2Proof.Machine.execStalledIssueProceed t s
  | .waitWake c => Sys2Proof.Machine.execWaitWake c s
  | .waitTimeout t => Sys2Proof.Machine.execWaitTimeout t s
  | .sigRemoteRelease v held => Sys2Proof.Machine.execSigRemoteRelease v held s
  | .preempt t => Sys2Proof.Machine.execPreempt t s
  | .preemptDone t => Sys2Proof.Machine.execPreemptDone t s
  | .restore t => Sys2Proof.Machine.execRestore t s
  | .restoreDone t => Sys2Proof.Machine.execRestoreDone t s
  | .fqTailWrite v tail => Sys2Proof.Machine.execFqTailWrite v tail s
  | .retry v inc faultId => Sys2Proof.Machine.execRetry v inc faultId s
  | .abortResume v inc faultId => Sys2Proof.Machine.execAbortResume v inc faultId s
  | .retryAll v inc => Sys2Proof.Machine.execRetryAll v inc s
  | .mmuViInval v vpn all => Sys2Proof.Machine.execMmuViInval v vpn all s
  | .invalDone v => Sys2Proof.Machine.execInvalDone v s
  | .svcLimitExpiry v => Sys2Proof.Machine.execSvcLimitExpiry v s
  | .svcLimitWrite via limit => Sys2Proof.Machine.execSvcLimitWrite via limit s
  | .frameMigrateDone v ipaPage frame => Sys2Proof.Machine.execFrameMigrateDone v ipaPage frame s
  | .spillAdmit v tc => Sys2Proof.Machine.execSpillAdmit v tc s
  | .bar2Write d off bytes => Sys2Proof.Machine.execBar2Write d off bytes s
  | .bar2Read d off len => Sys2Proof.Machine.execBar2Read d off len s
  | .cxlMemAccess d addr access => Sys2Proof.Machine.execCxlMemAccess d addr access s
  | .descriptorStart q hostBytes => Sys2Proof.Machine.execDescriptorStart q hostBytes s
  | .dmaData a f => Sys2Proof.Machine.execDmaData a f s
  | .dmaWritesAcked x => Sys2Proof.Machine.execDmaWritesAcked x s
  | .dmaDone a queue seq status => Sys2Proof.Machine.execDmaDone a queue seq status s
  | .zeroLenComplete q seq => Sys2Proof.Machine.execZeroLenComplete q seq s
  | .descriptorResend q seq => Sys2Proof.Machine.execDescriptorResend q seq s
  | .resendRouteTimeout q seq => Sys2Proof.Machine.execResendRouteTimeout q seq s
  | .signal a ctr fence amount => Sys2Proof.Machine.execSignal a ctr fence amount s
  | .sigNack a ctr amount => Sys2Proof.Machine.execSigNack a ctr amount s
  | .sigCtrWrite c val => Sys2Proof.Machine.execSigCtrWrite c val s
  | .realignCheck g => Sys2Proof.Machine.execRealignCheck g s
  | .create g => Sys2Proof.Machine.execCreate g s
  | .close g => Sys2Proof.Machine.execClose g s
  | .rejoin g => Sys2Proof.Machine.execRejoin g s
  | .join a gid rank caps crc => Sys2Proof.Machine.execJoin a gid rank caps crc s
  | .accept a gid next rejoined => Sys2Proof.Machine.execAccept a gid next rejoined s
  | .refuse a gid code => Sys2Proof.Machine.execRefuse a gid code s
  | .leave a gid => Sys2Proof.Machine.execLeave a gid s
  | .credit a gid gen rank digest chunks => Sys2Proof.Machine.execCredit a gid gen rank digest chunks s
  | .arrive a gid gen rank => Sys2Proof.Machine.execArrive a gid gen rank s
  | .abort a gid gen rank attempt cause => Sys2Proof.Machine.execAbort a gid gen rank attempt cause s
  | .abortGo a gid gen attempt => Sys2Proof.Machine.execAbortGo a gid gen attempt s
  | .abortAck a gid gen rank attempt => Sys2Proof.Machine.execAbortAck a gid gen rank attempt s
  | .abortAckTimeout g gen => Sys2Proof.Machine.execAbortAckTimeout g gen s
  | .goTimeout g gen answering => Sys2Proof.Machine.execGoTimeout g gen answering s
  | .exclude a gid rank => Sys2Proof.Machine.execExclude a gid rank s
  | .joinTimeout g => Sys2Proof.Machine.execJoinTimeout g s
  | .joinWaitTimeout g => Sys2Proof.Machine.execJoinWaitTimeout g s
  | .groupTokenRefill g => Sys2Proof.Machine.execGroupTokenRefill g s
  | .deviceTokenRefill => Sys2Proof.Machine.execDeviceTokenRefill s
  | .generationLaunch g gen => Sys2Proof.Machine.execGenerationLaunch g gen s
  | .chunkSend g gen chunk => Sys2Proof.Machine.execChunkSend g gen chunk s
  | .dispatchCountArrive a gid gen rank counts => Sys2Proof.Machine.execDispatchCountArrive a gid gen rank counts s
  | .colData a f => Sys2Proof.Machine.execColData a f s
  | .chunkCommit g gen chunk => Sys2Proof.Machine.execChunkCommit g gen chunk s
  | .genStatusAcked g gen => Sys2Proof.Machine.execGenStatusAcked g gen s
  | .ringStall g gen => Sys2Proof.Machine.execRingStall g gen s
  | .tarnCellArrive u c => Sys2Proof.Machine.execTarnCellArrive u c s
  | .tarnSpillRestore u => Sys2Proof.Machine.execTarnSpillRestore u s
  | .deepSlotGrant g gen => Sys2Proof.Machine.execDeepSlotGrant g gen s
  | .tarnStoreError u code v inc => Sys2Proof.Machine.execTarnStoreError u code v inc s
  | .tarnWithdraw u => Sys2Proof.Machine.execTarnWithdraw u s
  | .tarnUnitDrained u => Sys2Proof.Machine.execTarnUnitDrained u s
  | .watchClr v => Sys2Proof.Machine.execWatchClr v s
  | .cmpCfgWrite v k val => Sys2Proof.Machine.execCmpCfgWrite v k val s
  | .cmpRefWrite v k val => Sys2Proof.Machine.execCmpRefWrite v k val s
  | .frameAdmit f => Sys2Proof.Machine.execFrameAdmit f s
  | .heldFrameAdmit id => Sys2Proof.Machine.execHeldFrameAdmit id s
  | .frameTimerExpiry id => Sys2Proof.Machine.execFrameTimerExpiry id s
  | .divideCellError die id code => Sys2Proof.Machine.execDivideCellError die id code s
  | .arbDecide arb ready => Sys2Proof.Machine.execArbDecide arb ready s
  | .arbWindowReset arb => Sys2Proof.Machine.execArbWindowReset arb s
  | .arbWatchdog arb => Sys2Proof.Machine.execArbWatchdog arb s
  | .emergencyRequest arb requester => Sys2Proof.Machine.execEmergencyRequest arb requester s
  | .emergencyEnd arb => Sys2Proof.Machine.execEmergencyEnd arb s
  | .mirrorEnable m val => Sys2Proof.Machine.execMirrorEnable m val s
  | .mereAlloc size owner inc => Sys2Proof.Machine.execMereAlloc size owner inc s
  | .mereFree pool index owner inc => Sys2Proof.Machine.execMereFree pool index owner inc s
  | .up p => Sys2Proof.Machine.execUp p s
  | .down p => Sys2Proof.Machine.execDown p s
  | .retrain p => Sys2Proof.Machine.execRetrain p s
  | .test p => Sys2Proof.Machine.execTest p s
  | .relock p => Sys2Proof.Machine.execRelock p s
  | .pllLocked l => Sys2Proof.Machine.execPllLocked l s
  | .pllLockTimeout l => Sys2Proof.Machine.execPllLockTimeout l s
  | .pllLockLoss l => Sys2Proof.Machine.execPllLockLoss l s
  | .codewordReceive p l cw => Sys2Proof.Machine.execCodewordReceive p l cw s
  | .lanes p m => Sys2Proof.Machine.execLanes p m s
  | .width p m => Sys2Proof.Machine.execWidth p m s
  | .widthChangeEffect p seq => Sys2Proof.Machine.execWidthChangeEffect p seq s
  | .narrowReq p m => Sys2Proof.Machine.execNarrowReq p m s
  | .swapReq p m => Sys2Proof.Machine.execSwapReq p m s
  | .swapNak p m => Sys2Proof.Machine.execSwapNak p m s
  | .bye p m => Sys2Proof.Machine.execBye p m s
  | .laneTrainTimeout p l => Sys2Proof.Machine.execLaneTrainTimeout p l s
  | .trainRetry p => Sys2Proof.Machine.execTrainRetry p s
  | .symbolWindowExpiry p l => Sys2Proof.Machine.execSymbolWindowExpiry p l s
  | .opticalAlarm p l on => Sys2Proof.Machine.execOpticalAlarm p l on s
  | .prbsCheckStart p val => Sys2Proof.Machine.execPrbsCheckStart p val s
  | .prbsInjectSingle p val => Sys2Proof.Machine.execPrbsInjectSingle p val s
  | .prbsInjectPeriodic p => Sys2Proof.Machine.execPrbsInjectPeriodic p s
  | .fecInject p l => Sys2Proof.Machine.execFecInject p l s
  | .moduleInsert e => Sys2Proof.Machine.execModuleInsert e s
  | .moduleReady e => Sys2Proof.Machine.execModuleReady e s
  | .moduleRemove e => Sys2Proof.Machine.execModuleRemove e s
  | .edgeFrameReceive e f => Sys2Proof.Machine.execEdgeFrameReceive e f s
  | .linkFrameReceive p f => Sys2Proof.Machine.execLinkFrameReceive p f s
  | .ack p body => Sys2Proof.Machine.execAck p body s
  | .nak p body => Sys2Proof.Machine.execNak p body s
  | .cred p body => Sys2Proof.Machine.execCred p body s
  | .credReturn p tc => Sys2Proof.Machine.execCredReturn p tc s
  | .credRepeat p tc => Sys2Proof.Machine.execCredRepeat p tc s
  | .ackRepeat p => Sys2Proof.Machine.execAckRepeat p s
  | .replayTimeout p => Sys2Proof.Machine.execReplayTimeout p s
  | .cap p m => Sys2Proof.Machine.execCap p m s
  | .capTimer p => Sys2Proof.Machine.execCapTimer p s
  | .ident p m => Sys2Proof.Machine.execIdent p m s
  | .identTimer p => Sys2Proof.Machine.execIdentTimer p s
  | .probe p m turnaround => Sys2Proof.Machine.execProbe p m turnaround s
  | .probeReply p m => Sys2Proof.Machine.execProbeReply p m s
  | .mgmt a seq datagram inSession => Sys2Proof.Machine.execMgmt a seq datagram inSession s
  | .sweep => Sys2Proof.Machine.execSweep s
  | .sweepReplyTimeout => Sys2Proof.Machine.execSweepReplyTimeout s
  | .disc slot rep => Sys2Proof.Machine.execDisc slot rep s
  | .leaderResweep => Sys2Proof.Machine.execLeaderResweep s
  | .sweepIncomplete => Sys2Proof.Machine.execSweepIncomplete s
  | .abandon => Sys2Proof.Machine.execAbandon s
  | .publish => Sys2Proof.Machine.execPublish s
  | .publishActivate => Sys2Proof.Machine.execPublishActivate s
  | .drainSet p => Sys2Proof.Machine.execDrainSet p s
  | .drained p => Sys2Proof.Machine.execDrained p s
  | .metroData e m frame => Sys2Proof.Machine.execMetroData e m frame s
  | .sack e m cum rwin map => Sys2Proof.Machine.execSack e m cum rwin map s
  | .metroProbe e m nonce tSend turnaround => Sys2Proof.Machine.execMetroProbe e m nonce tSend turnaround s
  | .metroProbeReply e m tSend turnaround => Sys2Proof.Machine.execMetroProbeReply e m tSend turnaround s
  | .metroProbeTimer e => Sys2Proof.Machine.execMetroProbeTimer e s
  | .metroRtxTimer e psn => Sys2Proof.Machine.execMetroRtxTimer e psn s
  | .metroSackTimer e => Sys2Proof.Machine.execMetroSackTimer e s
  | .metroSackTimeout e => Sys2Proof.Machine.execMetroSackTimeout e s
  | .sqtail d v lq tail => Sys2Proof.Machine.execSqtail d v lq tail s
  | .sqEntryFetched q entry => Sys2Proof.Machine.execSqEntryFetched q entry s
  | .pushWrite d v lq off bytes => Sys2Proof.Machine.execPushWrite d v lq off bytes s
  | .cqhead d v lq head => Sys2Proof.Machine.execCqhead d v lq head s
  | .cqEntryWrite q => Sys2Proof.Machine.execCqEntryWrite q s
  | .hostQueueEnable q => Sys2Proof.Machine.execHostQueueEnable q s
  | .hostQueueDisable q => Sys2Proof.Machine.execHostQueueDisable q s
  | .hostLinkDown d => Sys2Proof.Machine.execHostLinkDown d s
  | .snpdata addr => Sys2Proof.Machine.execSnpdata addr s
  | .snpinv addr => Sys2Proof.Machine.execSnpinv addr s
  | .snpcur addr => Sys2Proof.Machine.execSnpcur addr s
  | .cxlGo addr data => Sys2Proof.Machine.execCxlGo addr data s
  | .cxlWritePull addr => Sys2Proof.Machine.execCxlWritePull addr s
  | .lineHoldExpiry addr => Sys2Proof.Machine.execLineHoldExpiry addr s
  | .signalLinePost n => Sys2Proof.Machine.execSignalLinePost n s
  | .deviceContainment e inDivideOrPort => Sys2Proof.Machine.execDeviceContainment e inDivideOrPort s
  | .viReset v => Sys2Proof.Machine.execViReset v s
  | .viResetDeferEnd v => Sys2Proof.Machine.execViResetDeferEnd v s
  | .viResetDone v => Sys2Proof.Machine.execViResetDone v s
  | .viResetTimeout v => Sys2Proof.Machine.execViResetTimeout v s
  | .migrate ptile => Sys2Proof.Machine.execMigrate ptile s
  | .migrateDone => Sys2Proof.Machine.execMigrateDone s
  | .migrateTimeout => Sys2Proof.Machine.execMigrateTimeout s
  | .pondUncorrectable t off => Sys2Proof.Machine.execPondUncorrectable t off s
  | .hbmEccError channel row corrected => Sys2Proof.Machine.execHbmEccError channel row corrected s
  | .healthDecay => Sys2Proof.Machine.execHealthDecay s
  | .ppsEdge => Sys2Proof.Machine.execPpsEdge s
  | .ptpMessage offset => Sys2Proof.Machine.execPtpMessage offset s
  | .timeSourceLoss => Sys2Proof.Machine.execTimeSourceLoss s
  | .timeSet ns => Sys2Proof.Machine.execTimeSet ns s
  | .snapCmd => Sys2Proof.Machine.execSnapCmd s
  | .trigInRise => Sys2Proof.Machine.execTrigInRise s
  | .snapAtWrite at_ => Sys2Proof.Machine.execSnapAtWrite at_ s
  | .snapAtReached => Sys2Proof.Machine.execSnapAtReached s
  | .counterThreshold ctr => Sys2Proof.Machine.execCounterThreshold ctr s
  | .snapshotLatch => Sys2Proof.Machine.execSnapshotLatch s
  | .snapshotRecordWritten => Sys2Proof.Machine.execSnapshotRecordWritten s
  | .recTailWrite v tail => Sys2Proof.Machine.execRecTailWrite v tail s
  | .resetN sel => Sys2Proof.Machine.execResetN sel s
  | .mgmtReset via sel => Sys2Proof.Machine.execMgmtReset via sel s
  | .firmwareVerified => Sys2Proof.Machine.execFirmwareVerified s
  | .selftestDone failed => Sys2Proof.Machine.execSelftestDone failed s
  | .hbmTrained ok => Sys2Proof.Machine.execHbmTrained ok s
  | .profileReadDone => Sys2Proof.Machine.execProfileReadDone s
  | .profileLoad slot => Sys2Proof.Machine.execProfileLoad slot s
  | .viCreate v => Sys2Proof.Machine.execViCreate v s
  | .viDestroy v => Sys2Proof.Machine.execViDestroy v s
  | .viLoad v => Sys2Proof.Machine.execViLoad v s
  | .viUnload v => Sys2Proof.Machine.execViUnload v s
  | .expertWrite via val => Sys2Proof.Machine.execExpertWrite via val s
  | .versionFuseRaise byAdministrator => Sys2Proof.Machine.execVersionFuseRaise byAdministrator s
  | .spiWrite f => Sys2Proof.Machine.execSpiWrite f s
  | .spiRead f => Sys2Proof.Machine.execSpiRead f s
  | .mgmtDatagram port words inSession => Sys2Proof.Machine.execMgmtDatagram port words inSession s
  | .spdmRequest index => Sys2Proof.Machine.execSpdmRequest index s
  | .maintStart act tag target => Sys2Proof.Machine.execMaintStart act tag target s
  | .maintCancel tag => Sys2Proof.Machine.execMaintCancel tag s
  | .maintDone tag defect => Sys2Proof.Machine.execMaintDone tag defect s
  | .maintWindowDue act target => Sys2Proof.Machine.execMaintWindowDue act target s
  | .powerControlTick watts => Sys2Proof.Machine.execPowerControlTick watts s
  | .dvfsGapEnd grp => Sys2Proof.Machine.execDvfsGapEnd grp s
  | .avsComplete => Sys2Proof.Machine.execAvsComplete s
  | .avsTimeout => Sys2Proof.Machine.execAvsTimeout s
  | .tempWarn temp => Sys2Proof.Machine.execTempWarn temp s
  | .tempThrot temp => Sys2Proof.Machine.execTempThrot temp s
  | .throttleTick temp => Sys2Proof.Machine.execThrottleTick temp s
  | .tempCrit temp => Sys2Proof.Machine.execTempCrit temp s
  | .tempBelowThrot temp => Sys2Proof.Machine.execTempBelowThrot temp s
  | .thermalTrip => Sys2Proof.Machine.execThermalTrip s
  | .refclkLoss inp => Sys2Proof.Machine.execRefclkLoss inp s
  | .refclkRestored inp sel => Sys2Proof.Machine.execRefclkRestored inp sel s
  | .brownout rail aonHolds => Sys2Proof.Machine.execBrownout rail aonHolds s
  | .brownoutRecover sel => Sys2Proof.Machine.execBrownoutRecover sel s
  | .tempBelowWarn temp => Sys2Proof.Machine.execTempBelowWarn temp s
  | .configurationRequest d r => Sys2Proof.Machine.execConfigurationRequest d r s
  | .hostLinkUp d cxl => Sys2Proof.Machine.execHostLinkUp d cxl s
  | .ppsOut => Sys2Proof.Machine.execPpsOut s
  | .prbsSync p l bits => Sys2Proof.Machine.execPrbsSync p l bits s
  | .edgePortLock e => Sys2Proof.Machine.execEdgePortLock e s

end Sys2Proof.Machine
end

