-- ==== Sys2Proof/Safety.lean ====
section
/-! DEFINITION. What counts as a safe run, in the terms that statements use. -/
namespace Sys2Proof

open Sys2Proof.Machine

/-- A tile in canonical form: its maps, S0 and P0 unwritten (03 R69). -/
def tileOk (x : Tile) : Bool :=
  smOk 0 x.csr && smOk 0 x.s && smOk 0 x.v && smOk 0 x.p && smOk 0 x.acc &&
  smGet 0 x.s 0 == 0 && smGet 0 x.p 0 == 0

/-- The canonical form of a memory: addresses strictly rising, no entry equal to what an unlisted address reads as. -/
abbrev Memory.wf (m : SMap Byte) : Bool := smOk 0 m

/-- The state in canonical form: equal registers, memories and tiles are equal data. -/
def Inv (s : State) : Prop :=
  smOk 0 s.regs = true ∧ Memory.wf s.hbm = true ∧ Memory.wf s.pond = true ∧ smOk {} s.tiles = true ∧
  s.tiles.all (fun p => tileOk p.2) = true

/-- Whether the word at a tile's PC can be fetched (03 R94, 05 R144). -/
def fetches (s : State) (t : Nat) : Bool :=
  match translate s (tileVi s t) (some t) (tileOf s t).core.pc.toNat aFetch with
  | .ok _ => true
  | _ => false

/-- A tile issues at an aligned PC that it can fetch from, with no breakpoint there (03 R64, R94, R101). -/
def tileFetches (s : State) (t : Nat) : Bool :=
  canIssue s t && !breakAt s t (tileOf s t).core.pc && (tileOf s t).core.pc.toNat % 8 == 0 && fetches s t

/-- A tile executes an instruction word: it fetches, and the word is not ILLEGAL by its encoding (03 R74). -/
def tileReady (s : State) (t : Nat) (w : W64) : Bool := tileFetches s t && legalWord w

/-- An exception of a tile enters its handler: none runs, and the trap vector is set (03 R96, R97). -/
def handlerReady (s : State) (t : Nat) : Bool := !(tileOf s t).core.ih && getCsr s t csrTVEC != 0

/-- Offsets of the event counters' registers (14 R412, R428), which every event may move. -/
def ctrOff (off : Nat) : Bool := decide (0x401000 ≤ off) && decide (off < 0x402000)

/-- Every byte of memory reads as before. -/
def sameMemory (s s' : State) : Prop :=
  (∀ a, hbmByte s' a = hbmByte s a) ∧ ∀ u b, pondByte s' u b = pondByte s u b

/-- Every register but the event counters, the engines, the queue and what has been sent are as before. -/
def sameSystem (s s' : State) : Prop :=
  (∀ r : RegRef, ctrOff r.off = false → getR s' r = getR s r) ∧ s'.sys = s.sys ∧ s'.out = s.out ∧
  s'.pending = s.pending

/-- Whether an offset belongs to one of the blocks: each block's registers stand in 4 MiB of their own (01 R25). -/
def offIn (bs : List Nat) (off : Nat) : Bool := bs.contains (off / 0x400000)

/-- Blocks of registers. -/
def blkMgmt : Nat := 0
def blkTelem : Nat := 1
def blkFault : Nat := 2
def blkHost : Nat := 4
def blkMmu : Nat := 5
def blkDma : Nat := 6
def blkSig : Nat := 7
def blkCol : Nat := 8
def blkTarn : Nat := 9
def blkDivide : Nat := 10
def blkMere : Nat := 11
def blkPort : Nat := 12
def blkEdge : Nat := 13
def blkTile : Nat := 15
/-- The maintenance registers (15 R454), which the model keeps apart (DESIGN CHOICE, log entry 6). -/
def blkMaint : Nat := 16

/-- Memory, every tile and the queue are as before, and every register of other blocks but the event counters. -/
def onlyRegs (s s' : State) (bs : List Nat) : Prop :=
  sameMemory s s' ∧ (∀ t, tileOf s' t = tileOf s t) ∧
  (∀ r : RegRef, ctrOff r.off = false → offIn bs r.off = false → getR s' r = getR s r) ∧ s'.pending = s.pending

/-- Every tile but t is as before. -/
def sameOthers (s s' : State) (t : Nat) : Prop := ∀ u, u ≠ t → tileOf s' u = tileOf s u

/-- Element k of accumulator storage of a tile. -/
def accAt (s : State) (t k : Nat) : W64 := smGet 0 (tileOf s t).acc k

/-- The registers of a tile are S, V, P, accumulators, CSRs and core as given. -/
def tileIs (s : State) (t : Nat) (S : Nat → W64) (V : Nat → BitVec 8192) (P : Nat → BitVec 1024) (A : Nat → W64)
    (C : Nat → W64) (core : TileCore) : Prop :=
  (∀ i, getS s t i = S i) ∧ (∀ i, getV s t i = V i) ∧ (∀ i, getP s t i = P i) ∧ (∀ k, accAt s t k = A k) ∧
  (∀ n, getCsr s t n = C n) ∧ (tileOf s t).core = core

/-- The core of a tile once an instruction has committed at a PC (03 R64). -/
def committed (c : TileCore) (pc : BitVec 48) : TileCore :=
  { c with pc, state := .run, stall := .none, xlSince := none }

end Sys2Proof
end

