-- ==== Sys2Proof/Certificates/Slice0/Obligations.lean ====
section
/-! DEFINITION. The statements for the provers. -/
namespace Sys2Proof.Claim

open Sys2Proof.Machine


/-! The scalar instructions (03 R80-R82). -/

/-- A register file with register d set. -/
def put {α : Type} (f : Nat → α) (d : Nat) (v : α) : Nat → α := fun i => if i = d then v else f i

/-- The S registers with register d set: a write to S0 is discarded (03 R69). -/
def putS (s : State) (t d : Nat) (v : W64) : Nat → W64 := fun i => if i = d ∧ d ≠ 0 then v else getS s t i

/-- The PC after an instruction that does not jump: 8 further. -/
def next (s : State) (t : Nat) : BitVec 48 := (tileOf s t).core.pc + 8

/-- The S registers, the CSRs and the PC of tile t are as given; its other registers, every other tile, memory and the
rest of the state are as before. -/
def scalarStep (s s' : State) (t : Nat) (S C : Nat → W64) (pc : BitVec 48) : Prop :=
  tileIs s' t S (getV s t) (getP s t) (accAt s t) C (committed (tileOf s t).core pc) ∧
  sameOthers s s' t ∧ sameMemory s s' ∧ sameSystem s s'

/-- Register d takes v, the PC moves on, and nothing else changes. -/
def writesS (s s' : State) (t d : Nat) (v : W64) : Prop :=
  scalarStep s s' t (putS s t d v) (getCsr s t) (next s t)

/-- FFLAGS with flags added: they are sticky (03 R71). -/
def addFlags (s : State) (t fl : Nat) : Nat → W64 :=
  put (getCsr s t) csrFFLAGS (getCsr s t csrFFLAGS ||| BitVec.ofNat 64 fl)

/-- The high half of a product. -/
def hiMul (ext : W64 → BitVec 128) (a b : W64) : W64 := ((ext a * ext b) >>> 64).setWidth 64

/-- The integer instructions on two registers: FN and result (03 R80, R81). -/
def intOps : List ((TileNo → W64 → Instr) × Nat × (W64 → W64 → W64)) :=
  [(.add, 0x00, fun a b => a + b), (.sub, 0x01, fun a b => a - b), (.mul, 0x02, fun a b => a * b),
   (.mulh, 0x03, hiMul (BitVec.signExtend 128)), (.mulhu, 0x04, hiMul (BitVec.setWidth 128)),
   (.div, 0x05, fun a b => if b = 0 then BitVec.allOnes 64 else a.sdiv b),
   (.divu, 0x06, fun a b => if b = 0 then BitVec.allOnes 64 else a / b),
   (.rem, 0x07, fun a b => if b = 0 then a else a.srem b), (.remu, 0x08, fun a b => if b = 0 then a else a % b),
   (.and, 0x09, fun a b => a &&& b), (.or, 0x0a, fun a b => a ||| b), (.xor, 0x0b, fun a b => a ^^^ b),
   (.shl, 0x0c, fun a b => a <<< (b.toNat % 64)), (.shr, 0x0d, fun a b => a >>> (b.toNat % 64)),
   (.sar, 0x0e, fun a b => a.sshiftRight (b.toNat % 64)), (.slt, 0x0f, fun a b => if a.slt b then 1 else 0),
   (.sltu, 0x10, fun a b => if a.ult b then 1 else 0)]

/-- IMM32 or OFF32, sign-extended. -/
def imm (w : W64) : W64 := (w.setWidth 32).signExtend 64

/-- The integer instructions on a register and the immediate: OP and result from SA and IMM32 (03 R80). -/
def immOps : List ((TileNo → W64 → Instr) × Nat × (W64 → W64 → W64)) :=
  [(.addi, 0x10, fun a b => a + b), (.andi, 0x11, fun a b => a &&& b), (.ori, 0x12, fun a b => a ||| b),
   (.xori, 0x13, fun a b => a ^^^ b), (.shli, 0x14, fun a b => a <<< (b.toNat % 64)),
   (.shri, 0x15, fun a b => a >>> (b.toNat % 64)), (.sari, 0x16, fun a b => a.sshiftRight (b.toNat % 64)),
   (.slti, 0x17, fun a b => if a.slt b then 1 else 0), (.movi, 0x18, fun _ b => b)]

/-- What a floating instruction makes of RND, OVF, the Spring output and the codes of SA, SB and SD: code and flags. -/
abbrev FpResult := Nat → Nat → Nat → Nat → Nat → Nat → Nat × Nat

/-- The results of the eleven floating instructions of a format, with their FN (03 R80, R81, R84). -/
def fpForms (f : Fmt) (c : List (TileNo → W64 → Instr)) : List ((TileNo → W64 → Instr) × Nat × FpResult) :=
  c.zip
    [(0x00, fun r o g a b _ => fbin exAdd f r o g a b),
     (0x01, fun r o g a b _ => fbin (fun r x y => exAdd r x (exNeg y)) f r o g a b),
     (0x02, fun r o g a b _ => fbin (fun _ x y => exMul x y) f r o g a b),
     (0x03, fun r o g a b _ => fbin (fun _ x y => exDiv x y) f r o g a b),
     (0x04, fun r o g a _ _ => fres f r o g (snan1 f a) (exSqrt (decodeF f a))),
     (0x05, fun r o g a b _ => fbin (fun _ x y => (exMin false x y, 0)) f r o g a b),
     (0x06, fun r o g a b _ => fbin (fun _ x y => (exMin true x y, 0)) f r o g a b),
     (0x07, fun r o g a b d => fmaCode f r o g a b d), (0x08, fun _ _ _ a b _ => fcmp (fun o => o == .eq) f a b),
     (0x09, fun _ _ _ a b _ => fcmp (fun o => o == .lt) f a b), (0x0a, fun _ _ _ a b _ => fcmp (fun o => o != .gt) f a b)]

/-- The floating instructions of F64 and F32. -/
def f64Ops : List ((TileNo → W64 → Instr) × Nat × FpResult) :=
  fpForms .f64 [.faddF64, .fsubF64, .fmulF64, .fdivF64, .fsqrtF64, .fminF64, .fmaxF64, .ffmaF64, .fcmpEqF64,
    .fcmpLtF64, .fcmpLeF64]
def f32Ops : List ((TileNo → W64 → Instr) × Nat × FpResult) :=
  fpForms .f32 [.faddF32, .fsubF32, .fmulF32, .fdivF32, .fsqrtF32, .fminF32, .fmaxF32, .ffmaF32, .fcmpEqF32,
    .fcmpLtF32, .fcmpLeF32]

/-- A floating instruction writes SD with the code of its result and adds its flags. -/
def fpWrites (s : State) (t : TileNo) (w : W64) (c : TileNo → W64 → Instr) (r : Nat × Nat) : Prop :=
  ∃ s', Machine.exec (c t w) s = .next s' ∧
    scalarStep s s' t (putS s t (oSD w) (BitVec.ofNat 64 r.1)) (addFlags s t r.2) (next s t)

/-- The conversions: FN, source and destination type (03 R75, R80, R84). -/
def cvtOps : List ((TileNo → W64 → Instr) × Nat × Nat × Nat) :=
  [(.fcvtF64F32, 0, 9, 8), (.fcvtF32F64, 1, 8, 9), (.fcvtF64I64, 2, 3, 8), (.fcvtF32I64, 3, 3, 9),
   (.fcvtI64F64, 4, 8, 3), (.fcvtI64F32, 5, 9, 3)]

/-- The conditional branches: OP and condition on SA and SB (03 R80). -/
def branchOps : List ((TileNo → W64 → Instr) × Nat × (W64 → W64 → Bool)) :=
  [(.beq, 0x20, fun a b => a == b), (.bne, 0x21, fun a b => a != b), (.blt, 0x22, fun a b => a.slt b),
   (.bge, 0x23, fun a b => !a.slt b), (.bltu, 0x24, fun a b => a.ult b), (.bgeu, 0x25, fun a b => !a.ult b)]

/-- The target of a PC-relative jump: OFF32 instructions of 8 bytes from the jump. -/
def target (s : State) (t : Nat) (w : W64) : BitVec 48 := (tileOf s t).core.pc + (imm w * 8).setWidth 48

/-- The link of JAL and JR: the address of the next instruction. -/
def link (s : State) (t : Nat) : W64 := (next s t).setWidth 64

/-- The target of JR: SB, or the link where SA = SB, since the link is written first. -/
def jrTarget (s : State) (t : Nat) (w : W64) : W64 :=
  if bSA w ≠ 0 ∧ bSA w = bSB w then link s t else getS s t (bSB w)

/-- Address of a scalar load or store: SA + OFF32. -/
def addr (s : State) (t : Nat) (w : W64) : Nat := (getS s t (oSA w) + imm w).toNat

/-- The scalar loads: OP, bytes and result from the bytes' value (03 R80). -/
def loadOps : List ((TileNo → W64 → Instr) × Nat × Nat × (Nat → W64)) :=
  [(.ldB, 0x30, 1, BitVec.ofNat 64), (.ldH, 0x31, 2, BitVec.ofNat 64), (.ldW, 0x32, 4, BitVec.ofNat 64),
   (.ldD, 0x33, 8, BitVec.ofNat 64), (.ldsB, 0x34, 1, fun x => (BitVec.ofNat 8 x).signExtend 64),
   (.ldsH, 0x35, 2, fun x => (BitVec.ofNat 16 x).signExtend 64),
   (.ldsW, 0x36, 4, fun x => (BitVec.ofNat 32 x).signExtend 64)]

/-- The scalar stores: OP and bytes (03 R80). -/
def storeOps : List ((TileNo → W64 → Instr) × Nat × Nat) :=
  [(.stB, 0x38, 1), (.stH, 0x39, 2), (.stW, 0x3a, 4), (.stD, 0x3b, 8)]

/-- A place that exists: a byte of HBM, or of the pond of a tile. -/
def isPlace : Pa → Prop
  | .hbm _ => True
  | .pond _ off => off < pondSize

/-- Every place takes one byte. -/
def oneByte (l : List (Pa × Byte)) : Prop := ∀ x ∈ l, ∀ y ∈ l, x.1 = y.1 → x.2 = y.2

/-- The places of the list hold its bytes, and every other byte of memory is as before. -/
def stored (s s' : State) (l : List (Pa × Byte)) : Prop :=
  (∀ x ∈ l, paByte s' x.1 = x.2) ∧ ∀ p, isPlace p → (∀ b, (p, b) ∉ l) → paByte s' p = paByte s p

end Sys2Proof.Claim

open Sys2Proof Sys2Proof.Machine

/-- Every integer instruction on two scalar registers (03 R80, R81), on a tile that executes its word, writes SD with
its result, advances the PC by 8 and changes nothing else of the tile, of another tile or of memory; a write to S0 is
discarded. -/
def Claim.ScalarIntegerRegisterResult : Prop :=
  ∀ c ∈ Claim.intOps, ∀ (s : State) (t : TileNo) (w : W64),
    tileReady s t w = true → fnIs 0 c.2.1 w = true →
    ∃ s', Machine.exec (c.1 t w) s = .next s' ∧
      Claim.writesS s s' t (oSD w) (c.2.2 (getS s t (oSA w)) (getS s t (oSB w)))

/-- Every integer instruction on a register and IMM32 (03 R80), on a tile that executes its word, writes SD and advances
the PC by 8, and changes nothing else; MOVHI puts IMM32 into the high half of SD and keeps the low half. -/
def Claim.ScalarImmediateResult : Prop :=
  (∀ c ∈ Claim.immOps, ∀ (s : State) (t : TileNo) (w : W64),
    tileReady s t w = true → opIs c.2.1 w = true →
    ∃ s', Machine.exec (c.1 t w) s = .next s' ∧
      Claim.writesS s s' t (oSD w) (c.2.2 (getS s t (oSA w)) (Claim.imm w))) ∧
  ∀ (s : State) (t : TileNo) (w : W64), tileReady s t w = true → opIs 0x19 w = true →
    ∃ s', Machine.exec (.movhi t w) s = .next s' ∧
      Claim.writesS s s' t (oSD w) (w.setWidth 32 ++ (getS s t (oSD w)).setWidth 32)

/-- Every scalar floating instruction and conversion (03 R71, R80, R84), on a tile that executes its word, writes SD with
the code of its result, adds its flags to FFLAGS, advances the PC by 8 and changes nothing else. -/
def Obligations.ScalarFloatResult : Prop :=
  (∀ c ∈ Claim.f64Ops, ∀ (s : State) (t : TileNo) (w : W64), tileReady s t w = true → fnIs 1 c.2.1 w = true →
    Claim.fpWrites s t w c.1 (c.2.2 (oRnd w) (oOvf w) (scalarG s t (oRnd w)) (fcode .f64 (getS s t (oSA w)))
      (fcode .f64 (getS s t (oSB w))) (fcode .f64 (getS s t (oSD w))))) ∧
  (∀ c ∈ Claim.f32Ops, ∀ (s : State) (t : TileNo) (w : W64), tileReady s t w = true → fnIs 2 c.2.1 w = true →
    Claim.fpWrites s t w c.1 (c.2.2 (oRnd w) (oOvf w) (scalarG s t (oRnd w)) (fcode .f32 (getS s t (oSA w)))
      (fcode .f32 (getS s t (oSB w))) (fcode .f32 (getS s t (oSD w))))) ∧
  ∀ c ∈ Claim.cvtOps, ∀ (s : State) (t : TileNo) (w : W64), tileReady s t w = true → fnIs 3 c.2.1 w = true →
    let r := convert c.2.2.1 c.2.2.2 (oRnd w) (oOvf w) (scalarG s t (oRnd w))
      ((getS s t (oSA w)).toNat % 2 ^ etWidth c.2.2.1)
    Claim.fpWrites s t w c.1 (r.code, r.flags)

/-- A conditional branch (03 R80) goes to PC + 8 × OFF32 where its condition holds and to the next instruction where it
does not; JAL and JR write the link and go to their target. None changes anything else. That JR with SA = SB takes the
link is the model's reading (log entry 45). -/
def Obligations.BranchAndJumpTarget : Prop :=
  (∀ c ∈ Claim.branchOps, ∀ (s : State) (t : TileNo) (w : W64),
    tileReady s t w = true → opIs c.2.1 w = true →
    ∃ s', Machine.exec (c.1 t w) s = .next s' ∧
      Claim.scalarStep s s' t (getS s t) (getCsr s t)
        (if c.2.2 (getS s t (bSA w)) (getS s t (bSB w)) then Claim.target s t w else Claim.next s t)) ∧
  (∀ (s : State) (t : TileNo) (w : W64), tileReady s t w = true → opIs 0x26 w = true →
    ∃ s', Machine.exec (.jal t w) s = .next s' ∧
      Claim.scalarStep s s' t (Claim.putS s t (bSA w) (Claim.link s t)) (getCsr s t) (Claim.target s t w)) ∧
  ∀ (s : State) (t : TileNo) (w : W64), tileReady s t w = true → opIs 0x27 w = true →
    (Claim.jrTarget s t w).toNat % 8 = 0 →
    ∃ s', Machine.exec (.jr t w) s = .next s' ∧
      Claim.scalarStep s s' t (Claim.putS s t (bSA w) (Claim.link s t)) (getCsr s t)
        ((Claim.jrTarget s t w).setWidth 48)

/-- A scalar load (03 R80, R82) from a naturally aligned address whose bytes translate to places `ps`, with no matrix
instruction pending on the tile, writes SD with the bytes' value, zero- or sign-extended, and changes nothing else. -/
def Claim.ScalarLoadResult : Prop :=
  ∀ c ∈ Claim.loadOps, ∀ (s : State) (t : TileNo) (w : W64) (ps : List Pa),
    tileReady s t w = true → opIs c.2.1 w = true → (tileOf s t).core.mat = [] →
    Claim.addr s t w % c.2.2.1 = 0 → tileXlate s t aRead (addrs (Claim.addr s t w) c.2.2.1) = .ok ps →
    ∃ s', Machine.exec (c.1 t w) s = .next s' ∧
      Claim.writesS s s' t (oSD w) (c.2.2.2 (ofBytes (ps.map (paByte s))))

/-- A scalar store (03 R80, R82) to a naturally aligned address whose bytes translate to places `ps`, with no matrix
instruction pending on the tile, writes there the low bytes of SS, little-endian; every other byte of memory, every
register but the PC and the rest of the state are as before. The bytes of one access lie at different places. -/
def Claim.ScalarStoreResult : Prop :=
  ∀ c ∈ Claim.storeOps, ∀ (s : State) (t : TileNo) (w : W64) (ps : List Pa),
    tileReady s t w = true → opIs c.2.1 w = true → (tileOf s t).core.mat = [] →
    Claim.addr s t w % c.2.2 = 0 → tileXlate s t aWrite (addrs (Claim.addr s t w) c.2.2) = .ok ps → ps.Nodup →
    ∃ s', Machine.exec (c.1 t w) s = .next s' ∧
      Claim.stored s s' (ps.zip (bytesOf c.2.2 (getS s t (oSD w)).toNat)) ∧
      tileIs s' t (getS s t) (getV s t) (getP s t) (accAt s t) (getCsr s t)
        (committed (tileOf s t).core (Claim.next s t)) ∧
      sameOthers s s' t ∧ sameSystem s s'

/-- Scalar integer results, from two registers and from a register and the immediate. -/
def Obligations.ScalarIntegerResult : Prop :=
  Claim.ScalarIntegerRegisterResult ∧ Claim.ScalarImmediateResult

/-- Scalar loads and stores. -/
def Obligations.ScalarMemoryResult : Prop :=
  Claim.ScalarLoadResult ∧ Claim.ScalarStoreResult


namespace Sys2Proof.Claim

/-- The numbers of the control and status registers, and those of type RW (03 R70). -/
def csrNumbers : List Nat := [0, 1, 2, 3, 0x10, 0x11, 0x12, 0x13, 0x14, 0x15, 0x20, 0x21, 0x22, 0x23, 0x24, 0x30, 0x31, 0x32]
def csrRw : List Nat := [0, 1, 2, 3, 0x10, 0x11, 0x12, 0x13, 0x14, 0x15, 0x20, 0x21, 0x24]

/-- What a write of v to CSR n stores (03 R70): VL at most 2,048; the fields of TCTL, FFLAGS and SRSEED; TVEC with bits
2:0 zero. -/
def csrKeeps (n : Nat) (v : W64) : W64 :=
  if n = csrVL then (if 2048 < v.toNat then 2048 else v)
  else if n = csrTCTL then v &&& 0xF
  else if n = csrFFLAGS then v &&& 0x7F
  else if n = 0x10 ∨ n = 0x11 ∨ n = 0x12 ∨ n = 0x13 then v &&& 0xFFFFFFFF
  else if n = csrTVEC then v &&& (~~~7)
  else v

/-- What CSRR of number n reads: CYCLE is a free value. -/
def csrReads (s : State) (t n : Nat) : W64 :=
  if n = 0x30 then Config.freeValue s.free else if n = 0x31 then tileId s t else if n = 0x32 then viid s t
  else getCsr s t n

/-- CSR number of a word. -/
def csrNo (w : W64) : Nat := wf w 11 0

/-- The tile's handler is entered with a cause and EADDR: EPC takes the PC, the PC takes TVEC and IH becomes 1; the tile's
other registers are as before (03 R95, R96). -/
def atHandler (s s' : State) (t : Nat) (cause : W64) (ea : W64) : Prop :=
  tileIs s' t (getS s t) (getV s t) (getP s t) (accAt s t)
    (put (put (put (getCsr s t) csrEPC ((tileOf s t).core.pc.setWidth 64)) csrECAUSE cause) csrEADDR ea)
    { (tileOf s t).core with pc := (getCsr s t csrTVEC).setWidth 48, ih := true, state := .run, stall := .none,
                             xlSince := none }

/-- The handler is entered, and every other tile, memory and the rest of the state are as before. -/
def entersHandler (s s' : State) (t : Nat) (cause : W64) (ea : W64) : Prop :=
  atHandler s s' t cause ea ∧ sameOthers s s' t ∧ sameMemory s s' ∧ sameSystem s s'

end Sys2Proof.Claim

/-- CSRR reads every CSR into SD; CSRW stores what the CSR keeps of SA; FENCE only moves the PC; VSETVL sets VL and SD to
min(SA, VLMAX(ET)) and VSETVL.FFR to FFR, at most 2,048 (03 R70, R77, R100), with no matrix instruction pending. What
CSRR of CYCLE reads is a free value (log entry 8). -/
def Obligations.ControlRegisterInstructionResult : Prop :=
  ∀ (s : State) (t : TileNo) (w : W64), tileReady s t w = true → (tileOf s t).core.mat = [] →
    (opIs 0x40 w = true → Claim.csrNo w ∈ Claim.csrNumbers →
      ∃ s', Machine.exec (.csrr t w) s = .next s' ∧
        Claim.writesS s s' t (oSD w) (Claim.csrReads s t (Claim.csrNo w))) ∧
    (opIs 0x41 w = true → Claim.csrNo w ∈ Claim.csrRw →
      (Claim.csrNo w = 2 → wf (getS s t (oSA w)) 3 2 ≠ 3 ∧ wf (getS s t (oSA w)) 1 0 ≠ 3) →
      ∃ s', Machine.exec (.csrw t w) s = .next s' ∧
        Claim.scalarStep s s' t (getS s t)
          (Claim.put (getCsr s t) (Claim.csrNo w) (Claim.csrKeeps (Claim.csrNo w) (getS s t (oSA w)))) (Claim.next s t)) ∧
    (opIs 0x42 w = true →
      ∃ s', Machine.exec (.fence t w) s = .next s' ∧ Claim.scalarStep s s' t (getS s t) (getCsr s t) (Claim.next s t)) ∧
    (opIs 0x45 w = true →
      let n := BitVec.ofNat 64 (min (getS s t (oSA w)).toNat (vlmax (wf w 3 0)))
      ∃ s', Machine.exec (.vsetvl t w) s = .next s' ∧
        Claim.scalarStep s s' t (Claim.putS s t (oSD w) n) (Claim.put (getCsr s t) csrVL n) (Claim.next s t)) ∧
    (opIs 0x46 w = true →
      let n := Claim.csrKeeps 0 (getCsr s t csrFFR)
      ∃ s', Machine.exec (.vsetvlFfr t w) s = .next s' ∧
        Claim.scalarStep s s' t (Claim.putS s t (oSD w) n) (Claim.put (getCsr s t) csrVL n) (Claim.next s t))

/-- ILLEGAL, TRAP and BREAK enter the handler with their cause and EADDR, a tile whose handler does not run and
whose TVEC is set: EPC := PC, ECAUSE and EADDR are set, IH := 1, PC := TVEC, and nothing else changes; ERET goes back to
EPC with IH := 0, and raises ILLEGAL when IH = 0 (03 R94-R97, R100). -/
def Obligations.ExceptionEntryAndReturn : Prop :=
  (∀ (s : State) (t : TileNo) (w : W64), tileFetches s t = true → handlerReady s t = true → legalWord w = false →
    ∃ s', Machine.exec (.reservedOpcode t w) s = .next s' ∧ Claim.entersHandler s s' t 1 w) ∧
  (∀ (s : State) (t : TileNo) (w : W64), tileReady s t w = true → handlerReady s t = true →
    (opIs 0x43 w = true → ∃ s', Machine.exec (.trap t w) s = .next s' ∧ Claim.entersHandler s s' t 5 (Claim.imm w)) ∧
    (opIs 0x44 w = true → ∃ s', Machine.exec (.eret t w) s = .next s' ∧ Claim.entersHandler s s' t 1 w) ∧
    (opIs 0x40 w = true → Claim.csrNo w ∉ Claim.csrNumbers →
      ∃ s', Machine.exec (.csrr t w) s = .next s' ∧ Claim.entersHandler s s' t 1 w) ∧
    (opIs 0x41 w = true → Claim.csrNo w ∉ Claim.csrRw →
      ∃ s', Machine.exec (.csrw t w) s = .next s' ∧ Claim.entersHandler s s' t 1 w)) ∧
  (∀ c ∈ Claim.intOps, ∀ (s : State) (t : TileNo) (w : W64), canIssue s t = true → handlerReady s t = true →
    fnIs 0 c.2.1 w = true → breakAt s t (tileOf s t).core.pc = true →
    ∃ s', Machine.exec (c.1 t w) s = .next s' ∧
      Claim.entersHandler s s' t 6 ((tileOf s t).core.pc.setWidth 64)) ∧
  ∀ (s : State) (t : TileNo) (w : W64), tileReady s t w = true → opIs 0x44 w = true → (tileOf s t).core.ih = true →
    ∃ s', Machine.exec (.eret t w) s = .next s' ∧
      tileIs s' t (getS s t) (getV s t) (getP s t) (accAt s t) (getCsr s t)
        { (tileOf s t).core with pc := (getCsr s t csrEPC).setWidth 48, ih := false, stall := .none, xlSince := none } ∧
      sameOthers s s' t ∧ sameMemory s s' ∧ sameSystem s s'

/-- A scalar load or store at an address that is not naturally aligned, and a JR whose target is not 8-byte aligned, raise
ALIGN at the instruction, with EPC holding its address; the target of a branch or a JAL is aligned always (03 R82). A JR
whose SA is its SB stands in BranchAndJumpTarget. -/
def Obligations.MisalignedAccessRaisesAlign : Prop :=
  ∀ (s : State) (t : TileNo) (w : W64), tileReady s t w = true →
    (handlerReady s t = true →
      (∀ c ∈ Claim.loadOps, opIs c.2.1 w = true → Claim.addr s t w % c.2.2.1 ≠ 0 →
        ∃ s', Machine.exec (c.1 t w) s = .next s' ∧
          Claim.entersHandler s s' t 2 (BitVec.ofNat 64 (Claim.addr s t w))) ∧
      (∀ c ∈ Claim.storeOps, opIs c.2.1 w = true → Claim.addr s t w % c.2.2 ≠ 0 →
        ∃ s', Machine.exec (c.1 t w) s = .next s' ∧
          Claim.entersHandler s s' t 2 (BitVec.ofNat 64 (Claim.addr s t w))) ∧
      (opIs 0x27 w = true → bSA w = 0 ∨ bSA w ≠ bSB w → (getS s t (bSB w)).toNat % 8 ≠ 0 →
        ∃ s', Machine.exec (.jr t w) s = .next s' ∧ Claim.entersHandler s s' t 2 (getS s t (bSB w)))) ∧
    (Claim.target s t w).toNat % 8 = 0

/-- TIME writes SD with the global time in nanoseconds where its VI neither records nor replays it; PHASE opens phase
IMM32 bits 15:0 where no phase record is written; SNAP raises a snapshot request with its tag 256 ns from now where
local requests are enabled, and nothing where they are not (03 R100, 14 R416, R420, R424). Nothing else changes but the
PC. -/
def Obligations.TimePhaseSnapResult : Prop :=
  ∀ (s : State) (t : TileNo) (w : W64), tileReady s t w = true →
    let v := tileVi s t
    (opIs 0x49 w = true → (recMode s v = 0 ∨ (recMode s v = 2 ∧ flag s (F.TELEM_VI_REC_CTL_LIVETIME v) = true)) →
      ∃ s', Machine.exec (.time t w) s = .next s' ∧ Claim.writesS s s' t (oSD w) (BitVec.ofNat 64 (nowNs s))) ∧
    (opIs 0x47 w = true → (flag s (F.TELEM_VI_REC_CTL_PHASEEN v) = false ∨ recMode s v = 2) →
      ∃ s', Machine.exec (.phase t w) s = .next s' ∧
        tileIs s' t (getS s t) (getV s t) (getP s t) (accAt s t) (getCsr s t)
          (committed { (tileOf s t).core with phase := w.setWidth 16, phaseStart := nowNs s } (Claim.next s t)) ∧
        sameOthers s s' t ∧ sameMemory s s' ∧ sameSystem s s') ∧
    (opIs 0x48 w = true →
      let on := flag s (F.TELEM_VI_REC_CTL_SNAPEN v) && bit (getF s F.TELEM_SNAP_CTL_EN) 2
      ∃ s', Machine.exec (.snap t w) s = .next s' ∧
        tileIs s' t (getS s t) (getV s t) (getP s t) (accAt s t) (getCsr s t)
          (committed (tileOf s t).core (Claim.next s t)) ∧
        sameOthers s s' t ∧ sameMemory s s' ∧
        s'.sys.telem.trigs = s.sys.telem.trigs ++
          (if on then [{ tl := nowNs s + 256, sources := 4, tag := (w.setWidth 16).toNat, tile := t, vi := v }] else []) ∧
        (on = false → s'.sys = s.sys))

namespace Sys2Proof.Claim

/-! The vector instructions (03 R76-R93). -/

/-- Elements 0 to n - 1, of width w bits, of register x are g, and its bits beyond them are those of `old` (03 R77). -/
def vecIs (x old : BitVec 8192) (w n : Nat) (g : Nat → Nat) : Prop :=
  (∀ k < n, elem x w k = g k) ∧ ∀ j, n * w ≤ j → x.getLsbD j = old.getLsbD j

/-- Element k of a destination of width dw: the result where element k is active under predicate p, and where it is not the old
element or, with ZM, zero (03 R79). -/
def masked (p : BitVec 1024) (old : BitVec 8192) (lane : Nat) (zm : Bool) (dw : Nat) (res : Nat → Nat) (k : Nat) : Nat :=
  if activeAt p lane k then res k % 2 ^ dw else if zm then 0 else elem old dw k

/-- What a vector instruction leaves: S, V, P registers and CSRs as given, the PC moved on, all else unchanged. -/
def vecStep (s s' : State) (t : Nat) (S : Nat → W64) (V : Nat → BitVec 8192) (P : Nat → BitVec 1024) (C : Nat → W64) :
    Prop :=
  tileIs s' t S V P (accAt s t) C (committed (tileOf s t).core (next s t)) ∧
  sameOthers s s' t ∧ sameMemory s s' ∧ sameSystem s s'

/-- VD takes in its first n elements of dw bits the results masked by PG and ZM; the flags of the active elements are
added; nothing else changes but the PC. -/
def vecWrites (s s' : State) (t vd pg lane : Nat) (zm : Bool) (dw n : Nat) (res : Nat → Nat × Nat) : Prop :=
  ∃ x, vecIs x (getV s t vd) dw n (masked (getP s t pg) (getV s t vd) lane zm dw fun k => (res k).1) ∧
    vecStep s s' t (getS s t) (put (getV s t) vd x) (getP s t)
      (addFlags s t (vecFlags (getP s t pg) lane n fun k => (res k).2))

/-- An element-wise instruction on type ET. -/
def vecResult (s s' : State) (t : Nat) (w : W64) (res : Nat → Nat × Nat) : Prop :=
  vecWrites s s' t (vVD w) (vPG w) (etWidth (vET w)) (vZM w) (etWidth (vET w))
    (min (vlNow s t) (vlmax (vET w))) res

/-- The two-operand arithmetic instructions: opcode, integer and floating operation (03 R83). -/
def vec2Ops : List ((TileNo → W64 → Instr) × Nat × (Int → Int → Int) × (Nat → Ex → Ex → ExF)) :=
  [(.vadd, 0x50, fun a b => a + b, exAdd), (.vsub, 0x51, fun a b => a - b, fun r x y => exAdd r x (exNeg y)),
   (.vmul, 0x52, fun a b => a * b, fun _ x y => exMul x y),
   (.vmin, 0x53, min, fun _ x y => (exMin false x y, 0)), (.vmax, 0x54, max, fun _ x y => (exMin true x y, 0)),
   (.vdiv, 0x58, fun a _ => a, fun _ x y => exDiv x y)]

/-- The one-operand arithmetic instructions. -/
def vec1Ops : List ((TileNo → W64 → Instr) × Nat × (Int → Int) × (Ex → ExF)) :=
  [(.vneg, 0x55, fun a => -a, fun x => (exNeg x, 0)), (.vabs, 0x56, fun a => (a.natAbs : Int), fun x => (exAbs x, 0)),
   (.vsqrt, 0x59, fun a => a, exSqrt)]

/-- The bitwise and shift instructions and VMOV: opcode and result from the type and the two codes (03 R83). -/
def vecBitOps : List ((TileNo → W64 → Instr) × Nat × (Nat → Nat → Nat → Nat)) :=
  [(.vand, 0x5a, fun _ a b => a &&& b), (.vor, 0x5b, fun _ a b => a ||| b), (.vxor, 0x5c, fun _ a b => a ^^^ b),
   (.vshl, 0x5d, fun et a b => a * 2 ^ (b % etWidth et)),
   (.vshr, 0x5e, fun et a b => ofI (etWidth et) (etToInt et a / 2 ^ (b % etWidth et))), (.vmov, 0x5f, fun _ a _ => a)]

/-- The fixed-point instructions on one type: opcode and result of element k (03 R88). -/
def vecFxOps : List ((TileNo → W64 → Instr) × Nat × (State → TileNo → W64 → Nat → Nat × Nat)) :=
  [(.vsadd, 0x7b, fun s t w k =>
      satTo (vET w) (etToInt (vET w) (opA s t w (vET w) k) + etToInt (vET w) (opB s t w (vET w) k))),
   (.vssub, 0x7c, fun s t w k =>
      satTo (vET w) (etToInt (vET w) (opA s t w (vET w) k) - etToInt (vET w) (opB s t w (vET w) k))),
   (.vrmulh, 0x7d, fun s t w k =>
      satTo (vET w) (rndFx (etToInt (vET w) (opA s t w (vET w) k) * etToInt (vET w) (opB s t w (vET w) k))
        (etWidth (vET w) - 1) (fxrOf s t))),
   (.vshrr, 0x7e, fun s t w k =>
      (ofI (etWidth (vET w)) (rndFx (etToInt (vET w) (opA s t w (vET w) k)) (shCount s t w (vET w) k) (fxrOf s t)),
       0))]

/-- Source element k of VSNARROW: of VA, or of VA + 1 from VLMAX(ET2) on (03 R89). -/
def narrowSrc (s : State) (t : TileNo) (w : W64) (k : Nat) : Nat :=
  if k < vlmax (vET2 w) then elem (getV s t (vVA w)) (etWidth (vET2 w)) k
  else elem (getV s t (vVA w + 1)) (etWidth (vET2 w)) (k - vlmax (vET2 w))

/-- The predicate whose lanes below byte n × lane / 8 are f of the lane where its element is active, and clear elsewhere
(03 R79); `lane` is the element width in bits. -/
def predIs (x p : BitVec 1024) (lane n : Nat) (f : Nat → Bool) : Prop :=
  ∀ i < 1024, x.getLsbD i = (decide (i * 8 / lane < n) && activeAt p lane (i * 8 / lane) && f i)

/-- PD takes such a predicate, and C the CSRs; nothing else changes but the PC. -/
def predWrites (s s' : State) (t : TileNo) (w : W64) (C : Nat → W64) (f : Nat → Bool) : Prop :=
  ∃ x, predIs x (getP s t (vPG w)) (etWidth (vET w)) (min (vlNow s t) (vlmax (vET w))) f ∧
    vecStep s s' t (getS s t) (getV s t) (fun i => if i = vVD w ∧ i ≠ 0 then x else getP s t i) C

/-- The comparisons, and the predicate logic (03 R83). -/
def cmpOps : List ((TileNo → W64 → Instr) × Nat × (Option Ordering → Bool)) :=
  [(.vcmpEq, 0x80, fun o => o == some .eq), (.vcmpNe, 0x81, fun o => o != some .eq),
   (.vcmpLt, 0x82, fun o => o == some .lt), (.vcmpLe, 0x83, fun o => o == some .lt || o == some .eq)]
def predOps : List ((TileNo → W64 → Instr) × Nat × (Bool → Bool → Bool)) :=
  [(.pand, 0x84, fun a b => a && b), (.por, 0x85, fun a b => a || b), (.pxor, 0x86, fun a b => a != b),
   (.pnot, 0x87, fun a _ => !a)]

/-- The reductions: opcode and result from the active codes, if any (03 R83, R86). -/
def redOps : List ((TileNo → W64 → Instr) × Nat × (State → TileNo → W64 → List Nat → Option (Nat × Nat))) :=
  [(.vredsum, 0x76, fun s t w l => redSum t w s l), (.vredmin, 0x77, fun s t w l => redMin false t w s l),
   (.vredmax, 0x78, fun s t w l => redMin true t w s l)]

/-- Every vector instruction with its opcode. -/
def vecAll : List ((TileNo → W64 → Instr) × Nat) :=
  vec2Ops.map (fun c => (c.1, c.2.1)) ++ vec1Ops.map (fun c => (c.1, c.2.1)) ++ vecBitOps.map (fun c => (c.1, c.2.1)) ++
  vecFxOps.map (fun c => (c.1, c.2.1)) ++ cmpOps.map (fun c => (c.1, c.2.1)) ++ predOps.map (fun c => (c.1, c.2.1)) ++
  redOps.map (fun c => (c.1, c.2.1)) ++
  [(.vfma, 0x57), (.vbcast, 0x70), (.vslideup, 0x71), (.vslidedn, 0x72), (.vcvt, 0x73), (.vscaleQ, 0x74),
   (.vscaleDq, 0x75), (.vext, 0x79), (.vins, 0x7a), (.vsnarrow, 0x7f), (.psetn, 0x88), (.vfirst, 0x89),
   (.vpcnt, 0x8a), (.vld, 0x60), (.vldA, 0x61), (.vst, 0x62), (.vstA, 0x63), (.vldff, 0x64)]

/-- Whether element k is active for a vector instruction. -/
def activeV (s : State) (t : TileNo) (w : W64) (k : Nat) : Bool := activeAt (getP s t (vPG w)) (etWidth (vET w)) k

/-- The n of a vector instruction on type ET (03 R77). -/
def nV (s : State) (t : TileNo) (w : W64) : Nat := min (vlNow s t) (vlmax (vET w))

/-! The vector memory instructions (03 R90, R91, R93). -/

/-- Active elements, their byte addresses in order, and n. -/
def nM (s : State) (t : TileNo) (w : W64) : Nat := min (vlNow s t) (vlmax (mET w))
def activeM (s : State) (t : TileNo) (w : W64) : List Nat :=
  (List.range (nM s t w)).filter fun k => activeAt (getP s t (mPG w)) (etWidth (mET w)) k
def byteAddrs (s : State) (t : TileNo) (w : W64) : List Nat :=
  (activeM s t w).flatMap (elemAddrs (mET w) (getS s t (mSA w) + imm w).toNat)

/-- VLD and VLD.A, VST and VST.A, with whether the base is to be a multiple of 256. -/
def vldOps : List ((TileNo → W64 → Instr) × Nat × Bool) := [(.vld, 0x60, false), (.vldA, 0x61, true)]
def vstOps : List ((TileNo → W64 → Instr) × Nat × Bool) := [(.vst, 0x62, false), (.vstA, 0x63, true)]

/-- The bytes of a vector store: those of each active element in order; an E2M1 byte keeps the half of an inactive
element (03 R90). -/
def storedBytes (s : State) (t : TileNo) (w : W64) (ps : List Pa) : List Byte :=
  let code := fun k => elem (getV s t (vVD w)) (etWidth (mET w)) k
  ((activeM s t w).zip (chunks (max 1 (etBytes (mET w))) (ps.map (paByte s)))).flatMap fun p =>
    elemBytes (mET w) code (fun k => (activeM s t w).contains k) p.1 p.2

end Sys2Proof.Claim

/-- A vector arithmetic, bitwise, shift, move or fused instruction (03 R83, R84), on a tile that executes its word and
whose VL is not 0, writes to the active elements below n the results of the elements of VA and VB (or SS) and VC: integers
wrap, floating results narrow with RND and OVF; it adds the flags of the active elements and moves the PC on, and nothing
else changes. -/
def Claim.VectorArithmeticResult : Prop :=
  ∀ (s : State) (t : TileNo) (w : W64), tileReady s t w = true → vlNow s t ≠ 0 →
    let et := vET w
    let g := vecG s t (vRnd w)
    (∀ c ∈ Claim.vec2Ops, opIs c.2.1 w = true → ∃ s', Machine.exec (c.1 t w) s = .next s' ∧
      Claim.vecResult s s' t w fun k =>
        arith2 et (vRnd w) (vOvf w) (g k) (opA s t w et k) (opB s t w et k) c.2.2.1 c.2.2.2) ∧
    (∀ c ∈ Claim.vec1Ops, opIs c.2.1 w = true → ∃ s', Machine.exec (c.1 t w) s = .next s' ∧
      Claim.vecResult s s' t w fun k => arith1 et (vRnd w) (vOvf w) (g k) (opA s t w et k) c.2.2.1 c.2.2.2) ∧
    (∀ c ∈ Claim.vecBitOps, opIs c.2.1 w = true → ∃ s', Machine.exec (c.1 t w) s = .next s' ∧
      Claim.vecResult s s' t w fun k => (c.2.2 et (opA s t w et k) (opB s t w et k), 0)) ∧
    (opIs 0x57 w = true → ∃ s', Machine.exec (.vfma t w) s = .next s' ∧
      Claim.vecResult s s' t w fun k =>
        match etFmt et with
        | some f => fmaCode f (vRnd w) (vOvf w) (g k) (opA s t w et k) (opB s t w et k) (opC s t w et k)
        | none => (0, 0))

/-- VBCAST, the slides, VCVT, the fixed-point instructions and VSNARROW (03 R83, R84, R88, R89), on a tile that executes
the word and whose VL is not 0, write their results to the active elements below n and add their flags; nothing else
changes but the PC. -/
def Claim.VectorMoveConvertFixedResult : Prop :=
  ∀ (s : State) (t : TileNo) (w : W64), tileReady s t w = true → vlNow s t ≠ 0 →
    let et := vET w
    let n := Claim.nV s t w
    (opIs 0x70 w = true → ∃ s', Machine.exec (.vbcast t w) s = .next s' ∧
      Claim.vecResult s s' t w fun _ => (if vSC w then (getS s t (vSS w)).toNat else immElem w et, 0)) ∧
    (opIs 0x71 w = true → ∃ s', Machine.exec (.vslideup t w) s = .next s' ∧
      Claim.vecResult s s' t w fun k =>
        (if k < slideBy s t w then 0 else opA s t w et (k - slideBy s t w), 0)) ∧
    (opIs 0x72 w = true → ∃ s', Machine.exec (.vslidedn t w) s = .next s' ∧
      Claim.vecResult s s' t w fun k =>
        (if k + slideBy s t w < n then opA s t w et (k + slideBy s t w) else 0, 0)) ∧
    (opIs 0x73 w = true → ∃ s', Machine.exec (.vcvt t w) s = .next s' ∧
      Claim.vecWrites s s' t (vVD w) (vPG w) (max (etWidth et) (etWidth (vET2 w))) (vZM w) (etWidth et)
        (min n (vlmax (vET2 w))) fun k =>
          let r := convert (vET2 w) et (vRnd w) (vOvf w) (vecG s t (vRnd w) k) (opA s t w (vET2 w) k)
          (r.code, r.flags)) ∧
    (∀ c ∈ Claim.vecFxOps, opIs c.2.1 w = true → ∃ s', Machine.exec (c.1 t w) s = .next s' ∧
      Claim.vecResult s s' t w (c.2.2 s t w)) ∧
    (opIs 0x7f w = true → ∃ s', Machine.exec (.vsnarrow t w) s = .next s' ∧
      Claim.vecResult s s' t w fun k =>
        satTo et (rndFx (etToInt (vET2 w) (Claim.narrowSrc s t w k)) (shCount s t w (vET2 w) k) (fxrOf s t)))

/-- The comparisons, the predicate logic and PSETN (03 R79, R83, R84), on a tile that executes the word and whose VL is
not 0, write every lane of PD: of an active element below n the result, and 0 elsewhere; a write to P0 is discarded;
a comparison adds the flags of its operands. Nothing else changes but the PC. -/
def Obligations.VectorPredicateResult : Prop :=
  ∀ (s : State) (t : TileNo) (w : W64), tileReady s t w = true → vlNow s t ≠ 0 →
    let et := vET w
    let lane := etWidth et
    (∀ c ∈ Claim.cmpOps, opIs c.2.1 w = true → ∃ s', Machine.exec (c.1 t w) s = .next s' ∧
      Claim.predWrites s s' t w
        (Claim.addFlags s t (vecFlags (getP s t (vPG w)) lane (Claim.nV s t w) fun k =>
          cmpFlags et (opA s t w et k) (opB s t w et k)))
        fun i => c.2.2 (cmpCodes et (opA s t w et (i * 8 / lane)) (opB s t w et (i * 8 / lane)))) ∧
    (∀ c ∈ Claim.predOps, opIs c.2.1 w = true → ∃ s', Machine.exec (c.1 t w) s = .next s' ∧
      Claim.predWrites s s' t w (getCsr s t) fun i =>
        c.2.2 ((getP s t (vVA w)).getLsbD i) ((getP s t (vVB w)).getLsbD i)) ∧
    (opIs 0x88 w = true → ∃ s', Machine.exec (.psetn t w) s = .next s' ∧
      Claim.predWrites s s' t w (getCsr s t) fun _ => true)

/-- VFIRST, VPCNT, VEXT, VINS and the reductions (03 R77, R79, R83, R86), on a tile that executes the word and whose VL
is not 0: what each writes to SS or to VD; nothing else changes but the PC. -/
def Claim.VectorScalarResult : Prop :=
  ∀ (s : State) (t : TileNo) (w : W64), tileReady s t w = true → vlNow s t ≠ 0 →
    let et := vET w
    let n := Claim.nV s t w
    let V := getV s t
    (opIs 0x89 w = true → ∃ s' v, Machine.exec (.vfirst t w) s = .next s' ∧
      Claim.vecStep s s' t (Claim.putS s t (vSS w) v) V (getP s t) (getCsr s t) ∧
      ((∃ k < n, v = BitVec.ofNat 64 k ∧ Claim.activeV s t w k = true ∧ ∀ j < k, Claim.activeV s t w j = false) ∨
       (v = BitVec.allOnes 64 ∧ ∀ j < n, Claim.activeV s t w j = false))) ∧
    (opIs 0x8a w = true → ∃ s', Machine.exec (.vpcnt t w) s = .next s' ∧
      Claim.vecStep s s' t
        (Claim.putS s t (vSS w) (BitVec.ofNat 64 ((List.range n).filter (Claim.activeV s t w)).length)) V (getP s t)
        (getCsr s t)) ∧
    (opIs 0x79 w = true → ∃ s', Machine.exec (.vext t w) s = .next s' ∧
      Claim.vecStep s s' t
        (if vImm w < n ∧ Claim.activeV s t w (vImm w) = true then
           Claim.putS s t (vSS w) (extElem et (opA s t w et (vImm w)))
         else if vImm w < n ∧ vZM w = true then Claim.putS s t (vSS w) 0 else getS s t) V (getP s t) (getCsr s t)) ∧
    (opIs 0x7a w = true → ∃ s' x, Machine.exec (.vins t w) s = .next s' ∧
      Claim.vecIs x (V (vVD w)) (etWidth et) n (fun k =>
        if k = vImm w then
          Claim.masked (getP s t (vPG w)) (V (vVD w)) (etWidth et) (vZM w) (etWidth et)
            (fun _ => (getS s t (vSS w)).toNat) k
        else elem (V (vVD w)) (etWidth et) k) ∧
      Claim.vecStep s s' t (getS s t) (Claim.put V (vVD w) x) (getP s t) (getCsr s t)) ∧
    ∀ c ∈ Claim.redOps, opIs c.2.1 w = true → ∃ s', Machine.exec (c.1 t w) s = .next s' ∧
      let l := ((List.range n).filter (Claim.activeV s t w)).map (opA s t w et)
      (c.2.2 s t w l = none → Claim.vecStep s s' t (getS s t) V (getP s t) (getCsr s t)) ∧
      ∀ r fl, c.2.2 s t w l = some (r, fl) → ∃ x,
        Claim.vecIs x (V (vVD w)) (etWidth et) 1 (fun _ => r % 2 ^ etWidth et) ∧
        Claim.vecStep s s' t (getS s t) (Claim.put V (vVD w) x) (getP s t) (Claim.addFlags s t fl)

/-- VSCALE.DQ writes to every element below n of VD the element of VA times the scale of its block and the tensor scale
(02 R43, 03 R87), and VSCALE.Q the codes of the blocks to VD and the block codes and escape words to VC, on a tile that
executes the word and whose VL is not 0, VSCALE.Q without elements crushed; ESC without EXPERT_EN is ILLEGAL. Nothing
else changes but FFLAGS and the PC. -/
def Claim.VectorScaleResult : Prop :=
  ∀ (s : State) (t : TileNo) (w : W64), tileReady s t w = true → vlNow s t ≠ 0 →
    let n := min (min (vlNow s t) (vlmax (vET w))) (vlmax (vET2 w))
    let esc := (vImm w).testBit 0
    (opIs 0x75 w = true → ∃ s', Machine.exec (.vscaleDq t w) s = .next s' ∧
      Claim.vecWrites s s' t (vVD w) 0 (max (etWidth (vET w)) (etWidth (vET2 w))) false (etWidth (vET w)) n
        (scaleDq s t w esc)) ∧
    (opIs 0x74 w = true → (esc = true → expertOn s (some (tileVi s t)) = true) → (scaleQ s t w n esc).2.2.2 = 0 →
      ∃ s' x, Machine.exec (.vscaleQ t w) s = .next s' ∧
        let r := scaleQ s t w n esc
        Claim.vecIs x (getV s t (vVD w)) (etWidth (vET w)) n (fun k => (r.1.getD k 0) % 2 ^ etWidth (vET w)) ∧
        Claim.vecStep s s' t (getS s t) (Claim.put (Claim.put (getV s t) (vVD w) x) (vVC w) r.2.1) (getP s t)
          (Claim.addFlags s t r.2.2.1)) ∧
    (opIs 0x74 w = true → esc = true → expertOn s (some (tileVi s t)) = false → handlerReady s t = true →
      ∃ s', Machine.exec (.vscaleQ t w) s = .next s' ∧ Claim.entersHandler s s' t 1 w)

/-- When VL = 0, a vector instruction is no operation: it raises no exception, does not translate its addresses and
writes no register and no memory (03 R78). Only the PC moves on. -/
def Obligations.VectorLengthZeroIsNoOperation : Prop :=
  ∀ c ∈ Claim.vecAll, ∀ (s : State) (t : TileNo) (w : W64),
    tileReady s t w = true → opIs c.2 w = true → vlNow s t = 0 →
    ∃ s', Machine.exec (c.1 t w) s = .next s' ∧
      Claim.vecStep s s' t (getS s t) (getV s t) (getP s t) (getCsr s t)

/-- VLD, VLD.A and VLDFF (03 R90, R91, R93) whose active bytes translate to places `ps`, of one kind, with no matrix
instruction pending and VL not 0, write the elements read there to the active elements below n; VLDFF sets FFR to n.
Nothing else changes but the PC. -/
def Claim.VectorLoadResult : Prop :=
  ∀ (s : State) (t : TileNo) (w : W64) (ps : List Pa), tileReady s t w = true → vlNow s t ≠ 0 →
    (tileOf s t).core.mat = [] → otherKind (Claim.byteAddrs s t w) = none →
    tileXlate s t aRead (Claim.byteAddrs s t w) = .ok ps →
    let res := fun k => smGet 0 (loadedCodes (mET w) (Claim.activeM s t w) (ps.map (paByte s))) k
    let ew := etWidth (mET w)
    (∀ c ∈ Claim.vldOps, opIs c.2.1 w = true →
      (c.2.2 = true → (getS s t (mSA w) + Claim.imm w).toNat % 256 = 0) →
      ∃ s', Machine.exec (c.1 t w) s = .next s' ∧
        Claim.vecWrites s s' t (vVD w) (mPG w) ew (mZM w) ew (Claim.nM s t w) fun k => (res k, 0)) ∧
    (opIs 0x64 w = true → ∃ s' x, Machine.exec (.vldff t w) s = .next s' ∧
      Claim.vecIs x (getV s t (vVD w)) ew (Claim.nM s t w)
        (Claim.masked (getP s t (mPG w)) (getV s t (vVD w)) ew (mZM w) ew res) ∧
      Claim.vecStep s s' t (getS s t) (Claim.put (getV s t) (vVD w) x) (getP s t)
        (Claim.put (getCsr s t) csrFFR (BitVec.ofNat 64 (Claim.nM s t w))))

/-- VST and VST.A (03 R90, R91) whose active bytes translate to places `ps`, of one kind, with no matrix instruction
pending and VL not 0, store there the active elements of VD; every other byte of memory, every register but the PC and
the rest of the state are as before. -/
def Claim.VectorStoreResult : Prop :=
  ∀ c ∈ Claim.vstOps, ∀ (s : State) (t : TileNo) (w : W64) (ps : List Pa), tileReady s t w = true → vlNow s t ≠ 0 →
    opIs c.2.1 w = true → (c.2.2 = true → (getS s t (mSA w) + Claim.imm w).toNat % 256 = 0) →
    (tileOf s t).core.mat = [] → otherKind (Claim.byteAddrs s t w) = none →
    tileXlate s t aWrite (Claim.byteAddrs s t w) = .ok ps →
    Claim.oneByte (ps.zip (Claim.storedBytes s t w ps)) →
    ∃ s', Machine.exec (c.1 t w) s = .next s' ∧
      Claim.stored s s' (ps.zip (Claim.storedBytes s t w ps)) ∧
      tileIs s' t (getS s t) (getV s t) (getP s t) (accAt s t) (getCsr s t)
        (committed (tileOf s t).core (Claim.next s t)) ∧
      sameOthers s s' t ∧ sameSystem s s'

/-- Vector arithmetic, and vector moves, conversions and fixed-point instructions. -/
def Obligations.VectorElementResult : Prop :=
  Claim.VectorArithmeticResult ∧ Claim.VectorMoveConvertFixedResult

/-- Vector instructions that read or write S registers, and those on scaled blocks. -/
def Obligations.VectorScalarAndScaleResult : Prop :=
  Claim.VectorScalarResult ∧ Claim.VectorScaleResult

/-- Vector loads and stores. -/
def Obligations.VectorMemoryResult : Prop :=
  Claim.VectorLoadResult ∧ Claim.VectorStoreResult

namespace Sys2Proof.Claim

/-! The matrix instructions (04 R102-R118). -/

/-- What an instruction leaves that writes the accumulators and the core: A and the core as given, the S, V and P
registers, other tiles, memory and the rest as before. -/
def accStep (s s' : State) (t : Nat) (A : Nat → W64) (C : Nat → W64) (core : TileCore) : Prop :=
  tileIs s' t (getS s t) (getV s t) (getP s t) A C core ∧ sameOthers s s' t ∧ sameMemory s s' ∧ sameSystem s s'

/-- The four forms of MMA with their opcodes. -/
def mmaOps : List ((TileNo → W64 → Instr) × Nat) :=
  [(.mma, 0x90), (.mmaTa, 0x91), (.mmaTb, 0x92), (.mmaTatb, 0x93)]

/-- The dimensions that a matrix instruction reads from SM. -/
def dims (s : State) (t : TileNo) (w : W64) : W64 := getS s t (xSM w)

/-- No dimension of the instruction is zero (04 R107). -/
def dimsOk (s : State) (t : TileNo) (w : W64) : Prop :=
  dimM (dims s t w) ≠ 0 ∧ dimN (dims s t w) ≠ 0 ∧ dimK (dims s t w) ≠ 0

/-- The dimensions M and N lie within the shape of an accumulator of the type (04 R102, R106). -/
def shapeOk (f64 : Bool) (d : W64) : Prop := dimM d ≤ accRows f64 ∧ dimN d ≤ accCols f64

/-- The instruction stands in the matrix unit with its operands as read at issue, and the PC has moved on (04 R117). -/
def enters (s s' : State) (t : TileNo) (o : MatOp) : Prop :=
  accStep s s' t (accAt s t) (getCsr s t) (committed { (tileOf s t).core with mat := [o] } (next s t))

/-- The operand base in the tile's own pond. -/
def operandAt (s : State) (t : TileNo) (i off : Nat) : Prop := ownPondOff s t (getS s t i).toNat aRead = some off

/-- The block of results of an instruction of the matrix unit: rows r below M and columns c below N. -/
def inBlock (o : MatOp) (r c : Nat) : Prop := r < dimM o.dims ∧ c < dimN o.dims

/-- Elements of the block of accumulator a are g, every other element of accumulator storage is as before. -/
def blockIs (A old : Nat → W64) (f64 : Bool) (a : Nat) (o : MatOp) (g : Nat → Nat → Nat) : Prop :=
  (∀ r c, inBlock o r c → A (accKey f64 a r c) = BitVec.ofNat 64 (g r c)) ∧
  ∀ k, (∀ r c, inBlock o r c → k ≠ accKey f64 a r c) → A k = old k

/-- The flags of the results of a block, added to FFLAGS (03 R71). -/
def blockFlags (s : State) (t : Nat) (o : MatOp) (fl : Nat → Nat → Nat) : Nat → W64 :=
  addFlags s t ((cells (dimM o.dims) (dimN o.dims)).foldl (fun f p => Nat.lor f (fl p.1 p.2)) 0)

/-- Bytes of an element, and the place of element (r, c) of the block that an MLD or MST moves (04 R104). -/
def placeOf (o : MatOp) (r c : Nat) : Nat := o.a + r * dimLDA o.dims + c * etBytes (xETA o.w)

/-- The block of an MST lies in the pond (04 R106). -/
def inPond (o : MatOp) : Prop := ∀ r c, inBlock o r c → placeOf o r c + etBytes (xETA o.w) ≤ pondSize

/-- Byte i of element (r, c) of the block is a byte of no other element of it. -/
def ownByte (o : MatOp) (r c i : Nat) : Prop :=
  ∀ r' c' i', inBlock o r' c' → i' < etBytes (xETA o.w) → placeOf o r' c' + i' = placeOf o r c + i → r' = r ∧ c' = c

end Sys2Proof.Claim

/-- MMA, MLD and MST, with nothing pending in the matrix unit, dimensions that are not zero and lie within the shape,
the accumulator's tag of the type for an MMA, and operands in the tile's pond that raise no ALIGN, enter the matrix unit
with the operands read, and the PC moves on; with a zero dimension each is no operation (04 R102-R107, R117). Nothing
else changes. -/
def Claim.MatrixIssueResult : Prop :=
  ∀ (s : State) (t : TileNo) (w : W64) (a : Nat), tileReady s t w = true → (tileOf s t).core.mat = [] →
    let d := Claim.dims s t w
    let f64 := xETA w == 8
    (∀ c ∈ Claim.mmaOps, opIs c.2 w = true →
      (¬ Claim.dimsOk s t w → ∃ s', Machine.exec (c.1 t w) s = .next s' ∧
        Claim.scalarStep s s' t (getS s t) (getCsr s t) (Claim.next s t)) ∧
      ∀ b, Claim.dimsOk s t w → Claim.shapeOk f64 d → dimK d ≤ shapeK f64 → accF64 s t (xACD w) = f64 →
        firstAlign s t (mmaOperand s t w d) = none → Claim.operandAt s t (xSA w) a → Claim.operandAt s t (xSB w) b →
        ∃ s', Machine.exec (c.1 t w) s = .next s' ∧
          Claim.enters s s' t { w, dims := d, a, b, ss := getS s t (xSS w), ss1 := getS s t (xSS w + 1) }) ∧
    (opIs 0x95 w = true →
      (¬ Claim.dimsOk s t w → ∃ s', Machine.exec (.mld t w) s = .next s' ∧
        Claim.scalarStep s s' t (getS s t) (getCsr s t) (Claim.next s t)) ∧
      (Claim.dimsOk s t w → Claim.shapeOk f64 d → firstAlign s t (blockOperand s t w d aRead) = none →
        Claim.operandAt s t (xSA w) a →
        ∃ s', Machine.exec (.mld t w) s = .next s' ∧
          Claim.enters s s' t { w, dims := d, a, b := 0, ss := getS s t (xSS w), ss1 := 0 })) ∧
    (opIs 0x96 w = true →
      (¬ Claim.dimsOk s t w → ∃ s', Machine.exec (.mst t w) s = .next s' ∧
        Claim.scalarStep s s' t (getS s t) (getCsr s t) (Claim.next s t)) ∧
      (Claim.dimsOk s t w → Claim.shapeOk (accF64 s t (xACD w)) d →
        firstAlign s t (blockOperand s t w d aWrite) = none → Claim.operandAt s t (xSA w) a →
        ∃ s', Machine.exec (.mst t w) s = .next s' ∧
          Claim.enters s s' t { w, dims := d, a, b := 0, ss := getS s t (xSS w), ss1 := 0 }))

/-- When the oldest instruction of the matrix unit completes (04 R108-R110, R112, R113), an MMA puts each element of its
block into the accumulator, an MLD sets the tag and the elements it loads, the accumulator zero before where its tag
changes, and an MST stores each element of its block, rounded once, in the pond; each adds the flags of its results.
Nothing else changes. -/
def Claim.MatrixCompletionResult : Prop :=
  ∀ (s : State) (t : TileNo) (o : MatOp) (l : List MatOp), enginesRun s = true → (tileOf s t).core.mat = o :: l →
    let a := xACD o.w
    let core := { (tileOf s t).core with mat := l }
    ∃ s', Machine.exec (.matrixComplete t) s = .next s' ∧
      (oOP o.w ≤ 0x93 → Claim.shapeOk (accF64 s t a) o.dims →
        ∃ A, Claim.blockIs A (accAt s t) (accF64 s t a) a o (fun r c => (mmaElem s t o r c).1) ∧
          Claim.accStep s s' t A (Claim.blockFlags s t o fun r c => (mmaElem s t o r c).2) core) ∧
      (oOP o.w = 0x95 → Claim.shapeOk (xETA o.w == 8) o.dims →
        let f64 := xETA o.w == 8
        ∃ A, Claim.blockIs A (fun k => if accF64 s t a ≠ f64 ∧ k / 8192 = a then 0 else accAt s t k) f64 a o
            (fun r c => pondNum s t (Claim.placeOf o r c) (etBytes (xETA o.w))) ∧
          Claim.accStep s s' t A (getCsr s t)
            { core with tags := BitVec.ofNat 4 (setBits (tileOf s t).core.tags.toNat a a (b2n f64)) }) ∧
      (oOP o.w = 0x96 → Claim.inPond o →
        (∀ r c, Claim.inBlock o r c → ∀ i < etBytes (xETA o.w), Claim.ownByte o r c i →
          pondByte s' t (Claim.placeOf o r c + i) =
            (bytesOf (etBytes (xETA o.w)) (mstElem s t o r c).code).getD i 0) ∧
        (∀ u b, b < pondSize →
          (u = t.val → ∀ r c, Claim.inBlock o r c → ∀ i < etBytes (xETA o.w), b ≠ Claim.placeOf o r c + i) →
          pondByte s' u b = pondByte s u b) ∧
        (∀ x, hbmByte s' x = hbmByte s x) ∧
        tileIs s' t (getS s t) (getV s t) (getP s t) (accAt s t)
          (Claim.blockFlags s t o fun r c => (mstElem s t o r c).flags) core ∧
        sameOthers s s' t ∧ sameSystem s s')

/-- MZERO gives an accumulator its tag and zeros it; MROW.R puts a row of an accumulator into VR, and MROW.W the
elements of VR into the row (04 R108, R111), with nothing pending in the matrix unit. A row that the accumulator does not
have is ILLEGAL. Nothing else changes but the PC. -/
def Claim.MatrixRowResult : Prop :=
  ∀ (s : State) (t : TileNo) (w : W64), tileReady s t w = true → (tileOf s t).core.mat = [] →
    let a := xACD w
    let f64 := accF64 s t a
    let ew := if f64 then 64 else 32
    (opIs 0x94 w = true → ∃ s', Machine.exec (.mzero t w) s = .next s' ∧
      Claim.accStep s s' t (fun k => if k / 8192 = a then 0 else accAt s t k) (getCsr s t)
        (committed { (tileOf s t).core with
          tags := BitVec.ofNat 4 (setBits (tileOf s t).core.tags.toNat a a (b2n (xETA w == 8))) } (Claim.next s t))) ∧
    (opIs 0x97 w = true → xRow w < accRows f64 → ∃ s' x, Machine.exec (.mrowR t w) s = .next s' ∧
      Claim.vecIs x (getV s t (xVR w)) ew (accCols f64) (fun c => accElem s t a (xRow w) c % 2 ^ ew) ∧
      Claim.vecStep s s' t (getS s t) (Claim.put (getV s t) (xVR w) x) (getP s t) (getCsr s t)) ∧
    (opIs 0x98 w = true → xRow w < accRows f64 → ∃ s' A, Machine.exec (.mrowW t w) s = .next s' ∧
      (∀ c < accCols f64, A (accKey f64 a (xRow w) c) = BitVec.ofNat 64 (elem (getV s t (xVR w)) ew c)) ∧
      (∀ k, (∀ c < accCols f64, k ≠ accKey f64 a (xRow w) c) → A k = accAt s t k) ∧
      Claim.accStep s s' t A (getCsr s t) (committed (tileOf s t).core (Claim.next s t))) ∧
    (opIs 0x97 w = true → accRows f64 ≤ xRow w → handlerReady s t = true →
      ∃ s', Machine.exec (.mrowR t w) s = .next s' ∧ Claim.entersHandler s s' t 1 w) ∧
    (opIs 0x98 w = true → accRows f64 ≤ xRow w → handlerReady s t = true →
      ∃ s', Machine.exec (.mrowW t w) s = .next s' ∧ Claim.entersHandler s s' t 1 w)

/-- Matrix instructions at issue and at completion, and the accumulator rows. -/
def Obligations.MatrixResult : Prop :=
  Claim.MatrixIssueResult ∧ Claim.MatrixCompletionResult ∧ Claim.MatrixRowResult

namespace Sys2Proof.Claim

/-! The tangent, tape and adjoint instructions (04 R119-R128). -/

/-- The tangent arithmetic instructions: opcode and value half, which is the instruction without the suffix (04 R120). -/
def tanOps : List ((TileNo → W64 → Instr) × Nat × (W64 → Fmt → Nat → Nat → Nat → Nat → Nat × Nat)) :=
  [(.vaddT, 0xa0, fun w f g a b _ => fbin exAdd f (vRnd w) (vOvf w) g a b),
   (.vsubT, 0xa1, fun w f g a b _ => fbin (fun r x y => exAdd r x (exNeg y)) f (vRnd w) (vOvf w) g a b),
   (.vmulT, 0xa2, fun w f g a b _ => fbin (fun _ x y => exMul x y) f (vRnd w) (vOvf w) g a b),
   (.vfmaT, 0xa3, fun w f g a b c => fmaCode f (vRnd w) (vOvf w) g a b c),
   (.vdivT, 0xa4, fun w f g a b _ => fbin (fun _ x y => exDiv x y) f (vRnd w) (vOvf w) g a b),
   (.vsqrtT, 0xa5, fun w f g a _ _ => fres f (vRnd w) (vOvf w) g (snan1 f a) (exSqrt (decodeF f a)))]

/-- A value of vw bits in VD and its tangent of tw bits in VD + 1 for n elements, masked alike; their flags are added,
and nothing else changes but the PC (04 R119, R120). V are the vector registers before. -/
def pairWrites (s s' : State) (t : TileNo) (w : W64) (V : Nat → BitVec 8192) (C : Nat → W64) (lane vw tw n : Nat)
    (zm : Bool) (val tan : Nat → Nat) : Prop :=
  ∃ x y, vecIs x (V (vVD w)) vw n (masked (getP s t (vPG w)) (V (vVD w)) lane zm vw val) ∧
    vecIs y (V (vVD w + 1)) tw n (masked (getP s t (vPG w)) (V (vVD w + 1)) lane zm tw tan) ∧
    vecStep s s' t (getS s t) (put (put V (vVD w) x) (vVD w + 1) y) (getP s t) C

/-- Flags of the value and the tangent of the active elements. -/
def pairFlags (s : State) (t : TileNo) (w : W64) (lane n : Nat) (val tan : Nat → Nat × Nat) : Nat → W64 :=
  addFlags s t (vecFlags (getP s t (vPG w)) lane n fun k => Nat.lor (val k).2 (tan k).2)

/-- n and the widest element over the types of VCVT.T and the scaling instructions. -/
def n3 (s : State) (t : TileNo) (w : W64) : Nat := min (min (min (vlNow s t) (vlmax (vET w))) (vlmax (vET2 w))) (vlmax (qTan w))
def lane3 (w : W64) : Nat := max (max (etWidth (vET w)) (etWidth (vET2 w))) (etWidth (qTan w))

/-- The tangent operand of element k of VA. -/
def tanA (s : State) (t : TileNo) (w : W64) (k : Nat) : Nat := elem (getV s t (vVA w + 1)) (etWidth (qTan w)) k

/-- An instruction that moves the head of the tape, with what it leaves else. -/
def tapeStep (s s' : State) (t : TileNo) (V : Nat → BitVec 8192) (C : Nat → W64) (head : Nat) : Prop :=
  tileIs s' t (getS s t) V (getP s t) (accAt s t) C
    (committed { (tileOf s t).core with tapeHead := head } (next s t)) ∧
  sameOthers s s' t ∧ sameMemory s s' ∧ sameSystem s s'

/-- Start of the record of n elements of a type at the head of the tape (04 R124, R125). -/
def recordAt (s : State) (t n et : Nat) : Nat :=
  (tapeHeadOf s t + (payloadLen n et / tapeSize s t + 2) * tapeSize s t - 8 - payloadLen n et) % tapeSize s t

/-- The segment holds at its head a record of n elements of a type with the instruction's tag, whose trailer and payload
translate to `tr` and `ps` and can be read (04 R124-R126). -/
def record (s : State) (t : TileNo) (w : W64) (n et : Nat) (tr ps : List Pa) : Prop :=
  tapeSize s t ≠ 0 ∧ tapeUsed s t ≠ 0 ∧
  tileXlate s t aRead (tapeAddrs s t (tapeHeadOf s t + tapeSize s t - 8) 8) = .ok tr ∧
  ofBytes (tr.map (paByte s)) % 2 ^ 32 = n + et * 2 ^ 16 + vImm w * 2 ^ 20 ∧
  tileXlate s t aRead (tapeAddrs s t (recordAt s t n et) (payloadLen n et)) = .ok ps

/-- A pop that writes its results to VD: masked elements, flags, and the head at the start of the record. -/
def popWrites (s s' : State) (t : TileNo) (w : W64) (pg : Nat) (zm : Bool) (n start : Nat) (res : Nat → Nat × Nat) :
    Prop :=
  let ew := etWidth (vET w)
  ∃ x, vecIs x (getV s t (vVD w)) ew n (masked (getP s t pg) (getV s t (vVD w)) ew zm ew fun k => (res k).1) ∧
    tapeStep s s' t (put (getV s t) (vVD w) x)
      (addFlags s t (vecFlags (getP s t pg) ew n fun k => (res k).2)) start

end Sys2Proof.Claim

/-- Every tangent instruction writes to VD the result of the instruction without its suffix and to VD + 1 the tangent of
04 R120, with predication, ZM and n acting on both halves alike, and adds the flags of both; VSCALE.Q.T also writes the
block codes to VC, here without elements crushed (04 R119, R120, R122). Nothing else changes but the PC. -/
def Obligations.TangentResult : Prop :=
  ∀ (s : State) (t : TileNo) (w : W64), tileReady s t w = true → vlNow s t ≠ 0 →
    let V := getV s t
    let ew := etWidth (vET w)
    (∀ c ∈ Claim.tanOps, ∀ f T, opIs c.2.1 w = true → etFmt (vET w) = some f → etFmt (vET2 w) = some T →
      let lane := max ew (etWidth (vET2 w))
      let n := min (min (vlNow s t) (vlmax (vET w))) (vlmax (vET2 w))
      let val := fun k => c.2.2 w f (vecG s t (vRnd w) k) (opA s t w (vET w) k) (opB s t w (vET w) k) (opC s t w (vET w) k)
      let tan := fun k => tanElem s t w (vET2 w) T k (val k).1
      ∃ s', Machine.exec (c.1 t w) s = .next s' ∧
        Claim.pairWrites s s' t w V (Claim.pairFlags s t w lane n val tan) lane ew (etWidth (vET2 w)) n (vZM w)
          (fun k => (val k).1) (fun k => (tan k).1)) ∧
    ∀ T, etFmt (qTan w) = some T →
      let lane := Claim.lane3 w
      let n := Claim.n3 s t w
      let tw := etWidth (qTan w)
      let qt := fun (g : Nat → Ex → ExF) k => quantTan (qdOf s t) T (vOvf w) (Claim.tanA s t w k) (g k)
      (opIs 0xa6 w = true →
        let val := fun k =>
          let r := convert (vET2 w) (vET w) (vRnd w) (vOvf w) (vecG s t (vRnd w) k) (opA s t w (vET2 w) k)
          (r.code, r.flags)
        let tan := qt fun _ x => (x, 0)
        ∃ s', Machine.exec (.vcvtT t w) s = .next s' ∧
          Claim.pairWrites s s' t w V (Claim.pairFlags s t w lane n val tan) lane ew tw n (vZM w)
            (fun k => (val k).1) (fun k => (tan k).1)) ∧
      (opIs 0xa8 w = true →
        let val := scaleDq s t w ((vImm w).testBit 0)
        let tan := qt fun k => scaleFactor true (vcCode s t w (k / 32)) (tensorScale s t w)
        ∃ s', Machine.exec (.vscaleDqT t w) s = .next s' ∧
          Claim.pairWrites s s' t w V (Claim.pairFlags s t w lane n val tan) lane ew tw n false
            (fun k => (val k).1) (fun k => (tan k).1)) ∧
      (opIs 0xa7 w = true →
        let r := scaleQ s t w n false
        r.2.2.2 = 0 →
        let tan := qt fun k => scaleFactor false (elem r.2.1 8 (k / 32)) (tensorScale s t w)
        ∃ s', Machine.exec (.vscaleQT t w) s = .next s' ∧
          Claim.pairWrites s s' t w (Claim.put V (vVC w) r.2.1)
            (Claim.addFlags s t (r.2.2.1 ||| vecFlags (getP s t (vPG w)) lane n fun k => (tan k).2)) lane ew tw n false
            (fun k => r.1.getD k 0) (fun k => (tan k).1))

/-- TAPE.PUSH stores the elements of VA below n, padded to 8 bytes, and their trailer at the head, and moves the head;
TAPE.TRIM sets the tail and TAPE.HEAD reads the head (04 R123-R127), with room or within the used part of the segment,
and no matrix instruction pending. Nothing else changes but the PC. -/
def Claim.TapePushTrimHeadResult : Prop :=
  ∀ (s : State) (t : TileNo) (w : W64), tileReady s t w = true → (tileOf s t).core.mat = [] →
    let core := (tileOf s t).core
    let size := tapeSize s t
    (opIs 0xa9 w = true → vlNow s t ≠ 0 → ∀ ps : List Pa,
      let n := Claim.nV s t w
      let len := payloadLen n (vET w) + 8
      tapeUsed s t + len < size → tileXlate s t aWrite (tapeAddrs s t (tapeHeadOf s t) len) = .ok ps → ps.Nodup →
      ∃ s', Machine.exec (.tapePush t w) s = .next s' ∧
        Claim.stored s s' (ps.zip (bytesOf (payloadLen n (vET w)) ((getV s t (vVA w)).toNat % 2 ^ (n * etWidth (vET w))) ++
          bytesOf 8 (n + vET w * 2 ^ 16 + vImm w * 2 ^ 20))) ∧
        tileIs s' t (getS s t) (getV s t) (getP s t) (accAt s t) (getCsr s t)
          (committed { core with tapeHead := (core.tapeHead + len) % size } (Claim.next s t)) ∧
        sameOthers s s' t ∧ sameSystem s s') ∧
    (opIs 0xab w = true →
      let x := wf (getS s t (vSS w)) 39 0
      x < size → (x + size - tapeTailOf s t) % size ≤ tapeUsed s t →
      ∃ s', Machine.exec (.tapeTrim t w) s = .next s' ∧
        Claim.accStep s s' t (accAt s t) (getCsr s t) (committed { core with tapeTail := x } (Claim.next s t))) ∧
    (opIs 0xaf w = true → size ≠ 0 → ∃ s', Machine.exec (.tapeHead t w) s = .next s' ∧
      Claim.writesS s s' t (vSS w) (BitVec.ofNat 64 (tapeHeadOf s t)))

/-- TAPE.POP, ADJ.FMA, ADJ.DIV and ADJ.Q, where the record at the head is the one they ask for, with no matrix
instruction pending and VL not 0, read its payload into VD or combine it with VA and VB, each step rounded, and move the
head to its start (04 R125-R128). Nothing else changes but the flags and the PC. -/
def Claim.TapePopAndAdjointResult : Prop :=
  ∀ (s : State) (t : TileNo) (w : W64) (tr ps : List Pa), tileReady s t w = true → vlNow s t ≠ 0 →
    (tileOf s t).core.mat = [] →
    let et := vET w
    let n := Claim.nV s t w
    let x := ofBytes (ps.map (paByte s))
    (opIs 0xaa w = true → Claim.record s t w n et tr ps → ∃ s', Machine.exec (.tapePop t w) s = .next s' ∧
      Claim.popWrites s s' t w 0 false n (Claim.recordAt s t n et) fun k => (popElem x (etWidth et) k, 0)) ∧
    ∀ f, etFmt et = some f →
      let g := vecG s t (vRnd w)
      (opIs 0xac w = true → Claim.record s t w n et tr ps → ∃ s', Machine.exec (.adjFma t w) s = .next s' ∧
        Claim.popWrites s s' t w (vPG w) (vZM w) n (Claim.recordAt s t n et) fun k =>
          fmaCode f (vRnd w) (vOvf w) (g k) (opA s t w et k) (popElem x (etWidth et) k) (opB s t w et k)) ∧
      (opIs 0xad w = true → Claim.record s t w n et tr ps → ∃ s', Machine.exec (.adjDiv t w) s = .next s' ∧
        Claim.popWrites s s' t w (vPG w) (vZM w) n (Claim.recordAt s t n et) fun k =>
          addTo f w (g k) (opB s t w et k)
            (fbin (fun _ x y => exDiv x y) f (vRnd w) (vOvf w) (g k) (opA s t w et k) (popElem x (etWidth et) k))) ∧
      (opIs 0xae w = true → Claim.record s t w (cdiv n 32) 4 tr ps → ∃ s', Machine.exec (.adjQ t w) s = .next s' ∧
        Claim.popWrites s s' t w (vPG w) (vZM w) n (Claim.recordAt s t (cdiv n 32) 4) fun k =>
          addTo f w (g k) (opB s t w et k)
            (adjQuant s t w f (g k) (popElem x 8 (k / 32)) (opA s t w et k)))

/-- The tape: push, trim and head; pop and the adjoint instructions. -/
def Obligations.TapeResult : Prop :=
  Claim.TapePushTrimHeadResult ∧ Claim.TapePopAndAdjointResult

namespace Sys2Proof.Claim

/-- A command answers a next state, and what holds of that. -/
def runs (c : Instr) (s : State) (P : State → Prop) : Prop := ∃ s', Machine.exec c s = .next s' ∧ P s'

/-! Signals (06 R184-R188). -/

/-- A signal counter once v is added (06 R185): every add counts in ARRIVED; VALUE pins at its largest with OVF, which
sets EVT of the VI that holds the counter and is reported. -/
def added (s s' : State) (c v : Nat) : Prop :=
  getF s' (F.SIG_ARR_ARRIVED c) = (getF s (F.SIG_ARR_ARRIVED c) + v) % 2 ^ 32 ∧
  getF s' (F.SIG_CTR_UNF c) = getF s (F.SIG_CTR_UNF c) ∧ getF s' (F.SIG_CTR_DRIFT c) = getF s (F.SIG_CTR_DRIFT c) ∧
  (if 0xFFFFFFFF < ctrVal s c + v then
     ctrVal s' c = 0xFFFFFFFF ∧ getF s' (F.SIG_CTR_OVF c) = 1 ∧ Output.event 0x0C 1 c ∈ s'.out ∧
     (∀ o, ctrOwner s c = some o → getF s' (F.SIG_VI_STAT_EVT o) = 1)
   else ctrVal s' c = ctrVal s c + v ∧ getF s' (F.SIG_CTR_OVF c) = getF s (F.SIG_CTR_OVF c))

/-- A signal counter once v is subtracted. -/
def subtracted (s s' : State) (c v : Nat) : Prop :=
  getR s' (R.SIG_ARR c) = getR s (R.SIG_ARR c) ∧
  getF s' (F.SIG_CTR_OVF c) = getF s (F.SIG_CTR_OVF c) ∧ getF s' (F.SIG_CTR_DRIFT c) = getF s (F.SIG_CTR_DRIFT c) ∧
  (if ctrVal s c < v then
     ctrVal s' c = 0 ∧ getF s' (F.SIG_CTR_UNF c) = 1 ∧ Output.event 0x0C 2 c ∈ s'.out ∧
     (∀ o, ctrOwner s c = some o → getF s' (F.SIG_VI_STAT_EVT o) = 1)
   else ctrVal s' c = ctrVal s c - v ∧ getF s' (F.SIG_CTR_UNF c) = getF s (F.SIG_CTR_UNF c))

/-- A signal counter once it is set to v: OVF and UNF are clear. -/
def setTo (s s' : State) (c v : Nat) : Prop :=
  getR s' (R.SIG_ARR c) = getR s (R.SIG_ARR c) ∧ ctrVal s' c = v ∧ getF s' (F.SIG_CTR_OVF c) = 0 ∧
  getF s' (F.SIG_CTR_UNF c) = 0

/-- Every other counter is as before. -/
def otherCtrs (s s' : State) (c : Nat) : Prop :=
  ∀ k < 32768, k ≠ c → getR s' (R.SIG_CTR k) = getR s (R.SIG_CTR k) ∧ getR s' (R.SIG_ARR k) = getR s (R.SIG_ARR k)

/-- S registers and core of a tile as given; the tile's other registers, every other tile, memory and the registers of
other blocks than `bs` as before. -/
def coreStep (s s' : State) (t : Nat) (S : Nat → W64) (core : TileCore) (bs : List Nat) : Prop :=
  tileIs s' t S (getV s t) (getP s t) (accAt s t) (getCsr s t) core ∧ sameOthers s s' t ∧ sameMemory s s' ∧
  (∀ r : RegRef, ctrOff r.off = false → offIn bs r.off = false → getR s' r = getR s r) ∧ s'.pending = s.pending

/-- An engine-issue instruction has committed: the PC has moved on. -/
def issued (s s' : State) (t : Nat) (S : Nat → W64) (bs : List Nat) : Prop :=
  coreStep s s' t S (committed (tileOf s t).core (next s t)) bs

/-- The signal instructions with their opcodes. -/
def sigOps : List ((TileNo → W64 → Instr) × Nat) :=
  [(.sigAdd, 0xb1), (.sigSub, 0xb2), (.sigSet, 0xb3), (.sigRead, 0xb4), (.wait, 0xb6)]

/-- The counter that an instruction names (06 R184): one of the 32,768 that exist. -/
def names (s : State) (t : TileNo) (w : W64) (c : Nat) : Prop :=
  ctrOf s (tileVi s t) (getS s t (oSA w)).toNat = some c ∧ c < 32768

/-- Bits 31:0 of SB. -/
def sbLow (s : State) (t : TileNo) (w : W64) : Nat := (getS s t (oSB w)).toNat % 2 ^ 32

/-- OVF or UNF of a counter. -/
def saturated (s : State) (c : Nat) : Prop := flag s (F.SIG_CTR_OVF c) = true ∨ flag s (F.SIG_CTR_UNF c) = true

/-- The status with which the test of a WAIT completes: 4 on a saturated counter, 0 where VALUE reaches the threshold. -/
def waitStatus (s : State) (c thr st : Nat) : Prop :=
  (saturated s c ∧ st = 4) ∨ (¬ saturated s c ∧ thr ≤ ctrVal s c ∧ st = 0)

/-- A WAIT of a tile has ended with a status in SD: its tile no longer sleeps on a counter, and CONSUME takes the
threshold from VALUE with status 0 (06 R188). -/
def waitEnds (s s' : State) (t : TileNo) (sd c thr : Nat) (consume : Bool) (st : Nat) : Prop :=
  issued s s' t (putS s t sd (BitVec.ofNat 64 st)) [blkSig] ∧ otherCtrs s s' c ∧
  ctrVal s' c = (if consume = true ∧ st = 0 then ctrVal s c - thr else ctrVal s c) ∧
  ∀ p ∈ s'.sys.dma.waiters, p.2 ≠ t.val

end Sys2Proof.Claim

/-- SIG.ADD, SIG.SUB, SIG.SET and SIG.READ on a counter of the VI add, subtract, set and read it and write status 0 to
SD; on any other SA they and WAIT write the refusal SIGNAL and change no counter (06 R174, R184-R186). Nothing else changes. -/
def Obligations.SignalInstructionResult : Prop :=
  ∀ (s : State) (t : TileNo) (w : W64), tileReady s t w = true →
    (∀ c, Claim.names s t w c →
      let v := Claim.sbLow s t w
      let S := Claim.putS s t (oSD w) 0
      (opIs 0xb1 w = true → Claim.runs (.sigAdd t w) s fun s' =>
        (v ≠ 0 → Claim.added s s' c v) ∧
        (v = 0 → ∀ r : RegRef, ctrOff r.off = false → getR s' r = getR s r) ∧
        Claim.otherCtrs s s' c ∧ Claim.issued s s' t S [blkSig]) ∧
      (opIs 0xb2 w = true → Claim.runs (.sigSub t w) s fun s' =>
        Claim.subtracted s s' c v ∧ Claim.otherCtrs s s' c ∧ Claim.issued s s' t S [blkSig]) ∧
      (opIs 0xb3 w = true → Claim.runs (.sigSet t w) s fun s' =>
        Claim.setTo s s' c v ∧ Claim.otherCtrs s s' c ∧ Claim.issued s s' t S [blkSig]) ∧
      (opIs 0xb4 w = true → Claim.runs (.sigRead t w) s fun s' =>
        Claim.issued s s' t (fun i => if i = oSD w ∧ i ≠ 0 then 0 else
          Claim.putS s t (oSB w) (BitVec.ofNat 64 (ctrVal s c + 2 ^ 32 * (getF s (F.SIG_CTR_OVF c) +
            2 * getF s (F.SIG_CTR_UNF c) + 4 * getF s (F.SIG_CTR_DRIFT c)))) i) [])) ∧
    ∀ c ∈ Claim.sigOps, opIs c.2 w = true → ctrOf s (tileVi s t) (getS s t (oSA w)).toNat = none →
      Claim.runs (c.1 t w) s fun s' =>
        Claim.issued s s' t (Claim.putS s t (oSD w) (BitVec.ofNat 64 (2 + rSignal * 2 ^ 16))) []

/-- WAIT completes at once where its test does, and sleeps on its counter with nothing committed where it does not;
WAIT_WAKE ends a lone sleeper whose test completes; WAIT_TIMEOUT ends a sleeper that has a timeout, with TIMEOUT where
its test does not complete (06 R188). -/
def Obligations.WaitResult : Prop :=
  (∀ (s : State) (t : TileNo) (w : W64) (c : Nat), tileReady s t w = true → opIs 0xb6 w = true →
    Claim.names s t w c →
    let thr := Claim.sbLow s t w
    let consume := (oImm16 w).testBit 0
    (∀ st, Claim.waitStatus s c thr st → Claim.runs (.wait t w) s fun s' =>
      Claim.waitEnds s s' t (oSD w) c thr consume st) ∧
    (¬ Claim.saturated s c → ctrVal s c < thr → Claim.runs (.wait t w) s fun s' =>
      s'.sys.dma.waiters = s.sys.dma.waiters ++ [(c, t.val)] ∧
      Claim.coreStep s s' t (getS s t) { (tileOf s t).core with
        state := .stall, stall := .wait c thr consume (nowNs s) (getS s t (oSC w)).toNat (oSD w) } [])) ∧
  ∀ (s : State) (t : TileNo) (c : CtrNo) (thr since timeout sd : Nat) (consume : Bool),
    enginesRun s = true → s.sys.power.critHold = false → (tileOf s t).core.state = .stall →
    (tileOf s t).core.stall = .wait c.val thr consume since timeout sd →
    (∀ st, (s.sys.dma.waiters.filter fun p => p.1 == c.val) = [(c.val, t.val)] → Claim.waitStatus s c.val thr st →
      Claim.runs (.waitWake c) s fun s' => Claim.waitEnds s s' t sd c.val thr consume st) ∧
    (timeout ≠ 0 →
      (∀ st, Claim.waitStatus s c.val thr st → Claim.runs (.waitTimeout t) s fun s' =>
        Claim.waitEnds s s' t sd c.val thr consume st) ∧
      (¬ Claim.saturated s c.val → ctrVal s c.val < thr → Claim.runs (.waitTimeout t) s fun s' =>
        Claim.waitEnds s s' t sd c.val thr consume 3))

/-- A SIGNAL that arrives adds to its counter, or, where the VI or counter is not there, is counted in SIG_VI_DROP and
answered; SIG_NACK is counted; a write of SIG_CTR sets the counter, and clears DRIFT by a 1 (06 R179, R186, R195). No
tile and no byte of memory changes. -/
def Claim.SignalCommandResult : Prop :=
  (∀ (s : State) (a : Addr) (ctr : BitVec 15) (fence : Bool) (amount : W32),
    enginesRun s = true → a.tc = 0 → epochOk s a.epoch.toNat = true →
    (∀ c, destOk s a = true → ctrOf s a.dvi ctr.toNat = some c → c < 32768 →
      Claim.runs (.signal a ctr fence amount) s fun s' =>
        Claim.added s s' c amount.toNat ∧ Claim.otherCtrs s s' c ∧ onlyRegs s s' [blkSig]) ∧
    ((destOk s a = false ∨ ctrOf s a.dvi ctr.toNat = none) → Claim.runs (.signal a ctr fence amount) s fun s' =>
      getF s' (F.SIG_VI_DROP_DROP (a.dvi % 16)) = min (2 ^ 32 - 1) (getF s (F.SIG_VI_DROP_DROP (a.dvi % 16)) + 1) ∧
      (∃ h, s'.out = s.out ++ [.send 0 h []] ∧ h.kind = 8 ∧ h.ddev = BitVec.ofNat 15 a.sdev) ∧ onlyRegs s s' [blkSig]) ∧
    (destOk s a = true → Claim.runs (.sigNack a ctr amount) s fun s' =>
      getF s' (F.SIG_VI_STAT_NACK a.dvi) = min (2 ^ 16 - 1) (getF s (F.SIG_VI_STAT_NACK a.dvi) + 1) ∧
      onlyRegs s s' [blkSig])) ∧
  ∀ (s : State) (c : CtrNo) (val : W64), live s = true →
    Claim.runs (.sigCtrWrite c val) s fun s' =>
      Claim.setTo s s' c (val.toNat % 2 ^ 32) ∧
      getF s' (F.SIG_CTR_DRIFT c) = (if val.toNat.testBit 34 then 0 else getF s (F.SIG_CTR_DRIFT c)) ∧
      Claim.otherCtrs s s' c ∧ onlyRegs s s' [blkSig]

namespace Sys2Proof.Claim

/-! DMA (06 R169-R181, 13 R388). -/

/-- A tile offers descriptor words `l` in LQ SB: the 64 bytes at SA, a multiple of 64, translate and read as `l`. -/
def offers (s : State) (t : TileNo) (w : W64) (ps : List Pa) (l : List W64) : Prop :=
  (getS s t (oSA w)).toNat % 64 = 0 ∧ tileXlate s t aRead (addrs (getS s t (oSA w)).toNat 64) = .ok ps ∧
  l = wordsOf (ps.map (paByte s))

/-- The queue of LQ SB of the tile's VI. -/
def lqOf (s : State) (t : TileNo) (w : W64) : Option Nat := qOf s (tileVi s t) (getS s t (oSB w)).toNat

/-- The descriptor passes its checks, and queue q and the VI's allotment have room (06 R170, R174). -/
def accepts (s : State) (t : TileNo) (w : W64) (q : QNo) (l : List W64) : Prop :=
  lqOf s t w = some q.val ∧ dmaCheck s (tileVi s t) false true l = none ∧
  viOut s (tileVi s t) < allotDesc s (tileVi s t) ∧ qOut s (.dma q) < 2 ^ getF s (F.DMA_Q_CFG_DEPTH q) ∧
  migHolds s (tileVi s t) (resolveAlias s t l) = false

/-- An accepted descriptor stands at the end of the outstanding ones, with its number in the queue, and SD takes 0; no
other register of the tile, no pond and no register of the device changes. -/
def taken (s s' : State) (t : TileNo) (w : W64) (q : QNo) (l : List W64) : Prop :=
  (∃ d : Desc, s'.sys.dma.descs = s.sys.dma.descs ++ [d] ∧ d.q = .dma q ∧ d.seq = smGet 0 s.sys.dma.seqs q ∧
    d.vi = tileVi s t ∧ d.inc = viInc s (tileVi s t) ∧ d.words = resolveAlias s t l ∧ d.state = .queued ∧ d.pos = 0) ∧
  smGet 0 s'.sys.dma.seqs q = (smGet 0 s.sys.dma.seqs q + 1) % 2 ^ 32 ∧
  tileIs s' t (putS s t (oSD w) 0) (getV s t) (getP s t) (accAt s t) (getCsr s t)
    (committed (tileOf s t).core (next s t)) ∧
  sameOthers s s' t ∧ (∀ u b, pondByte s' u b = pondByte s u b) ∧
  (dTalus s (resolveAlias s t l) = false → ∀ a, hbmByte s' a = hbmByte s a) ∧
  (∀ r : RegRef, ctrOff r.off = false → getR s' r = getR s r) ∧ s'.pending = s.pending

/-- A descriptor is no longer outstanding; the DONE count of a DMA queue has moved on. -/
def leaves (s s' : State) (d : Desc) : Prop :=
  findDesc s' d.q d.seq = none ∧
  ∀ q, d.q = .dma q → getF s' (F.DMA_Q_STAT_DONE q) = (getF s (F.DMA_Q_STAT_DONE q) + 1) % 2 ^ 32

/-- A descriptor stands as sent up to a position. -/
def sentTo (s' : State) (d : Desc) (pos : Nat) : Prop :=
  ∃ x, findDesc s' d.q d.seq = some x ∧ x.state = .sent ∧ x.pos = pos

/-- The last frame sent, with its class, kind and device. -/
def sends (s s' : State) (tc kind dev : Nat) (pay : List Byte) : Prop :=
  ∃ h : Hdr, s'.out = s.out ++ [.send tc h pay] ∧ h.kind = BitVec.ofNat 4 kind ∧ h.ddev = BitVec.ofNat 15 dev

/-- A raw copy of at most one segment from memory of the VI, still at its start. -/
def rawCopy (s : State) (d : Desc) : Prop :=
  (dCv s d.vi d.words).code = 0 ∧ (dCv s d.vi d.words).packed = false ∧ dSrcHm d.words = false ∧ dDstHm d.words = false ∧
  0 < dLen d.words ∧ dLen d.words ≤ 4032 ∧ d.pos = 0 ∧ d.src = 0

/-- SIG.REMOTE's route register and counter. -/
def rDev (s : State) (t : TileNo) (w : W64) : Nat := wf (getS s t (oSC w)) 14 0
def rDvi (s : State) (t : TileNo) (w : W64) : Nat := wf (getS s t (oSC w)) 18 15

/-- A frame takes part in the device's traffic: engines run, the class is one of the command's, and the epoch holds. -/
def arrives (s : State) (a : Addr) (tcs : List Nat) : Prop :=
  enginesRun s = true ∧ a.tc.val ∈ tcs ∧ epochOk s a.epoch.toNat = true

end Sys2Proof.Claim

/-- DMA.PUT of a descriptor that passes the checks, with room in its queue and allotment and an effect or a signal of its
own, makes it outstanding and writes 0 to SD; the checks' refusal code, ALLOT with the allotment used up, and a stall with
the queue full are its other answers (06 R170, R174, 03 R98, R99). STALLED_ISSUE_PROCEED makes the checks again. -/
def Obligations.DmaPutResult : Prop :=
  ∀ (s : State) (t : TileNo) (w : W64) (ps : List Pa) (l : List W64),
    (tileReady s t w = true → opIs 0xb0 w = true → Claim.offers s t w ps l →
      (∀ q, Claim.accepts s t w q l → (dLen l ≠ 0 ∨ dDsigEn l = true ∨ dSsigEn l = true) →
        Claim.runs (.dmaPut t w) s fun s' => Claim.taken s s' t w q l) ∧
      (∀ code, dmaCheck s (tileVi s t) false (Claim.lqOf s t w).isSome l = some code →
        Claim.runs (.dmaPut t w) s fun s' =>
          Claim.issued s s' t (Claim.putS s t (oSD w) (BitVec.ofNat 64 (2 + code * 2 ^ 16))) []) ∧
      (dmaCheck s (tileVi s t) false (Claim.lqOf s t w).isSome l = none →
        allotDesc s (tileVi s t) ≤ viOut s (tileVi s t) → Claim.runs (.dmaPut t w) s fun s' =>
          Claim.issued s s' t (Claim.putS s t (oSD w) 1) []) ∧
      (∀ q : QNo, Claim.lqOf s t w = some q.val → dmaCheck s (tileVi s t) false true l = none →
        viOut s (tileVi s t) < allotDesc s (tileVi s t) → 2 ^ getF s (F.DMA_Q_CFG_DEPTH q) ≤ qOut s (.dma q) →
        Claim.runs (.dmaPut t w) s fun s' =>
          Claim.coreStep s s' t (getS s t) { (tileOf s t).core with state := .stall, stall := .engine w } [])) ∧
    ∀ q, opIs 0xb0 w = true → (tileOf s t).core.state = .stall → (tileOf s t).core.stall = .engine w →
      let s1 := applyUpd (.core t { (tileOf s t).core with state := .run, stall := .none }) s
      canIssue s1 t = true → Claim.offers s1 t w ps l → Claim.accepts s1 t w q l →
      (dLen l ≠ 0 ∨ dDsigEn l = true ∨ dSsigEn l = true) →
      Claim.runs (.stalledIssueProceed t) s fun s' => Claim.taken s1 s' t w q l

/-- SIG.REMOTE sends a SIGNAL frame to the device of its route and writes 0 to SD; with FENCE and descriptors outstanding
to that device it is held, and SIG_REMOTE_RELEASE sends it once none of these is outstanding; without a route it is
refused (06 R174, R187). -/
def Claim.RemoteSignalResult : Prop :=
  (∀ (s : State) (t : TileNo) (w : W64), tileReady s t w = true → opIs 0xb5 w = true →
    let dev := Claim.rDev s t w
    let v := tileVi s t
    let fence := (oImm16 w).testBit 0
    let routed := reachable s dev 0 = true ∧ (dev = selfDev s → viPresent s (Claim.rDvi s t w) = true)
    (routed → (fence = false ∨ devDescs s v dev = []) → Claim.runs (.sigRemote t w) s fun s' =>
      Claim.sends s s' 0 2 dev [] ∧ Claim.issued s s' t (Claim.putS s t (oSD w) 0) []) ∧
    (routed → fence = true → devDescs s v dev ≠ [] → Claim.runs (.sigRemote t w) s fun s' =>
      (∃ h, s'.sys.dma.heldSigs = s.sys.dma.heldSigs ++ [h] ∧ h.vi = v ∧ h.dev = dev ∧ h.waits = devDescs s v dev ∧
        h.ctr = (getS s t (oSA w)).toNat % 2 ^ 15 ∧ h.amount = (getS s t (oSB w)).setWidth 32) ∧
      s'.out = s.out ∧ Claim.issued s s' t (Claim.putS s t (oSD w) 0) []) ∧
    (¬ routed → Claim.runs (.sigRemote t w) s fun s' =>
      Claim.issued s s' t (Claim.putS s t (oSD w) (BitVec.ofNat 64 (2 + rRoute * 2 ^ 16))) [])) ∧
  ∀ (s : State) (v : ViNo) (held : Nat) (h : HeldSig), enginesRun s = true →
    s.sys.dma.heldSigs.find? (fun x => x.vi == v.val && x.id == held) = some h →
    (∀ p ∈ h.waits, findDesc s p.1 p.2 = none) →
    Claim.runs (.sigRemoteRelease v held) s fun s' =>
      Claim.sends s s' 0 2 h.dev [] ∧ (∀ x ∈ s'.sys.dma.heldSigs, x.id ≠ h.id) ∧ onlyRegs s s' []

/-- DESCRIPTOR_START moves a raw copy of one segment: to memory of the VI, or in a DMA_DATA frame to another device or
VI; ZERO_LEN_COMPLETE completes a descriptor without bytes or sends its frame; DESCRIPTOR_RESEND counts a replay, and
sends the frame of one without bytes; RESEND_ROUTE_TIMEOUT ends one that has no route (06 R171, R176-R181, 13 R388). -/
def Claim.DmaMovementResult : Prop :=
  ∀ (s : State) (q : QNo) (d : Desc), enginesRun s = true →
    (startable s (.dma q) = some d → Claim.rawCopy s d →
      (∀ ps qs, translateAll s d.vi none aRead (addrs (dSrc d.words) (dLen d.words)) = .ok ps →
        (dLocal d.words = true → translateAll s d.vi none aWrite (addrs (dDst d.words) (dLen d.words)) = .ok qs →
          qs.Nodup → Claim.runs (.descriptorStart (.dma q) .none) s fun s' =>
            Claim.stored s s' (qs.zip (ps.map (paByte s))) ∧ Claim.sentTo s' d (dLen d.words) ∧
            (∀ t, tileOf s' t = tileOf s t)) ∧
        (dLocal d.words = false → Claim.runs (.descriptorStart (.dma q) .none) s fun s' =>
          Claim.sends s s' (dTc d.words) 0 (dDev d.words) (xferHdr s d.vi d.words ++ ps.map (paByte s)) ∧
          Claim.sentTo s' d (dLen d.words) ∧ sameMemory s s' ∧ (∀ t, tileOf s' t = tileOf s t)))) ∧
    (∀ seq, findDesc s (.dma q) seq = some d →
      (d.state = .queued → dLen d.words = 0 → (qDescs s (.dma q)).head? = some d →
        (dLocal d.words = true → dSrcHm d.words = false → Claim.runs (.zeroLenComplete (.dma q) seq) s fun s' =>
          Claim.leaves s s' d ∧ sameMemory s s') ∧
        (dLocal d.words = false → Claim.runs (.zeroLenComplete (.dma q) seq) s fun s' =>
          Claim.sends s s' (dTc d.words) 0 (dDev d.words) (xferHdr s d.vi d.words) ∧ Claim.sentTo s' d d.pos ∧
          onlyRegs s s' [])) ∧
      (d.state = .lost → reachable s (dDev d.words) 1 = true → dLen d.words = 0 →
        Claim.runs (.descriptorResend (.dma q) seq) s fun s' =>
          getF s' (F.TALUS_STAT_REPLAYS (qDie s (.dma q))) = (getF s (F.TALUS_STAT_REPLAYS (qDie s (.dma q))) + 1) % 2 ^ 32 ∧
          Claim.sentTo s' d d.pos ∧ (∃ h, s'.out.getLast? = some (.send 1 h (xferHdr s d.vi d.words)))) ∧
      (d.state = .lost → reachable s (dDev d.words) 1 = false →
        Claim.runs (.resendRouteTimeout (.dma q) seq) s fun s' => Claim.leaves s s' d ∧ sameMemory s s'))

/-- The first DMA_DATA frame of a raw transfer writes its bytes where they translate; DMA_WRITES_ACKED completes a
transfer or a local descriptor whose bytes are all written; DMA_DONE ends the descriptor that it names, with the error
record of its queue where its status is not 0 (06 R177-R179). -/
def Claim.DmaLandingResult : Prop :=
  (∀ (s : State) (a : Addr) (f : DmaFrame) (ps : List Pa), Claim.arrives s a [5, 6, 1] → destOk s a = true →
    findRx s (keyOf a f) = none → thBad f.thdr = false → (thCv f.thdr).code = 0 →
    (thDsigEn f.thdr = true → (ctrOf s a.dvi (thDsig f.thdr)).isSome = true) → f.data ≠ [] →
    translateAll s a.dvi none aWrite (addrs (f.dst.toNat % 2 ^ 48 + f.offset) f.data.length) = .ok ps → ps.Nodup →
    Claim.runs (.dmaData a f) s fun s' =>
      Claim.stored s s' (ps.zip f.data) ∧ (∀ t, tileOf s' t = tileOf s t) ∧
      ∃ x, findRx s' (keyOf a f) = some x ∧ x.written = [(f.offset, f.data.length)] ∧ x.done = false ∧ x.thdr = f.thdr) ∧
  (∀ (s : State) (k : XferKey), enginesRun s = true →
    (∀ x, findRx s k = some x → x.done = false → x.spill = [] → rxFull x = true → x.edge = none →
      Claim.runs (.dmaWritesAcked k) s fun s' =>
        (∃ y, findRx s' k = some y ∧ y.done = true) ∧
        (∃ h, s'.out.getLast? = some (.send 0 h []) ∧ h.kind = 1 ∧ h.ddev = BitVec.ofNat 15 k.sdev) ∧ sameMemory s s') ∧
    (∀ (q : QNo) d, findRx s k = none → k.queue = q.val → findDesc s (.dma q) k.seq = some d →
      k.sdev = selfDev s → k.svi = d.vi → k.sinc = d.inc → dLocal d.words = true → dSrcHm d.words = false →
      d.state = .sent → Claim.runs (.dmaWritesAcked k) s fun s' => Claim.leaves s s' d ∧ sameMemory s s')) ∧
  ∀ (s : State) (a : Addr) (queue seq : Nat) (status : BitVec 4) (d : Desc), Claim.arrives s a [0] →
    destOk s a = true → doneDesc s a queue seq = some d →
    Claim.runs (.dmaDone a queue seq status) s fun s' =>
      Claim.leaves s s' d ∧
      ∀ q, d.q = .dma q → status ≠ 0 → flag s (F.DMA_Q_ERR_VALID q) = false →
        flag s' (F.DMA_Q_ERR_VALID q) = true ∧ getF s' (F.DMA_Q_ERR_STATUS q) = status.toNat ∧
        getF s' (F.DMA_Q_ERR_SEQ q) = d.seq % 2 ^ 32

/-- Signals that arrive, and SIG.REMOTE. -/
def Obligations.SignalDeliveryResult : Prop :=
  Claim.SignalCommandResult ∧ Claim.RemoteSignalResult

/-- DMA transfers at their source and at their destination. -/
def Obligations.DmaTransferResult : Prop :=
  Claim.DmaMovementResult ∧ Claim.DmaLandingResult

namespace Sys2Proof.Claim

/-- The collective instructions with their opcodes (07 R220). -/
def collOps : List ((TileNo → W64 → Instr) × Nat) :=
  [(.collAllred, 0xb8), (.collRedscat, 0xb9), (.collAllgath, 0xba), (.collBcast, 0xbb), (.collReduce, 0xbc),
   (.collDispatch, 0xbd), (.collCombine, 0xbe), (.collRing, 0xbf)]

/-- The context that SB names. -/
def grpIn (s : State) (t : TileNo) (w : W64) : Option Nat := grpOf s (tileVi s t) (getS s t (oSB w)).toNat

end Sys2Proof.Claim

/-- A collective that passes its checks on an ACTIVE group with room for a generation and no barrier due, nothing of that
generation having come before, becomes the group's next generation and writes 0 to SD; a refused one writes its code;
with 16 live generations the tile stalls (07 R209, R210, R225, 03 R98, R99). -/
def Obligations.CollectiveIssueResult : Prop :=
  ∀ c ∈ Claim.collOps, ∀ (s : State) (t : TileNo) (w : W64) (ps : List Pa) (l : List W64),
    tileReady s t w = true → opIs c.2 w = true → Claim.offers s t w ps l →
    (∀ code, collCheck s (tileVi s t) c.2 (Claim.grpIn s t w) l = some code → Claim.runs (c.1 t w) s fun s' =>
      Claim.issued s s' t (Claim.putS s t (oSD w) (BitVec.ofNat 64 (2 + code * 2 ^ 16))) []) ∧
    ∀ g, Claim.grpIn s t w = some g → collCheck s (tileVi s t) c.2 (some g) l = none →
      (liveCount s g < 16 → (grpSt s g).barrierDue = false → (grpSt s g).early = [] →
        migHoldsColl s (tileVi s t) (resolveColl s t l) = false → Claim.runs (c.1 t w) s fun s' =>
          getF s' (F.COL_GRP_GEN_NEXT g) = (getF s (F.COL_GRP_GEN_NEXT g) + 1) % 2 ^ 32 ∧
          (∃ x ∈ (grpSt s' g).gens, x.num = getF s (F.COL_GRP_GEN_NEXT g) ∧ x.op = c.2 ∧
            x.words = resolveColl s t l ∧ x.barrier = false) ∧
          tileIs s' t (Claim.putS s t (oSD w) 0) (getV s t) (getP s t) (accAt s t) (getCsr s t)
            (committed (tileOf s t).core (Claim.next s t)) ∧
          sameOthers s s' t ∧ (∀ u b, pondByte s' u b = pondByte s u b)) ∧
      (16 ≤ liveCount s g → Claim.runs (c.1 t w) s fun s' =>
        Claim.coreStep s s' t (getS s t) { (tileOf s t).core with state := .stall, stall := .engine w } [])

namespace Sys2Proof.Claim

/-! Translation, fault service, saving and the host's accesses (05). -/

/-- A VI reset can start now: the VI is present and IDLE or RUN, and 10 ms have passed since its last one (13 R391). -/
def resetFree (s : State) (v : Nat) : Prop :=
  viPresent s v = true ∧ viState s v ≠ 2 ∧ viState s v ≠ 3 ∧
  ∀ x, (viFaultSt s v).lastDone = some x → x + 10000000 ≤ nowNs s

/-- A VI reset has started with a cause: the next incarnation, RESETTING, the cause held for CAUSE, and every tile that
the VI held IDLE with its registers cleared and its pond zero (13 R389). -/
def resetBegun (s s' : State) (v cause : Nat) : Prop :=
  getF s' (F.FAULT_VI_CTL_INC v) = (viInc s v + 1) % 256 ∧ viState s' v = 2 ∧ (viFaultSt s' v).cause = cause ∧
  ∀ t ∈ tilesHeld s v, (tileOf s' t).core.state = .idle ∧ (∀ i, getS s' t i = 0) ∧ (∀ i, getV s' t i = 0) ∧
    ∀ b < 4194304, pondByte s' t b = 0

/-- One tile waits at the MMU in the one record of id `id` (05 R153). -/
def parkedTile (s : State) (v : ViNo) (id : Nat) (t : TileNo) (va : Nat) : Prop :=
  ∃ r since, ((mmuSt s v).recs.filter fun x => x.live && x.id == id) = [r] ∧
    r.parked = [⟨.tile t, since, va⟩] ∧ (tileOf s t).core.stall = .xlate

/-- No record of the id is held or can be resumed. -/
def resumed (s' : State) (v : ViNo) (id : Nat) : Prop := ∀ x ∈ (mmuSt s' v).recs, x.id = id → x.live = false

/-- The tile runs again at the instruction that faulted (05 R155). -/
def runsAgain (s s' : State) (t : TileNo) : Prop :=
  tileIs s' t (getS s t) (getV s t) (getP s t) (accAt s t) (getCsr s t)
    { (tileOf s t).core with state := .run, stall := .none } ∧ sameOthers s s' t ∧ sameMemory s s'

/-- Each byte of a run of BAR2 lies in an aperture at the DPA given. -/
def bar2Maps (s : State) (l : List (Nat × Nat)) : Prop := ∀ p ∈ l, bar2At s p.1 = .ok p.2

/-- The link and the device take memory accesses of the host. -/
def hostOpen (s : State) (d : LinkNo) : Prop := live s = true ∧ flag s (F.HOST_LINK_LINKUP d) = true
def cxlOpen (s : State) (d : LinkNo) : Prop :=
  hostOpen s d ∧ flag s (F.HOST_LINK_CXL d) = true ∧ flag s (F.HOST_LINK_MEMEN d) = true

/-- Bytes of HBM at places, and every other byte of HBM, the ponds and the tiles as before. -/
def hbmStored (s s' : State) (l : List (Nat × Byte)) : Prop :=
  stored s s' (l.map fun p => (.hbm p.1, p.2)) ∧ ∀ t, tileOf s' t = tileOf s t

end Sys2Proof.Claim

/-- The own-pond alias names the pond of the accessing tile only; an address of a slot of the VI names the pond of that
slot; every other address from 0xFE00_0000_0000 is RANGE; an address below it without a stage-1 root is NOT_PRESENT; a
stage-2 access beyond the allotment is RANGE (05 R137-R140, R144). -/
def Obligations.AddressTranslation : Prop :=
  ∀ (s : State) (v va acc : Nat),
    (0xFF0000000000 ≤ va → va < 0xFF0000300000 →
      (∀ t, translate s v (some t) va acc = .ok (.pond t (va - 0xFF0000000000))) ∧
      translate s v none va acc = .fault 4 0 0 0) ∧
    (∀ j o t self, j < 144 → o < 3145728 → va = 0xFE0000000000 + j * 0x400000 + o → slotTile s v j = some t →
      translate s v self va acc = .ok (.pond t o)) ∧
    (∀ j o self, j < 144 → o < 3145728 → va = 0xFE0000000000 + j * 0x400000 + o → slotTile s v j = none →
      translate s v self va acc = .fault 4 0 0 0) ∧
    (∀ self, 0xFE0000000000 ≤ va → (3145728 ≤ (va - 0xFE0000000000) % 0x400000 ∨ 0xFE0000000000 + 144 * 0x400000 ≤ va) →
      (va < 0xFF0000000000 ∨ 0xFF0000300000 ≤ va) → translate s v self va acc = .fault 4 0 0 0) ∧
    (∀ self, va < 0xFE0000000000 → flag s (F.MMU_VI_S1ROOT_EN v) = false →
      translate s v self va acc = .fault 1 0 0 0) ∧
    ∀ wait ipa, allotHbm s v ≤ ipa → stage2 s wait v ipa = .fault 4 1 1 ipa

/-- RETRY and RETRY_ALL let a parked tile run its instruction again, and ABORT_RESUME makes it raise XLATE at the
address; a resume of another incarnation or of no record only sets BADRES (05 R155, R156). A write of the tail is stored,
and the host's invalidations are queued and answered (05 R146, R153). -/
def Claim.FaultServiceResult : Prop :=
  (∀ (s : State) (v : ViNo) (id : W32) (t : TileNo) (va : Nat), enginesRun s = true →
    Claim.parkedTile s v id.toNat t va →
    (Claim.runs (.retry v (BitVec.ofNat 8 (viInc s v)) id) s fun s' =>
      Claim.runsAgain s s' t ∧ Claim.resumed s' v id.toNat) ∧
    (handlerReady s t = true → Claim.runs (.abortResume v (BitVec.ofNat 8 (viInc s v)) id) s fun s' =>
      Claim.atHandler s s' t 3 (BitVec.ofNat 64 va) ∧ sameOthers s s' t ∧ sameMemory s s' ∧
      Claim.resumed s' v id.toNat) ∧
    (((mmuSt s v).recs.filter fun x => x.live).length = 1 →
      Claim.runs (.retryAll v (BitVec.ofNat 8 (viInc s v))) s fun s' =>
        Claim.runsAgain s s' t ∧ Claim.resumed s' v id.toNat)) ∧
  ∀ (s : State) (v : ViNo),
    (∀ inc id, enginesRun s = true →
      (inc.toNat ≠ viInc s v ∨ ∀ x ∈ (mmuSt s v).recs, x.live = true → x.id ≠ id.toNat) →
      ∀ c ∈ [Instr.retry v inc id, Instr.abortResume v inc id], Claim.runs c s fun s' =>
        flag s' (F.MMU_VI_FSTAT_BADRES v) = true ∧ onlyRegs s s' [blkMmu] ∧ s'.sys = s.sys) ∧
    (∀ tail, heldRecs s v = [] → (mmuSt s v).waiting = [] → Claim.runs (.fqTailWrite v tail) s fun s' =>
      getF s' (F.MMU_VI_FQ_TAIL_TAIL v) = tail.toNat ∧ onlyRegs s s' [blkMmu] ∧ s'.sys = s.sys) ∧
    (∀ vpn all, (mmuSt s v).invals.length < 16 → Claim.runs (.mmuViInval v vpn all) s fun s' =>
      (mmuSt s' v).invals = (mmuSt s v).invals ++ [(vpn.toNat, all)] ∧ flag s' (F.MMU_VI_INVAL_STAT_BUSY v) = true ∧
      onlyRegs s s' [blkMmu]) ∧
    (∀ vpn all, 16 ≤ (mmuSt s v).invals.length → Claim.runs (.mmuViInval v vpn all) s fun s' =>
      flag s' (F.MMU_VI_FSTAT_IOVF v) = true ∧ onlyRegs s s' [blkMmu] ∧ s'.sys = s.sys) ∧
    (Claim.runs (.invalDone v) s fun s' =>
      (mmuSt s' v).invals = [] ∧ flag s' (F.MMU_VI_INVAL_STAT_BUSY v) = false ∧ onlyRegs s s' [blkMmu])

/-- The limit of the fault service is stored as the nearer bound of 1,000 to 10,000 where expert access is on, and a VI
whose fault has waited longer is reset with cause SVC_LIMIT (05 R157, R158, 13 R389, R392). -/
def Claim.ServiceLimitResult : Prop :=
  (∀ (s : State) (via : Via) (limit : BitVec 14), expertOn s none = true →
    Claim.runs (.svcLimitWrite via limit) s fun s' =>
      getF s' F.MMU_SVC_LIMIT_LIMIT = max 1000 (min 10000 limit.toNat) ∧ onlyRegs s s' [blkMmu] ∧ s'.sys = s.sys) ∧
  ∀ (s : State) (v : ViNo), live s = true → overLimit s v = true → Claim.resetFree s v →
    Claim.runs (.svcLimitExpiry v) s fun s' => Claim.resetBegun s s' v 2

/-- Pre-empting a tile with nothing in its matrix unit starts its save and writes the image to its area only; the tile
then is PREEMPT; restoring loads the PC, IH and the S, P and V registers of the image, and the tile then runs. A save area
outside the allotment sets ERR 1 (05 R164-R167). -/
def Obligations.SaveAndRestoreResult : Prop :=
  ∀ (s : State) (t : TileNo),
    let c := (tileOf s t).core
    let l := ipaRead s c.vi (saveBase s t) imageSize
    (enginesRun s = true → (c.state = .run ∨ c.state = .stall) → c.saving = none →
      (saveFits s t = true → c.mat = [] → Claim.runs (.preempt t) s fun s' =>
        tileIs s' t (getS s t) (getV s t) (getP s t) (accAt s t) (getCsr s t)
          { c with state := .run, stall := .none, xlSince := none, saving := some (.preempt (saveBase s t)) } ∧
        flag s' (F.TILE_SAVE_BUSY t) = true ∧ getF s' (F.TILE_SAVE_ERR t) = 0 ∧ sameOthers s s' t ∧
        (∀ u b, pondByte s' u b = pondByte s u b) ∧
        ∀ a, (∀ i < imageSize, ipaDpa s c.vi (saveBase s t + i) ≠ a) → hbmByte s' a = hbmByte s a) ∧
      (saveFits s t = false → Claim.runs (.preempt t) s fun s' =>
        getF s' (F.TILE_SAVE_ERR t) = 1 ∧ onlyRegs s s' [blkTile] ∧ s'.sys = s.sys)) ∧
    (∀ b, c.saving = some (.preempt b) → Claim.runs (.preemptDone t) s fun s' =>
      tileIs s' t (getS s t) (getV s t) (getP s t) (accAt s t) (getCsr s t) { c with state := .preempt, saving := none } ∧
      flag s' (F.TILE_SAVE_BUSY t) = false ∧ sameOthers s s' t ∧ sameMemory s s') ∧
    (enginesRun s = true → (c.state = .preempt ∨ c.state = .idle) → c.saving = none → saveFits s t = true →
      imageOk l = true → Claim.runs (.restore t) s fun s' =>
        (tileOf s' t).core.pc = BitVec.ofNat 48 (imgWord l 8 6) ∧ (tileOf s' t).core.ih = (imgWord l 4 1).testBit 0 ∧
        (tileOf s' t).core.saving = some (.restore (saveBase s t)) ∧ (tileOf s' t).core.state = c.state ∧
        (∀ i, 0 < i → i < 64 → getS s' t i = BitVec.ofNat 64 (imgWord l (0x100 + 8 * i) 8)) ∧
        (∀ i, 0 < i → i < 8 → getP s' t i = BitVec.ofNat 1024 (imgWord l (0x300 + 128 * i) 128)) ∧
        (∀ i < 32, getV s' t i = BitVec.ofNat 8192 (imgWord l (0x800 + 1024 * i) 1024)) ∧
        flag s' (F.TILE_SAVE_BUSY t) = true ∧ sameOthers s s' t ∧ sameMemory s s') ∧
    (∀ b, c.saving = some (.restore b) → Claim.runs (.restoreDone t) s fun s' =>
      tileIs s' t (getS s t) (getV s t) (getP s t) (accAt s t) (getCsr s t) { c with state := .run, saving := none } ∧
      flag s' (F.TILE_SAVE_BUSY t) = false ∧ sameOthers s s' t ∧ sameMemory s s')

/-- Host accesses through BAR2 and CXL.mem read and write HBM at the places that the apertures and the extents give; an
address outside the CXL.mem slice stops, since no such address exists (05 R162, 12 R353, R370). A migrated frame holds
the page's bytes; a frame that does not exist stops (05 R135, R150). -/
def Obligations.HostMemoryAccessResult : Prop :=
  (∀ (s : State) (d : LinkNo) (off : Nat) (bytes : List Byte) (ds : List Nat), Claim.hostOpen s d →
    ds.length = bytes.length → Claim.bar2Maps s ((addrs off bytes.length).zip ds) →
    (ds.Nodup → Claim.runs (.bar2Write d off bytes) s fun s' =>
      Claim.hbmStored s s' (ds.zip bytes) ∧ s'.sys = s.sys ∧ s'.out = s.out) ∧
    (Claim.runs (.bar2Read d off bytes.length) s fun s' =>
      s'.out = s.out ++ [.bytes d (ds.map (hbmByte s)) false] ∧ onlyRegs s s' [] ∧ s'.sys = s.sys)) ∧
  (∀ (s : State) (d : LinkNo) (addr : Nat) (bytes : List Byte) (ds : List Nat), Claim.cxlOpen s d →
    (addrs addr bytes.length).map (cxlAt s) = ds.map some →
    (ds.Nodup → Claim.runs (.cxlMemAccess d addr (.write bytes)) s fun s' =>
      Claim.hbmStored s s' (ds.zip bytes) ∧ s'.sys = s.sys ∧ s'.out = s.out) ∧
    (Claim.runs (.cxlMemAccess d addr (.read bytes.length)) s fun s' =>
      s'.out = s.out ++ [.bytes d (ds.map (hbmByte s)) false] ∧ onlyRegs s s' [] ∧ s'.sys = s.sys)) ∧
  (∀ (s : State) (d : LinkNo) (addr : Nat) (access : MemAccess) (a : Nat),
    (cxlRun addr access).find? (fun x => cxlAt s x == none) = some a →
    Machine.exec (.cxlMemAccess d addr access) s = .fault (.noSuchAddress a)) ∧
  ∀ (s : State) (v : ViNo) (page frame : Nat),
    (live s = true → dpaExists (frame * 4096) = true → (s2Entry s v page).2 = true →
      s.sys.faults.hbmRetiring = [] → Claim.runs (.frameMigrateDone v page frame) s fun s' =>
        s2Entry s' v page = (frame, false) ∧
        (∀ i < 4096, hbmByte s' (frame * 4096 + i) = hbmByte s ((s2Entry s v page).1 * 4096 + i)) ∧
        ∀ a, (a < frame * 4096 ∨ frame * 4096 + 4096 ≤ a) → hbmByte s' a = hbmByte s a) ∧
    (dpaExists (frame * 4096) = false →
      Machine.exec (.frameMigrateDone v page frame) s = .fault (.noSuchAddress (frame * 4096)))

/-- The fault service and its limit. -/
def Obligations.MmuServiceResult : Prop :=
  Claim.FaultServiceResult ∧ Claim.ServiceLimitResult

namespace Sys2Proof.Claim

/-! Groups and generations (07 R202-R234, 13 R381-R387). -/

/-- A control message for a group context of this device arrives and takes part. -/
def colArrives (s : State) (a : Addr) (gid : W32) (g : GrpNo) : Prop :=
  arrives s a [0] ∧ destOk s a = true ∧ ctxOf s a.dvi gid.toNat = some g.val

/-- Each of the members has been sent a COL_CTL message of a number. -/
def told (s s' : State) (l : List (Nat × W64)) (msg : Nat) : Prop :=
  ∃ o, s'.out = s.out ++ o ∧ ∀ p ∈ l, ∃ h pay, Output.send 0 h pay ∈ o ∧ h.kind = 4 ∧
    h.ddev = BitVec.ofNat 15 (membDev p.2) ∧ h.k1.toNat % 256 = msg

/-- A context is in a state, and only registers of groups have changed. -/
def grpNow (s s' : State) (g : GrpNo) (st : Nat) : Prop := grpState s' g = st ∧ onlyRegs s s' [blkCol]

/-- A context that can be created: FREE, of a VI. -/
def creatable (s : State) (g : GrpNo) (v : Nat) : Prop :=
  enginesRun s = true ∧ grpOwner s g = some v ∧ grpState s g = stFree

/-- What a JOIN tells. -/
def joinOf (a : Addr) (rank : Nat) (caps : BitVec 16) (crc : W32) : Join :=
  { rank, sdev := a.sdev, svi := a.svi, sinc := a.sinc, caps := caps.toNat, crc := crc.toNat }

/-- Rank 0 collects JOINs, and this one is new. -/
def collects (s : State) (g : GrpNo) (rank : Nat) : Prop :=
  grpState s g = stJoining ∧ coordinator s g = grpRank s g ∧ (grpSt s g).rejoin = false ∧ rank < grpN s g ∧
  ∀ i ∈ (grpSt s g).joins, i.rank ≠ rank

/-- All JOINs agree with the context (07 R202 step 3). -/
def agree (s : State) (g : GrpNo) (l : List Join) : Prop :=
  (∀ j ∈ l, j.crc = groupCrc s g (grpSt s g).members) ∧
  (let caps := l.foldl (fun c j => Nat.land c j.caps) (2 ^ 16 - 1); Nat.land (grpFeat s g) caps = grpFeat s g) ∧
  placementOk s g (grpSt s g).members = true

/-- A live generation of a group that is not over. -/
def open_ (s : State) (g : GrpNo) (gen : W32) (x : Gen) : Prop :=
  findGen s g gen.toNat = some x ∧ x.state ≠ .ended ∧ x.state ≠ .done ∧ x.state ≠ .committed

/-- The generation now, with a property. -/
def genNow (s' : State) (g : GrpNo) (gen : W32) (P : Gen → Prop) : Prop := ∃ y, findGen s' g gen.toNat = some y ∧ P y

/-- An attempt that has been aborted and not yet resumed. -/
def pendingGo (x : Gen) : Prop := x.replays % 256 ≠ x.attempt

/-- A generation can send chunk c: of the sender's own part, with credit, once (07 R233, 13 R381). -/
def maySend (s : State) (g : GrpNo) (gen : W32) (x : Gen) (c : Nat) : Prop :=
  enginesRun s = true ∧ findGen s g gen.toNat = some x ∧ x.state = .running ∧ cCount x.words ≠ 0 ∧
  c < chunkCount x.op x.words ∧ sendsChunk s g x c = true ∧ c ∉ x.sent ∧ c < x.low + 64 ∧ credited s g x c = true ∧
  colParked s g gen.toNat c = false

/-- Where chunk c of a member's vector is read: address and length. -/
def chunkAt (s : State) (g : GrpNo) (x : Gen) (c : Nat) : Nat × Nat :=
  let m := meet (chunkSpan x.op x.words c) (sendSpan s g x)
  let o := srcBytes s g x m.1 m.2
  (cSrc x.words + o.1, o.2)

/-- A generation whose data travel as they stand: no reduction, no scale and no conversion. -/
def rawGen (s : State) (g : GrpNo) (x : Gen) : Prop :=
  genRed s g x = none ∧ cScl x.words = false ∧ opTokens x.op = false ∧ cSet x.words = cDet x.words

/-- First element and address of a landing run of a raw chunk. -/
def landAt (s : State) (g : GrpNo) (x : Gen) (f : ColFrame) : Nat × Nat :=
  let i := (chunkSpan x.op x.words f.chunk).1 + f.first * 32
  (i, cDst x.words + (i - dstBase s g x) * cDetBytes s g x.words)

/-- A COL_DATA frame for a running generation, in the attempt and with the digest of this member. -/
def colLands (s : State) (a : Addr) (f : ColFrame) (g : GrpNo) (x : Gen) : Prop :=
  arrives s a [1, 2, 3, 4, 5] ∧ destOk s a = true ∧ ctxOf s a.dvi f.gid.toNat = some g.val ∧
  findGen s g f.gen.toNat = some x ∧ x.state = .running ∧ f.attempt.toNat = x.attempt ∧ f.digest.toNat = x.digest ∧
  f.tok = none ∧ chunkDone x f.chunk = false ∧ x.spill = []

/-- A context in use: JOINING, ACTIVE or SUSPENDED. -/
def inUse (s : State) (g : GrpNo) : Prop :=
  grpState s g = stJoining ∨ grpState s g = stActive ∨ grpState s g = stSuspended

end Sys2Proof.Claim

/-- CREATE and REJOIN of a FREE context: CONFIG and TABLE on a bad configuration or table, else JOINING with JOIN sent to
rank 0, or, rejoining, to every other member. CLOSE sends LEAVE and, like an arriving LEAVE, goes to CLOSING, or to FREE
with nothing live; a FAILED context becomes FREE (07 R202, R203, R205, R228). -/
def Claim.GroupOpeningAndClosing : Prop :=
  (∀ (s : State) (g : GrpNo) (v : Nat), Claim.creatable s g v →
    (∀ c ∈ [Instr.create g, Instr.rejoin g],
      (cfgBad s g = true → Claim.runs c s fun s' =>
        Claim.grpNow s s' g stFailed ∧ getF s' (F.COL_GRP_STAT_CODE g) = 1) ∧
      (cfgBad s g = false → readTable s v g = none → Claim.runs c s fun s' =>
        Claim.grpNow s s' g stFailed ∧ getF s' (F.COL_GRP_STAT_CODE g) = 2)) ∧
    (∀ tbl, cfgBad s g = false → readTable s v g = some tbl → gidTaken s v g tbl = false → tableAbsent s tbl = false →
      (grpRank s g ≠ 0 → Claim.runs (.create g) s fun s' =>
        Claim.grpNow s s' g stJoining ∧ (grpSt s' g).members = tbl ∧ Claim.told s s' [(0, tbl.headD 0)] 1) ∧
      Claim.runs (.rejoin g) s fun s' =>
        Claim.grpNow s s' g stJoining ∧ (grpSt s' g).members = tbl ∧ (grpSt s' g).rejoin = true ∧
        Claim.told s s' (otherMembers s' g) 1)) ∧
  (∀ (s : State) (g : GrpNo), enginesRun s = true →
    (grpState s g = stFailed → Claim.runs (.close g) s fun s' => Claim.grpNow s s' g stFree ∧ grpSt s' g = {}) ∧
    (Claim.inUse s g → Claim.runs (.close g) s fun s' =>
      Claim.grpNow s s' g (if liveCount s g = 0 then stFree else stClosing) ∧
      Claim.told s s' (otherMembers s g) 4)) ∧
  ∀ (s : State) (a : Addr) (gid : W32) (g : GrpNo), Claim.colArrives s a gid g → Claim.inUse s g →
    Claim.runs (.leave a gid) s fun s' =>
      Claim.grpNow s s' g (if liveCount s g = 0 then stFree else stClosing) ∧ s'.out = s.out

/-- A JOIN without a context is held; at rank 0 it is collected, and with the last one that agrees the group is ACTIVE
and every member is told ACCEPT. ACCEPT makes a JOINING context ACTIVE at its NEXT, REFUSE makes it FAILED with its code,
and the two timeouts make it FAILED with TIMEOUT. EXCLUDE of a rank suspends an ACTIVE group (07 R202-R204, R228). -/
def Claim.GroupMembershipResult : Prop :=
  (∀ (s : State) (a : Addr) (gid : W32) (rank : Nat) (caps : BitVec 16) (crc : W32), Claim.arrives s a [0] →
    destOk s a = true →
    let j := Claim.joinOf a rank caps crc
    (ctxOf s a.dvi gid.toNat = none → Claim.runs (.join a gid rank caps crc) s fun s' =>
      s'.sys.col.orphans = s.sys.col.orphans ++ [{ gid := gid.toNat, dvi := a.dvi, join := j, at_ := nowNs s }] ∧
      onlyRegs s s' []) ∧
    ∀ g : GrpNo, ctxOf s a.dvi gid.toNat = some g.val → Claim.collects s g rank →
      let l := (grpSt s g).joins ++ [j]
      (l.length ≠ grpN s g → Claim.runs (.join a gid rank caps crc) s fun s' =>
        (grpSt s' g).joins = l ∧ s'.out = s.out ∧ onlyRegs s s' []) ∧
      (l.length = grpN s g → Claim.agree s g l → Claim.runs (.join a gid rank caps crc) s fun s' =>
        Claim.grpNow s s' g stActive ∧ getF s' (F.COL_GRP_GEN_NEXT g) = 0 ∧ Claim.told s s' (otherMembers s g) 2)) ∧
  (∀ (s : State) (a : Addr) (gid : W32) (g : GrpNo), Claim.colArrives s a gid g →
    (grpState s g = stJoining →
      (∀ next rejoined, Claim.runs (.accept a gid next rejoined) s fun s' =>
        Claim.grpNow s s' g stActive ∧ getF s' (F.COL_GRP_GEN_NEXT g) = next.toNat) ∧
      ∀ code, Claim.runs (.refuse a gid code) s fun s' =>
        Claim.grpNow s s' g stFailed ∧ getF s' (F.COL_GRP_STAT_CODE g) = code.toNat) ∧
    ∀ rank, rank < 32768 → grpState s g = stActive → (grpSt s g).gens = [] →
      Claim.runs (.exclude a gid rank) s fun s' =>
        Claim.grpNow s s' g stSuspended ∧ getF s' (F.COL_GRP_STAT_EXRANK g) = rank ∧
        flag s' (F.COL_GRP_STAT_EXCL g) = true ∧ rank ∈ (grpSt s' g).excluded) ∧
  ∀ (s : State) (g : GrpNo), enginesRun s = true → grpState s g = stJoining →
    (Claim.runs (.joinWaitTimeout g) s fun s' =>
      Claim.grpNow s s' g stFailed ∧ getF s' (F.COL_GRP_STAT_CODE g) = 7) ∧
    (grpRank s g = 0 → (grpSt s g).rejoin = false → Claim.runs (.joinTimeout g) s fun s' =>
      Claim.grpNow s s' g stFailed ∧ getF s' (F.COL_GRP_STAT_CODE g) = 7 ∧ Claim.told s s' (otherMembers s g) 3)

/-- ABORT of a newer attempt stops a generation and is acknowledged to the coordinator, and one that tells an end ends it
with the code; ABORT_GO lets it run again under the attempt; ABORT_ACK is collected; ABORT_ACK_TIMEOUT excludes the one
rank that has not answered, which ends the open generation as EXCLUDED; GO_TIMEOUT acknowledges to the lowest rank that
answers; RING_STALL without the abort policy sets STALL only (13 R382-R386, 07 R234). -/
def Claim.GenerationAbortResult : Prop :=
  (∀ (s : State) (a : Addr) (gid gen : W32) (g : GrpNo) (x : Gen), Claim.colArrives s a gid g →
    (∀ rank attempt cause, Claim.open_ s g gen x →
      (8 < BitVec.toNat cause → Claim.runs (.abort a gid gen rank attempt cause) s fun s' =>
        (Claim.genNow s' g gen fun y => y.state = .ended ∧ y.code = cause.toNat - 8) ∧ sameMemory s s') ∧
      (cause.toNat ≤ 8 → newerAttempt attempt.toNat x.attempt = true → coordinator s g ≠ grpRank s g →
        Claim.runs (.abort a gid gen rank attempt cause) s fun s' =>
          (Claim.genNow s' g gen fun y => y.state = .aborting ∧ y.attempt = attempt.toNat ∧
            y.aborters = x.aborters ++ [rank]) ∧ sameMemory s s' ∧
          ∀ w, (grpSt s g).members[coordinator s g]? = some w → Claim.told s s' [(coordinator s g, w)] 8)) ∧
    (∀ attempt, findGen s g gen.toNat = some x → x.attempt = BitVec.toNat attempt → Claim.pendingGo x →
      (x.state = .aborting → Claim.runs (.abortGo a gid gen attempt) s fun s' =>
        (Claim.genNow s' g gen fun y => y.state = .running ∧ y.attempt = x.attempt ∧ y.replays % 256 = x.attempt % 256) ∧
        getF s' (F.COL_GRP_STAT_REPLAYS g) = min 65535 (getF s (F.COL_GRP_STAT_REPLAYS g) + 1)) ∧
      ∀ rank k, x.state ≠ .ended → k < grpN s g → k ≠ rank → k ∉ x.acks → k ∉ (grpSt s g).excluded →
        Claim.runs (.abortAck a gid gen rank attempt) s fun s' =>
          (Claim.genNow s' g gen fun y => y.acks = (if rank ∈ x.acks then x.acks else x.acks ++ [rank]) ∧
            y.state = x.state) ∧ s'.out = s.out ∧ onlyRegs s s' [])) ∧
  ∀ (s : State) (g : GrpNo) (gen : W32) (x : Gen), enginesRun s = true → findGen s g gen.toNat = some x →
    (∀ r, r < 32768 → Claim.open_ s g gen x → Claim.pendingGo x → coordinator s g = grpRank s g →
      grpState s g = stActive →
      ((upto (grpN s g)).filter fun k => !(x.acks.contains k || (grpSt s g).excluded.contains k)) = [r] →
      Claim.runs (.abortAckTimeout g gen) s fun s' =>
        (Claim.genNow s' g gen fun y => y.state = .ended ∧ y.code = 2) ∧ grpState s' g = stSuspended ∧
        getF s' (F.COL_GRP_STAT_EXRANK g) = r ∧ Claim.told s s' (otherMembers s g) 9 ∧ sameMemory s s') ∧
    (∀ answering r w, x.state ≠ .ended → Claim.pendingGo x →
      ((upto (grpN s g)).find? fun k => answering.contains k) = some r → r ≠ grpRank s g →
      (grpSt s g).members[r]? = some w → Claim.runs (.goTimeout g gen answering) s fun s' =>
        Claim.told s s' [(r, w)] 8 ∧ s'.sys = s.sys ∧ onlyRegs s s' []) ∧
    (x.state = .running → flag s (F.COL_GRP_CFG_STALLPOL g) = false → Claim.runs (.ringStall g gen) s fun s' =>
      flag s' (F.COL_GRP_STAT_STALL g) = true ∧ s'.out = s.out ++ [.event 4 1 g] ∧ s'.sys = s.sys ∧
      onlyRegs s s' [blkCol])

/-- A launch takes a token of the group and of the device, posts credit and runs; a refill adds one token up to 16 and 64.
CREDIT, ARRIVE and the counts of a member are noted, and a zero-count generation is COMMITTED with the last ARRIVE. A
COMMITTED or ENDED generation whose status record is written is DONE or leaves. The barrier compares ARRIVED with the
expected tally, sets DRIFT and takes the tally (07 R209, R212, R215-R218, R231, 06 R190). -/
def Claim.GenerationProgressResult : Prop :=
  (∀ (s : State) (g : GrpNo) (gen : W32) (x : Gen), enginesRun s = true → findGen s g gen.toNat = some x →
    (∀ grid, x.state = .issued → 0 < (grpSt s g).tokens → 0 < s.sys.col.devTokens → grpDrains s g (dataTc x) = false →
      genGrid s g x = some (some grid) → opTokens x.op = false → cCount x.words ≠ 0 →
      Claim.runs (.generationLaunch g gen) s fun s' =>
        (Claim.genNow s' g gen fun y => y.state = .running ∧ y.grid = grid ∧
          y.credits = x.credits ++ [(grpRank s g, chunkCount x.op x.words)]) ∧
        (grpSt s' g).tokens = (grpSt s g).tokens - 1 ∧ s'.sys.col.devTokens = s.sys.col.devTokens - 1 ∧
        Claim.told s s' (otherMembers s g) 5 ∧ onlyRegs s s' []) ∧
    (∀ ps, grpState s g = stActive → colParked s g gen.toNat markStat = false →
      cStat x.words ≠ 0 → translateAll s (grpVi s g) none aWrite (addrs (cStat x.words) 8) = .ok ps → ps.Nodup →
      (x.state = .committed → Claim.runs (.genStatusAcked g gen) s fun s' =>
        Claim.stored s s' (ps.zip (statusRecord s g x)) ∧ Claim.genNow s' g gen fun y => y.state = .done) ∧
      (x.state = .ended → Claim.runs (.genStatusAcked g gen) s fun s' =>
        Claim.stored s s' (ps.zip (statusRecord s g x)) ∧ findGen s' g gen.toNat = none))) ∧
  (∀ (s : State) (a : Addr) (gid gen : W32) (g : GrpNo) (x : Gen) (rank : Nat), Claim.colArrives s a gid g →
    findGen s g gen.toNat = some x →
    (∀ digest chunks, BitVec.toNat digest = x.digest → Claim.runs (.credit a gid gen rank digest chunks) s fun s' =>
      (Claim.genNow s' g gen fun y => (rank, chunks) ∈ y.credits ∧ ∀ r n, (r, n) ∈ y.credits → r = rank → n = chunks) ∧
      s'.out = s.out ∧ onlyRegs s s' []) ∧
    (x.state = .running → cCount x.words = 0 → Claim.runs (.arrive a gid gen rank) s fun s' =>
      (Claim.genNow s' g gen fun y => rank ∈ y.arrive ∧
        ((∀ r < grpN s g, r = rank ∨ r ∈ x.arrive) → y.state = .committed)) ∧ s'.out = s.out ∧ onlyRegs s s' []) ∧
    ∀ counts, opTokens x.op = true → (∀ p ∈ x.counts, p.1 ≠ rank) →
      (∃ r < grpN s g, r ≠ rank ∧ ∀ p ∈ x.counts, p.1 ≠ r) →
      Claim.runs (.dispatchCountArrive a gid gen rank counts) s fun s' =>
        (Claim.genNow s' g gen fun y => y.counts = x.counts ++ [(rank, counts)]) ∧ s'.out = s.out ∧ onlyRegs s s' []) ∧
  ∀ s : State, enginesRun s = true →
    (s.sys.col.devTokens < 64 → Claim.runs .deviceTokenRefill s fun s' =>
      s'.sys.col.devTokens = s.sys.col.devTokens + 1 ∧ onlyRegs s s' []) ∧
    ∀ g : GrpNo, ((grpSt s g).tokens < 16 → Claim.runs (.groupTokenRefill g) s fun s' =>
        (grpSt s' g).tokens = (grpSt s g).tokens + 1 ∧ onlyRegs s s' []) ∧
      ∀ (b : Gen) (c : CtrNo) (exp : Nat), liveGens (grpSt s g).gens = [b] → b.barrier = true →
        (grpSt s g).ctrs = [c.val] → smGet 0 s.sys.dma.expected c = exp → exp < 2 ^ 32 →
        getF s (F.SIG_ARR_ARRIVED c) ≠ exp → flag s (F.COL_GRP_CFG_REPORT_ONLY g) = false →
        Claim.runs (.realignCheck g) s fun s' =>
          getF s' (F.SIG_ARR_ARRIVED c) = exp ∧ flag s' (F.SIG_CTR_DRIFT c) = true ∧
          (∃ pay, Output.report 2 pay ∈ s'.out) ∧ Claim.otherCtrs s s' c ∧ sameMemory s s'

/-- CHUNK_SEND of a raw chunk reads it at its place in SRC and sends it to each rank that it goes to; COL_DATA writes
a raw payload at its place in DST and notes its blocks; CHUNK_COMMIT of a landed chunk commits it and raises CSIG (07
R11, R216, R221-R226, 13 R381). -/
def Obligations.ChunkMovementResult : Prop :=
  (∀ (s : State) (g : GrpNo) (gen : W32) (x : Gen) (c : Nat) (ps : List Pa),
    Claim.maySend s g gen x c → Claim.rawGen s g x → opReduces x.op = false → 1 < grpN s g →
    (Claim.chunkAt s g x c).2 ≤ 4096 →
    translateAll s (grpVi s g) none aRead (addrs (Claim.chunkAt s g x c).1 (Claim.chunkAt s g x c).2) = .ok ps →
    Claim.runs (.chunkSend g gen c) s fun s' =>
      (∃ o, s'.out = s.out ++ o ∧ ∀ r ∈ chunkTo s g x c, ∀ w, (grpSt s g).members[r]? = some w →
        ∃ h, Output.send (dataTc x) h (ps.map (paByte s)) ∈ o ∧ h.kind = 3 ∧ h.ddev = BitVec.ofNat 15 (membDev w)) ∧
      Claim.genNow s' g gen fun y => c ∈ y.sent) ∧
  (∀ (s : State) (a : Addr) (f : ColFrame) (g : GrpNo) (x : Gen) (ps : List Pa), Claim.colLands s a f g x →
    Claim.rawGen s g x → f.payload ≠ [] →
    let m := meet (chunkSpan x.op x.words f.chunk) (landSpan s g x)
    let i := (Claim.landAt s g x f).1
    m.1 ≤ i → i < m.2 → f.payload.length ≤ (m.2 - i) * etBytes (cSet x.words) →
    translateAll s (grpVi s g) none aWrite (addrs (Claim.landAt s g x f).2 f.payload.length) = .ok ps → ps.Nodup →
    Claim.runs (.colData a f) s fun s' =>
      Claim.stored s s' (ps.zip f.payload) ∧
      Claim.genNow s' g f.gen fun y => (f.chunk, f.first) ∈ y.landed ∧ y.state = .running) ∧
  ∀ (s : State) (g : GrpNo) (gen : W32) (x : Gen) (c : Nat), enginesRun s = true → findGen s g gen.toNat = some x →
    x.state = .running → opTokens x.op = false → cCount x.words ≠ 0 → chunkDone x c = false →
    (∀ p ∈ x.spill, p.1 ≠ c) → chunkLanded s g x c = true → landsChunk s g x c = true →
    Claim.runs (.chunkCommit g gen c) s fun s' =>
      (Claim.genNow s' g gen fun y => chunkDone y c = true ∧ y.aborters = []) ∧
      (∀ k, cCsigEn x.words = true → ctrOf s (grpVi s g) (cCsig x.words) = some k → k < 32768 →
        getF s' (F.SIG_ARR_ARRIVED k) = (getF s (F.SIG_ARR_ARRIVED k) + cInc x.words) % 2 ^ 32) ∧
      ∀ t, tileOf s' t = tileOf s t

/-- Groups: opening and closing them, and their members. -/
def Obligations.GroupResult : Prop :=
  Claim.GroupOpeningAndClosing ∧ Claim.GroupMembershipResult

/-- Generations: their progress and their aborts. -/
def Obligations.GenerationResult : Prop :=
  Claim.GenerationAbortResult ∧ Claim.GenerationProgressResult

namespace Sys2Proof.Claim

/-! Tarn units (08), Divide and Mere (09). -/

/-- A cell of a ledger sum of width k that a healthy unit takes: of a live generation and its attempt (08 R244). -/
def ledgerCell (s : State) (u : UnitNo) (c : TarnCell) (x : Gen) (k : Nat) : Prop :=
  enginesRun s = true ∧ unitHealthy s u = true ∧ c.contributor < 1024 ∧ tagOk s c.vi c.inc = true ∧
  grpOwner s c.ctx = some c.vi ∧ findGen s c.ctx c.gen.toNat = some x ∧ x.state ≠ .ended ∧
  x.attempt = c.attempt.toNat ∧ genRed s c.ctx x = some (.ledger k)

/-- The block of a cell before any contribution. -/
def blockOf (c : TarnCell) (x : Gen) (k : Nat) : TWin :=
  { vi := c.vi, inc := c.inc, ctx := c.ctx, gen := x.num, attempt := c.attempt.toNat, chunk := c.chunk,
    block := c.block, window := windowBlocks (.ledger k), count := c.count }

/-- The words of a block with a contribution: the first one as it is, later ones added (08 R247). -/
def ledgerSum (k : Nat) (b : TWin) (l : List Int) : List Int :=
  if b.bitmap = 0 then l else (b.sums.zip l).map fun p => ledgerAdd k p.1 p.2

/-- The block with the contribution counted. -/
def counted (k i : Nat) (b : TWin) (l : List Int) : TWin :=
  { b with bitmap := Nat.lor b.bitmap (2 ^ i), sums := ledgerSum k b l }

/-- A unit holds no block, or only this one, of which contributor i is not counted. -/
def onlyBlock (s : State) (u : UnitNo) (b0 b : TWin) (i : Nat) : Prop :=
  ((unitSt s u).blocks = [] ∧ b = b0) ∨
  ((unitSt s u).blocks = [b] ∧ sameBlock b b0 = true ∧ b.attempt = b0.attempt ∧ b.bitmap.testBit i = false ∧
    b.spilled = false)

/-- A frame of a VI or a transit flow for one die, of no mirror session, can be admitted there. -/
def noMirror (s : State) : Prop := ∀ m < 16, flag s (F.DIVIDE_MIR_CFG_EN m) = false

/-- The cells of a frame fit on a die, and none of its outputs there is down. -/
def roomFor (s : State) (f : DivFrame) (die : Nat) (l : List Nat) : Prop :=
  admits s die f.owner f.tc f.cells = true ∧ ∀ o ∈ l, outDown s o = false

/-- A frame as it stands on a die once it has been admitted. -/
def admitted (s : State) (f : DivFrame) (die : Nat) (l : List Nat) : DFrame :=
  { f, die, residue := l, unacked := [], admitted := nowNs s, landing := false }

/-- Frames of a number are none of a generation and none in transit. -/
def plainFrames (s : State) (id : Nat) : Prop :=
  ∀ d ∈ s.sys.div.frames, d.f.id = id → d.f.hdr.kind ≠ 3 ∧ isTransit d.f = false

/-- An instance of an arbiter that decides. -/
def arbReady (s : State) (i : ArbRef) : Prop :=
  live s = true ∧ arbExists i = true ∧ (arbSt s i).emergency = false

/-- Requesters of a class that are ready. -/
def readyOf (i : ArbRef) (ready : BitVec 16) : List Nat :=
  (upto (arbSlots i.cls)).filter fun q => ready.toNat.testBit q

/-- A request to Mere that its pool can grant (09 R284, R286). -/
def mereFits (s : State) (size o inc : Nat) : Prop :=
  0 < size ∧ size ≤ 65536 ∧ o < 137 ∧ mereStale s o inc = false ∧ mereGrants s o (poolOf size) = true

/-- The buffer granted. -/
def mereNew (s : State) (size o inc : Nat) : MBuf :=
  { pool := poolOf size, index := lowestFree s (poolOf size), owner := o, inc }

end Sys2Proof.Claim

/-- A contribution to a ledger sum is added word by word to its block, counted by contributor and in WORDS; with the last
one that the block counts, the block leaves as a Tarn output and its window is free. A cell of a VI that is not there is
counted as dropped (08 R244, R247, 02 R49). -/
def Obligations.TarnContributionResult : Prop :=
  (∀ (s : State) (u : UnitNo) (c : TarnCell) (x : Gen) (k : Nat) (v : Contrib) (b : TWin),
    Claim.ledgerCell s u c x k → Claim.onlyBlock s u (Claim.blockOf c x k) b c.contributor →
    readContrib (.ledger k) (tarnElems x c.chunk c.block) c.payload = some v →
    let b' := Claim.counted k c.contributor b v.words
    storesHold s [b'] = true → Claim.runs (.tarnCellArrive u c) s fun s' =>
      (blockDone b' = false → (unitSt s' u).blocks = [b'] ∧ s'.out = s.out) ∧
      (blockDone b' = true → (unitSt s' u).blocks = [] ∧ ∃ tc, s'.out = s.out ++
        [.tarnBlock u tc c.vi c.ctx b'.gen b'.attempt b'.chunk b'.block
          (Red.encode (.ledger k) { words := b'.sums })]) ∧
      getF s' (F.TARN_UNIT_WORDS_WORDS u) = (getF s (F.TARN_UNIT_WORDS_WORDS u) + v.words.length) % 2 ^ 64 ∧
      onlyRegs s s' [blkTarn]) ∧
  ∀ (s : State) (u : UnitNo) (c : TarnCell), enginesRun s = true → unitHealthy s u = true → c.contributor < 1024 →
    tagOk s c.vi c.inc = false → Claim.runs (.tarnCellArrive u c) s fun s' =>
      getF s' (F.SIG_VI_DROP_DROP (c.vi % 16)) = min (2 ^ 32 - 1) (getF s (F.SIG_VI_DROP_DROP (c.vi % 16)) + 1) ∧
      s'.sys = s.sys ∧ onlyRegs s s' [blkSig]

/-- A spilled block comes back to its unit when its store holds it; a deep sum takes its slots in the first unit that has
them; a store error fences the unit and records itself, and a second one while the record stands sets OVERLAP; EN = 0
starts a withdrawal that ends when the unit holds nothing (08 R243, R246, R250, R261). -/
def Claim.TarnUnitResult : Prop :=
  ∀ (s : State) (u : UnitNo),
    (∀ b, enginesRun s = true → (unitSt s u).blocks = [b] → b.spilled = true →
      storesHold s [{ b with spilled := false, mere := [] }] = true → Claim.runs (.tarnSpillRestore u) s fun s' =>
        (unitSt s' u).blocks = [{ b with spilled := false, mere := [] }] ∧
        s'.sys.mere = s.sys.mere.filter (fun m => !b.mere.contains (m.pool, m.index)) ∧ onlyRegs s s' []) ∧
    (∀ (g : GrpNo) (gen : W32) (x : Gen) (f64 : Bool), enginesRun s = true → findGen s g gen.toNat = some x →
      genRed s g x = some (.deep f64) → x.state = .running → deepUnit s g x.num = none →
      (unitRing s (tarnPtr s (dieOfGrp g))).find? (fun i => decide (deepUsed (unitSt s i) + deepNeed s g x ≤ 34)) =
        some u.val → Claim.runs (.deepSlotGrant g gen) s fun s' =>
          (unitSt s' u).deepSlots = (unitSt s u).deepSlots ++ [(g.val, x.num, deepNeed s g x)] ∧ onlyRegs s s' []) ∧
    (∀ code (v : ViNo) inc, live s = true → (unitSt s u).blocks = [] → (unitSt s u).deepSlots = [] →
      (flag s (F.TARN_UNIT_ERR_VALID u) = false → Claim.runs (.tarnStoreError u code v inc) s fun s' =>
        flag s' (F.TARN_UNIT_STAT_FENCED u) = true ∧ flag s' (F.TARN_UNIT_ERR_VALID u) = true ∧
        getF s' (F.TARN_UNIT_ERR_CODE u) = BitVec.toNat code ∧ getF s' (F.TARN_UNIT_ERR_VI u) = v ∧
        getF s' (F.TARN_UNIT_ERR_INC u) = BitVec.toNat inc ∧ ∀ t, tileOf s' t = tileOf s t) ∧
      (flag s (F.TARN_UNIT_ERR_VALID u) = true → Claim.runs (.tarnStoreError u code v inc) s fun s' =>
        flag s' (F.TARN_UNIT_ERR_OVERLAP u) = true ∧
        getF s' (F.TARN_UNIT_ERR_OVFCNT u) = min 65535 (getF s (F.TARN_UNIT_ERR_OVFCNT u) + 1) ∧
        getF s' (F.TARN_UNIT_ERR_CODE u) = getF s (F.TARN_UNIT_ERR_CODE u) ∧ ∀ t, tileOf s' t = tileOf s t)) ∧
    (Claim.runs (.tarnWithdraw u) s fun s' =>
      flag s' (F.TARN_UNIT_CFG_EN u) = false ∧
      (unitSt s' u).withdrawing = ((unitSt s u).withdrawing || flag s (F.TARN_UNIT_CFG_EN u)) ∧
      onlyRegs s s' [blkTarn]) ∧
    ((unitSt s u).blocks = [] → (unitSt s u).deepSlots = [] → Claim.runs (.tarnUnitDrained u) s fun s' =>
      (unitSt s' u).withdrawing = false ∧ onlyRegs s s' [])

/-- CLR makes the nine watch counts of a VI and SUM zero; a comparator's CFG is stored, and EN from 0 to 1 makes SEEN and
SPIKES zero; its REF is stored (08 R259, R261). -/
def Claim.WatchRegisterResult : Prop :=
  ∀ (s : State) (v : ViNo),
    (Claim.runs (.watchClr v) s fun s' =>
      (∀ n < 9, getF s' (F.TARN_VI_WATCH_COUNT v n) = 0) ∧ getF s' (F.TARN_VI_WATCH_SUM_SUM v) = 0 ∧
      s'.sys = s.sys ∧ s'.out = s.out ∧ onlyRegs s s' [blkTarn]) ∧
    ∀ (k : Fin 4) (val : W64),
      (Claim.runs (.cmpCfgWrite v k val) s fun s' =>
        getR s' (R.TARN_VI_CMP_CFG v k) = val.toNat % 2 ^ 43 ∧
        (flag s (F.TARN_VI_CMP_CFG_EN v k) = false → val.toNat.testBit 0 = true →
          getF s' (F.TARN_VI_CMP_STAT_SEEN v k) = 0 ∧ getF s' (F.TARN_VI_CMP_STAT_SPIKES v k) = 0) ∧
        s'.sys = s.sys ∧ s'.out = s.out ∧ onlyRegs s s' [blkTarn]) ∧
      (Claim.runs (.cmpRefWrite v k val) s fun s' =>
        getR s' (R.TARN_VI_CMP_REF v k) = val.toNat ∧ s'.sys = s.sys ∧ s'.out = s.out ∧ onlyRegs s s' [blkTarn])

/-- Tarn units, and the watch of a VI. -/
def Obligations.TarnUnitAndWatchResult : Prop :=
  Claim.TarnUnitResult ∧ Claim.WatchRegisterResult

/-- A frame for one die is admitted there with all its outputs as residue when its cells fit, is held at its source when
they do not, and is dropped and counted with a stale incarnation; a held frame that fits is admitted; the timer purges
the residue; a bad cell discards its frame and records itself (09 R265, R268, R269, R271, R273). -/
def Claim.FrameBufferResult : Prop :=
  ∀ (s : State), live s = true →
    (∀ (f : DivFrame) (die : Fin 2) (l : List Nat), Claim.noMirror s → destDies f = [(die.val, l)] →
      (frameStale s f = false → Claim.roomFor s f die l → Claim.runs (.frameAdmit f) s fun s' =>
        s'.sys.div.frames = s.sys.div.frames ++ [Claim.admitted s f die l] ∧ s'.sys.div.held = s.sys.div.held ∧
        onlyRegs s s' []) ∧
      (frameStale s f = false → admits s die f.owner f.tc f.cells = false → f.owner < 16 → 72 ≤ f.input →
        Claim.runs (.frameAdmit f) s fun s' =>
          s'.sys.div.held = s.sys.div.held ++ [{ f, dies := [(die.val, l)] }] ∧
          s'.sys.div.frames = s.sys.div.frames ∧ onlyRegs s s' []) ∧
      (frameStale s f = true → Claim.runs (.frameAdmit f) s fun s' =>
        getF s' (F.DIVIDE_DROP_STALE die) = min (2 ^ 32 - 1) (getF s (F.DIVIDE_DROP_STALE die) + f.cells) ∧
        s'.sys = s.sys ∧ onlyRegs s s' [blkDivide])) ∧
    (∀ (id : Nat) (h : HFrame) (die : Fin 2) (l : List Nat), s.sys.div.held.find? (fun x => x.f.id == id) = some h →
      h.dies = [(die.val, l)] → Claim.roomFor s h.f die l → Claim.runs (.heldFrameAdmit id) s fun s' =>
        s'.sys.div.frames = s.sys.div.frames ++ [Claim.admitted s h.f die l] ∧
        (∀ x ∈ s'.sys.div.held, x.f.id ≠ id) ∧ onlyRegs s s' []) ∧
    (∀ (id : Nat) (d : DFrame) (die : Fin 2), s.sys.div.frames.filter (fun x => x.f.id == id) = [d] → d.residue ≠ [] →
      d.unacked = [] → d.landing = false → d.die = die.val → Claim.plainFrames s id →
      Claim.runs (.frameTimerExpiry id) s fun s' =>
        (∀ x ∈ s'.sys.div.frames, x.f.id ≠ id) ∧
        getF s' (F.DIVIDE_DROP_PURGE die) = min (2 ^ 32 - 1) (getF s (F.DIVIDE_DROP_PURGE die) + d.f.cells) ∧
        onlyRegs s s' [blkDivide]) ∧
    ∀ (die : Fin 2) (id : Nat) (code : Byte), Claim.plainFrames s id →
      Claim.runs (.divideCellError die id code) s fun s' =>
        s'.sys.div.frames =
          s.sys.div.frames.filter (fun x => !(x.f.id == id && x.die == die.val && !x.landing)) ∧
        (if flag s F.DIVIDE_ERR_VALID = true then flag s' F.DIVIDE_ERR_OVERLAP = true ∧
            getF s' F.DIVIDE_ERR_OVFCNT = min 65535 (getF s F.DIVIDE_ERR_OVFCNT + 1)
         else flag s' F.DIVIDE_ERR_VALID = true ∧ getF s' F.DIVIDE_ERR_CODE = code.toNat ∧
            getF s' F.DIVIDE_ERR_DIE = die) ∧
        ∀ t, tileOf s' t = tileOf s t

/-- A decision of an arbiter grants the requester that R275 chooses and counts the others as waiting; the grant of an
engine output sends its frame; the window's end clears the forced wins; the watchdog gives the grant up and records
itself; an emergency begins and ends; a mirror session is stored (09 R264, R274-R280). -/
def Claim.ArbitrationResult : Prop :=
  (∀ (s : State) (i : ArbRef), Claim.arbReady s i →
    (∀ ready, i.cls.val ≠ 0 →
      (∀ w a, arbChoose s i.cls (arbSt s i) (Claim.readyOf i ready) = some (w, false, a) →
        Claim.runs (.arbDecide i ready) s fun s' =>
          arbSt s' i = { a with grant := some w, frame := none, wait := arbWaits w (Claim.readyOf i ready) a.wait } ∧
          onlyRegs s s' []) ∧
      (arbChoose s i.cls (arbSt s i) (Claim.readyOf i ready) = none → Claim.runs (.arbDecide i ready) s fun s' =>
        (arbSt s' i).grant = none ∧ onlyRegs s s' [])) ∧
    (∀ tc id d, i.cls.val = 0 → 72 ≤ i.inst → (arbSt s i).grant = some tc → (arbSt s i).frame = some id →
      s.sys.div.frames.find? (fun x => x.f.id == id && x.residue.contains i.inst) = some d → Claim.noMirror s →
      Claim.runs (.arbDecide i 0) s fun s' =>
        s'.out = s.out ++ [.deliver i.inst d.f] ∧ (arbSt s' i).grant = none ∧
        (∀ x ∈ s'.sys.div.frames, x.f.id = id → i.inst ∉ x.residue) ∧ onlyRegs s s' []) ∧
    (∀ q, (arbSt s i).grant = some q → q < 16 → (i.cls = 1 ∨ i.cls = 2) →
      Claim.runs (.arbWatchdog i) s fun s' =>
        (arbSt s' i).grant = none ∧ flag s' (F.DIVIDE_ARB_EVT_WD i.cls) = true ∧
        getF s' (F.DIVIDE_ARB_EVT_WDCNT i.cls) = min 65535 (getF s (F.DIVIDE_ARB_EVT_WDCNT i.cls) + 1) ∧
        getF s' (F.DIVIDE_ARB_EVT_REQ i.cls) = q ∧ getF s' (F.DIVIDE_ARB_EVT_INST i.cls) = i.inst ∧
        ∀ t, tileOf s' t = tileOf s t) ∧
    (∀ r, (r = .hbmRefresh ↔ i.cls.val = 2) → Claim.runs (.emergencyRequest i r) s fun s' =>
      arbSt s' i = { arbSt s i with emergency := true } ∧ s'.out = s.out ∧ onlyRegs s s' [])) ∧
  (∀ (s : State) (i : ArbRef), live s = true → arbExists i = true →
    (Claim.runs (.arbWindowReset i) s fun s' =>
      arbSt s' i = { arbSt s i with fw := 0, raised := false } ∧ s'.out = s.out ∧ onlyRegs s s' []) ∧
    (Claim.runs (.emergencyEnd i) s fun s' =>
      arbSt s' i = { arbSt s i with emergency := false } ∧ s'.out = s.out ∧ onlyRegs s s' [])) ∧
  ∀ (s : State) (m : Fin 16) (val : W64), Claim.runs (.mirrorEnable m val) s fun s' =>
    getR s' (R.DIVIDE_MIR_CFG m) = val.toNat - (val.toNat / 2 ^ 54 % 2) * 2 ^ 54 ∧
    (flag s (F.DIVIDE_MIR_CFG_EN m) = false → val.toNat.testBit 63 = true → smGet 0 s'.sys.div.mirCount m = 0) ∧
    s'.out = s.out ∧ onlyRegs s s' [blkDivide]

/-- A Mere request that its pool can grant takes the free buffer of lowest index of the smallest pool that fits, and any
other is answered with its code; a buffer is freed by its owner only; a frame that waits for a VI moves into a 64 KiB
buffer (09 R283-R288, 05 R159). -/
def Obligations.MereBufferResult : Prop :=
  ∀ (s : State), enginesRun s = true →
    (∀ size o inc, Claim.mereFits s size o (BitVec.toNat inc) → Claim.runs (.mereAlloc size o inc) s fun s' =>
      let b := Claim.mereNew s size o inc.toNat
      s'.sys.mere = s.sys.mere ++ [b] ∧
      s'.out = s.out ++ [.report 7 (bytesOf 1 0 ++ (bytesOf 1 b.pool ++ bytesOf 3 b.index))] ∧ onlyRegs s s' []) ∧
    (∀ size o inc code, (size = 0 ∧ code = 1) ∨ (65536 < size ∧ code = 2) ∨ (0 < size ∧ size ≤ 65536 ∧ 137 ≤ o ∧ code = 4) →
      Claim.runs (.mereAlloc size o inc) s fun s' =>
        s'.sys = s.sys ∧ s'.out = s.out ++ [.report 7 (bytesOf 1 code)] ∧ onlyRegs s s' []) ∧
    (∀ size o inc, 0 < size → size ≤ 65536 → o < 137 →
      (mereStale s o (BitVec.toNat inc) = true → Claim.runs (.mereAlloc size o inc) s fun s' =>
        getF s' F.MERE_REFUSE_STALE = min (2 ^ 32 - 1) (getF s F.MERE_REFUSE_STALE + 1) ∧
        s'.sys = s.sys ∧ s'.out = s.out ++ [.report 7 (bytesOf 1 7)] ∧ onlyRegs s s' [blkMere]) ∧
      (mereStale s o (BitVec.toNat inc) = false → mereGrants s o (poolOf size) = false →
        Claim.runs (.mereAlloc size o inc) s fun s' =>
          getF s' F.MERE_REFUSE_NOSPACE = min (2 ^ 32 - 1) (getF s F.MERE_REFUSE_NOSPACE + 1) ∧
          s'.sys = s.sys ∧ s'.out = s.out ++ [.report 7 (bytesOf 1 3)] ∧ onlyRegs s s' [blkMere])) ∧
    (∀ (p : Fin 5) index o inc, mereStale s o (BitVec.toNat inc) = false →
      (∀ b, s.sys.mere.find? (fun b => b.pool == p.val && b.index == index) = some b →
        (b.owner = o → Claim.runs (.mereFree p index o inc) s fun s' =>
          s'.sys.mere = s.sys.mere.filter (fun b => !(b.pool == p.val && b.index == index)) ∧
          s'.out = s.out ++ [.report 7 (bytesOf 1 0)] ∧ onlyRegs s s' []) ∧
        (b.owner ≠ o → flag s F.MERE_ERR_VALID = false → Claim.runs (.mereFree p index o inc) s fun s' =>
          s'.sys.mere = s.sys.mere ∧ flag s' F.MERE_ERR_VALID = true ∧ getF s' F.MERE_ERR_CODE = 6 ∧
          getF s' F.MERE_ERR_POOL = p ∧ ∀ t, tileOf s' t = tileOf s t)) ∧
      ((∀ b ∈ s.sys.mere, ¬ (b.pool = p.val ∧ b.index = index)) → flag s F.MERE_ERR_VALID = false →
        Claim.runs (.mereFree p index o inc) s fun s' =>
          s'.sys.mere = s.sys.mere ∧ flag s' F.MERE_ERR_VALID = true ∧ getF s' F.MERE_ERR_CODE = 5 ∧
          ∀ t, tileOf s' t = tileOf s t)) ∧
    ∀ (v : ViNo) (tc : Fin 8) (d : DFrame),
      s.sys.div.frames.filter (fun x => x.landing && x.f.owner == v.val && x.f.tc == tc) = [d] →
      mereStale s (mereOwner v tc) d.f.inc.toNat = false → mereGrants s (mereOwner v tc) 4 = true →
      Claim.runs (.spillAdmit v tc) s fun s' =>
        s'.sys.mere = s.sys.mere ++ [Claim.mereNew s 65536 (mereOwner v tc) d.f.inc.toNat] ∧
        s'.sys.div.frames = s.sys.div.frames.erase d ∧ onlyRegs s s' []

/-- Divide: its buffers and its arbiters. -/
def Obligations.DivideResult : Prop :=
  Claim.FrameBufferResult ∧ Claim.ArbitrationResult

namespace Sys2Proof.Claim

/-! Ports (10). -/

/-- No frame is held for an output, and none of an edge port's path is unacknowledged. -/
def quiet (s : State) (p : PhyPort) : Prop :=
  s.sys.div.frames = [] ∧ ∀ e, p = .edge e → (metroSt s e).sent = []

/-- A port is in a state, and, with no frame to purge, nothing but registers of ports has changed. -/
def portNow (s s' : State) (p : PhyPort) (st : Nat) : Prop :=
  ppState s' p = st ∧ (quiet s p → onlyRegs s s' [blkPort, blkEdge])

/-- A command of a port is refused: CMDERR, and nothing else. -/
def portErr (s s' : State) (p : PhyPort) : Prop :=
  (match p with
   | .hyora q => flag s' (F.PORT_STAT_CMDERR q) = true
   | .edge e => flag s' (F.EDGE_STAT_CMDERR e) = true) ∧
  ppState s' p = ppState s p ∧ s'.sys = s.sys ∧ s'.out = s.out ∧ onlyRegs s s' [blkPort, blkEdge]

/-- RETRAINS of a port. -/
def retrains (s : State) : PhyPort → Nat
  | .hyora p => getF s (F.PORT_STAT_RETRAINS p)
  | .edge e => getF s (F.EDGE_STAT_RETRAINS e)

/-- A port waits for its PLL with a command held. -/
def holds (s' : State) (p : PhyPort) (c : Nat) : Prop := ppState s' p = psPendingCal ∧ ppHeld s' p = some c

/-- A lane receives: its port is UP or TRAINING, and the lane is mapped. -/
def laneHears (s : State) (p : PortNo) (l : LaneNo) : Prop :=
  live s = true ∧ (portPs s p = psUp ∨ portPs s p = psTraining) ∧ laneMap s p l ≠ 255

/-- A valid lane message of a TYPE reaches a port in a state. -/
def laneGets (s : State) (p : PortNo) (m : LaneMsg) (type st : Nat) : Prop :=
  live s = true ∧ laneMsgOk m type = true ∧ portPs s p = st

/-- The set of lanes in LANES and WIDTH, and the lane of the other messages (10 R298). -/
def msgSet (m : LaneMsg) : Nat := wf m 11 8
def msgLane (m : LaneMsg) : Nat := wf m 9 8

/-- Every lane of a port may be active. -/
def lanesFree (s : State) (p : PortNo) : Prop :=
  ∀ l < 4, laneUsable s p l = true ∧ (laneSt s p l).held = false ∧ (laneSt s p l).swapping = false

/-- A port trains until both sets have width 2 (10 R305). -/
def trained (tx rx : Nat) : Nat := if 2 ≤ widthOf tx ∧ 2 ≤ widthOf rx then psUp else psTraining

end Sys2Proof.Claim

/-- UP, RETRAIN and TEST are accepted in their states only: with the PLL in lock they lead to TRAINING and TEST, without
it the port is PENDING_CAL and holds the command, which a later one replaces; DOWN leads to DOWN from every state but OFF
and FAILED_LOCK; RELOCK leaves FAILED_LOCK (10 R302, R303, R473). -/
def Claim.PortCommandResult : Prop :=
  ∀ (s : State) (p : PhyPort), live s = true →
    (∀ c ∈ [(Instr.up p, 1, [psOff, psDown], psTraining), (Instr.retrain p, 3, [psUp], psTraining),
        (Instr.test p, 4, [psDown], psTest)],
      (ppState s p ∈ c.2.2.1 → pllState s (pllOf p) = 2 → Claim.runs c.1 s fun s' => ppState s' p = c.2.2.2) ∧
      (ppState s p ∈ c.2.2.1 → pllState s (pllOf p) ≠ 2 → Claim.runs c.1 s fun s' =>
        Claim.holds s' p c.2.1 ∧ Claim.portNow s s' p psPendingCal) ∧
      (ppState s p = psPendingCal → Claim.runs c.1 s fun s' =>
        Claim.holds s' p c.2.1 ∧ Claim.portNow s s' p psPendingCal) ∧
      (ppState s p ∉ c.2.2.1 → ppState s p ≠ psPendingCal → Claim.runs c.1 s fun s' => Claim.portErr s s' p)) ∧
    (ppState s p = psUp → pllState s (pllOf p) = 2 → Claim.runs (.retrain p) s fun s' =>
      Claim.retrains s' p = min 255 (Claim.retrains s p + 1)) ∧
    (ppState s p ≠ psOff → ppState s p ≠ psFailedLock → Claim.runs (.down p) s fun s' =>
      Claim.portNow s s' p psDown ∧ ppHeld s' p = none) ∧
    (ppState s p = psFailedLock → Claim.runs (.down p) s fun s' => Claim.portNow s s' p psFailedLock) ∧
    (ppState s p = psOff → Claim.runs (.down p) s fun s' => Claim.portErr s s' p) ∧
    (ppState s p = psFailedLock → Claim.runs (.relock p) s fun s' =>
      Claim.holds s' p 1 ∧ pllState s' (pllOf p) = 1) ∧
    (ppState s p ≠ psFailedLock → Claim.runs (.relock p) s fun s' => Claim.portErr s s' p)

/-- A PLL that locks lets each waiting port run its held UP; one that does not lock takes its ports to FAILED_LOCK; one
that loses lock settles again, and its UP ports wait for it. TRAIN_RETRY counts and trains again (10 R303-R305). -/
def Claim.PllAndTrainingResult : Prop :=
  (∀ (s : State) (l : Pll), live s = true →
    (pllState s l = 1 → Claim.runs (.pllLocked l) s fun s' =>
      pllState s' l = 2 ∧ ∀ p ∈ pllPorts l, Claim.holds s p 1 → ppState s' p = psTraining ∧ ppHeld s' p = none) ∧
    (pllState s l = 1 → Claim.runs (.pllLockTimeout l) s fun s' =>
      pllState s' l = 3 ∧ ∀ p ∈ pllPorts l, ppState s' p = psFailedLock ∧ ppHeld s' p = none) ∧
    (pllState s l = 2 → Claim.runs (.pllLockLoss l) s fun s' =>
      pllState s' l = 1 ∧ ∀ p ∈ pllPorts l, ppState s p = psUp → Claim.holds s' p 1)) ∧
  ∀ (s : State) (p : PhyPort), live s = true → ppState s p = psTraining →
    Claim.runs (.trainRetry p) s fun s' =>
      ppState s' p = psTraining ∧ Claim.retrains s' p = min 255 (Claim.retrains s p + 1)

/-- A lane locks to codewords with the fourth mark in a row, and to blocks with 64 valid headers, and counts the symbols
it corrects and the codewords it cannot. A lane not in lock at its timeout takes a spare if one is free. A window with
few errors clears its counts, one with many degrades the lane, and so does an alarm (10 R295-R299, R305, R306). -/
def Claim.LaneReceiveResult : Prop :=
  (∀ (s : State) (p : PortNo) (l : LaneNo) (cw : Codeword), Claim.laneHears s p l →
    let h := laneSt s p l
    (flag s (F.PORT_LANE_STAT_CW p l) = false → Claim.runs (.codewordReceive p l cw) s fun s' =>
      (cw.mark ≠ 0xA5C3 → (laneSt s' p l).markRun = 0 ∧ flag s' (F.PORT_LANE_STAT_CW p l) = false) ∧
      (cw.mark = 0xA5C3 → flag s' (F.PORT_LANE_STAT_CW p l) = decide (3 ≤ h.markRun) ∧
        (laneSt s' p l).markRun = h.markRun + 1) ∧ s'.out = s.out ∧ onlyRegs s s' [blkPort]) ∧
    (flag s (F.PORT_LANE_STAT_CW p l) = true → flag s (F.PORT_LANE_STAT_BLK p l) = false → cw.mark = 0xA5C3 →
      (15 < cw.symErrors → h.hdrRun < 64 → Claim.runs (.codewordReceive p l cw) s fun s' =>
        getF s' (F.PORT_LANE_STAT_UNCORR p l) = min (fieldMax (F.PORT_LANE_STAT_UNCORR p l))
          (getF s (F.PORT_LANE_STAT_UNCORR p l) + 1) ∧ flag s' (F.PORT_LANE_STAT_BLK p l) = false) ∧
      (cw.symErrors ≤ 15 → Claim.runs (.codewordReceive p l cw) s fun s' =>
        getF s' (F.PORT_LANE_STAT_CORR p l) = min (fieldMax (F.PORT_LANE_STAT_CORR p l))
          (getF s (F.PORT_LANE_STAT_CORR p l) + cw.symErrors) ∧
        flag s' (F.PORT_LANE_STAT_BLK p l) = decide (64 ≤ hdrRunOf h.hdrRun cw.blocks)))) ∧
  ∀ (s : State) (p : PortNo) (l : LaneNo), live s = true →
    (∀ x, portPs s p = psTraining → flag s (F.PORT_LANE_STAT_BLK p l) = false → laneUsable s p l = true →
      freeSpare s (p / 8) = some x → Claim.runs (.laneTrainTimeout p l) s fun s' =>
        laneMap s' p l = x ∧ flag s' (F.PORT_LANE_STAT_FENCED p l) = true ∧ ∀ t, tileOf s' t = tileOf s t) ∧
    (Claim.runs (.symbolWindowExpiry p l) s fun s' =>
      (laneSt s' p l).symbols = 0 ∧ (laneSt s' p l).uncWin = 0 ∧
      ((laneSt s p l).symbols ≤ getF s (F.PORT_SWAP_THR_SWAPTHR p) → (laneSt s p l).uncWin < 4 →
        s'.out = s.out ∧ onlyRegs s s' []) ∧
      (portPs s p = psUp → 4 ≤ (laneSt s p l).uncWin → flag s' (F.PORT_LANE_STAT_DEGR p l) = true)) ∧
    ∀ on, Claim.runs (.opticalAlarm p l on) s fun s' =>
      flag s' (F.PORT_LANE_STAT_ALARM p l) = on ∧
      (on = true → portPs s p = psUp → flag s' (F.PORT_LANE_STAT_DEGR p l) = true) ∧
      (on = false → s'.sys = s.sys ∧ s'.out = s.out ∧ onlyRegs s s' [blkPort])

/-- LANES and WIDTH set the transmit and the receive set of a training port, which is UP with both of width 2; in UP a
WIDTH waits for its SEQ. A change takes effect at its SEQ. NARROW_REQ takes the lane out of the transmit set, SWAP_REQ
takes a spare or answers SWAP_NAK, SWAP_NAK removes the lane, BYE takes the port DOWN (10 R305-R309, R473). -/
def Claim.LaneMessageResult : Prop :=
  ∀ (s : State) (p : PortNo) (m : LaneMsg),
    (Claim.laneGets s p m 1 psTraining → Claim.lanesFree s p → Claim.runs (.lanes p m) s fun s' =>
      getF s' (F.PORT_STAT_TXSET p) = Claim.msgSet m ∧
      portPs s' p = Claim.trained (Claim.msgSet m) (getF s (F.PORT_STAT_RXSET p)) ∧
      (portSt s' p).farLock = Claim.msgSet m) ∧
    (Claim.laneGets s p m 2 psTraining → Claim.runs (.width p m) s fun s' =>
      getF s' (F.PORT_STAT_RXSET p) = Claim.msgSet m ∧
      portPs s' p = Claim.trained (getF s (F.PORT_STAT_TXSET p)) (Claim.msgSet m)) ∧
    (Claim.laneGets s p m 2 psUp → Claim.runs (.width p m) s fun s' =>
      (portSt s' p).rxNext = some (Claim.msgSet m, wf m 23 16) ∧ s'.out = s.out ∧ onlyRegs s s' []) ∧
    (Claim.laneGets s p m 3 psUp → Claim.runs (.narrowReq p m) s fun s' =>
      (laneSt s' p (Claim.msgLane m)).swapping = true ∧
      txTarget s' p = without (txTarget s p) (Claim.msgLane m) ∧ onlyRegs s s' []) ∧
    (Claim.laneGets s p m 4 psUp → laneMap s p (Claim.msgLane m) ≠ 255 →
      (∀ x, freeSpare s (p / 8) = some x → Claim.runs (.swapReq p m) s fun s' =>
        laneMap s' p (Claim.msgLane m) = x ∧ ∀ t, tileOf s' t = tileOf s t) ∧
      (freeSpare s (p / 8) = none → Claim.runs (.swapReq p m) s fun s' =>
        s'.out = s.out ++ [.laneMsg p (laneMsg 5 (Claim.msgLane m * 256))] ∧ onlyRegs s s' [])) ∧
    (Claim.laneGets s p m 5 psUp → (laneSt s p (Claim.msgLane m)).farSwap = true →
      (portSt s p).swapQueue = [Claim.msgLane m] → Claim.runs (.swapNak p m) s fun s' =>
        laneMap s' p (Claim.msgLane m) = 255 ∧ (laneSt s' p (Claim.msgLane m)).failed = true ∧
        (portSt s' p).swapQueue = []) ∧
    ((Claim.laneGets s p m 6 psUp ∨ Claim.laneGets s p m 6 psTraining) → Claim.runs (.bye p m) s fun s' =>
      Claim.portNow s s' (.hyora p) psDown ∧ getF s' (F.PORT_STAT_TXSET p) = 0) ∧
    ∀ set (seq : Byte), live s = true → portPs s p = psUp → (portSt s p).txNext = some (set, seq.toNat) →
      (portSt s p).rxNext = none → (portSt s p).swapQueue = [] → set < 16 → 2 ≤ widthOf set →
      2 ≤ widthOf (getF s (F.PORT_STAT_RXSET p)) → Claim.runs (.widthChangeEffect p seq) s fun s' =>
        getF s' (F.PORT_STAT_TXSET p) = set ∧ (portSt s' p).txNext = none ∧ portPs s' p = psUp ∧
        s'.out = s.out ∧ onlyRegs s s' [blkPort]

/-- A write of the PRBS control is stored without its low 21 bits, and a rise of its check bit clears the counts; in TEST
it injects one error, as the periodic injection does; the checker takes its bits; the FEC injection counts and injects
(10 R310-R313). -/
def Obligations.PrbsAndInjectionResult : Prop :=
  (∀ (s : State) (p : PhyPort), live s = true →
    (∀ val : W64, ∀ c ∈ [Instr.prbsCheckStart p val, Instr.prbsInjectSingle p val], Claim.runs c s fun s' =>
      getR s' (prbsCtl p) = val.toNat % 2 ^ 63 / 2 ^ 21 * 2 ^ 21 ∧
      ((getR s (prbsCtl p)).testBit 30 = false → val.toNat.testBit 30 = true →
        getR s' (prbsBitsReg p) = 0 ∧ ∀ l < 4, getR s' (prbsErr p l) = 0) ∧
      s'.out = s.out ++ (if ppState s p = psTest ∧ val.toNat.testBit 31 = true ∧ wf val 29 28 = 1 then
        [.inject (ppNum p) (wf val 22 21) 1] else []) ∧ onlyRegs s s' [blkPort, blkEdge]) ∧
    (let c := getR s (prbsCtl p)
     ppState s p = psTest → c.testBit 31 = true → bits c 29 28 = 2 → Claim.runs (.prbsInjectPeriodic p) s fun s' =>
      s'.out = s.out ++ [.inject (ppNum p) (bits c 22 21) 1] ∧ s'.sys = s.sys ∧ onlyRegs s s' []) ∧
    ∀ (l : LaneNo) (bs : List Bool), ppState s p = psTest → (getR s (prbsCtl p)).testBit 30 = true →
      Claim.runs (.prbsSync p l bs) s fun s' =>
        let e := getR s (prbsErr p l)
        let c := bs.foldl checkBit { h := ppLane s p l, sync := e.testBit 63, errors := bits e 47 0 }
        ppLane s' p l = c.h ∧ getR s' (prbsErr p l) = b2n c.sync * 2 ^ 63 + min (2 ^ 48 - 1) c.errors ∧
        s'.out = s.out ∧ onlyRegs s s' [blkPort, blkEdge]) ∧
  ∀ (s : State) (p : PortNo) (l : LaneNo), live s = true → portPs s p = psUp →
    flag s (F.PORT_FEC_INJ_EN p) = true → getF s (F.PORT_FEC_INJ_LANE p) = l →
    Claim.runs (.fecInject p l) s fun s' =>
      s'.out = s.out ++ [.inject p l (getF s (F.PORT_FEC_INJ_NSYM p))] ∧
      getF s' (F.PORT_FEC_INJ_INJCNT p) =
        min (fieldMax (F.PORT_FEC_INJ_INJCNT p)) (getF s (F.PORT_FEC_INJ_INJCNT p) + getF s (F.PORT_FEC_INJ_NSYM p)) ∧
      s'.sys = s.sys ∧ onlyRegs s s' [blkPort]

/-- A module is present, ready and gone as its events say; with AUTOUP a ready module brings the port up, a removed one
takes it DOWN; an edge port in lock is UP, and a metro or storage path then probes; a frame with a bad FCS, and one of
another EtherType, are counted (10 R314-R316, 11 R342). -/
def Obligations.EdgePortResult : Prop :=
  ∀ (s : State) (e : EdgeNo), live s = true →
    (Claim.runs (.moduleInsert e) s fun s' =>
      flag s' (F.EDGE_STAT_MODPRES e) = true ∧ s'.out = s.out ∧ onlyRegs s s' [blkEdge]) ∧
    (flag s (F.EDGE_STAT_MODPRES e) = true → Claim.runs (.moduleReady e) s fun s' =>
      flag s' (F.EDGE_STAT_MODREADY e) = true ∧
      (flag s (F.EDGE_CTL_AUTOUP e) = true → edgePs s e = psDown → pllState s (.edge e) = 2 →
        edgePs s' e = psTraining) ∧
      (flag s (F.EDGE_CTL_AUTOUP e) = false → s'.sys = s.sys ∧ onlyRegs s s' [blkEdge])) ∧
    (edgePs s e ≠ psOff → edgePs s e ≠ psFailedLock → Claim.runs (.moduleRemove e) s fun s' =>
      flag s' (F.EDGE_STAT_MODPRES e) = false ∧ flag s' (F.EDGE_STAT_MODREADY e) = false ∧
      Claim.portNow s s' (.edge e) psDown) ∧
    (edgePs s e = psTraining → edgeMode s e ≠ 0 → Claim.runs (.edgePortLock e) s fun s' =>
      Claim.portNow s s' (.edge e) psUp ∧
      pathSt s' e = (if edgeMode s e = 1 ∨ edgeMode s e = 2 then paProbing else paDown)) ∧
    ∀ f : EthFrame, edgePs s e = psUp → edgeMode s e ≠ 0 →
      (f.fcsOk = false → Claim.runs (.edgeFrameReceive e f) s fun s' =>
        getF s' (F.EDGE_CNT_FCSERR e) = min (fieldMax (F.EDGE_CNT_FCSERR e)) (getF s (F.EDGE_CNT_FCSERR e) + 1) ∧
        s'.sys = s.sys ∧ s'.out = s.out ∧ onlyRegs s s' [blkEdge]) ∧
      (f.fcsOk = true → f.len ≤ 9216 → f.pause = false → edgeMode s e ≠ 3 → f.pfc = none → f.etherType ≠ 0x88B5 →
        Claim.runs (.edgeFrameReceive e f) s fun s' =>
          getF s' (F.EDGE_CNT_BADTYPE e) = min (fieldMax (F.EDGE_CNT_BADTYPE e)) (getF s (F.EDGE_CNT_BADTYPE e) + 1) ∧
          s'.sys = s.sys ∧ s'.out = s.out ∧ onlyRegs s s' [blkEdge])

/-- Port commands, PLLs and training. -/
def Obligations.PortTrainingResult : Prop :=
  Claim.PortCommandResult ∧ Claim.PllAndTrainingResult

/-- Lanes: what their receivers do, and the messages on them. -/
def Obligations.LaneResult : Prop :=
  Claim.LaneReceiveResult ∧ Claim.LaneMessageResult

namespace Sys2Proof.Claim

/-! Links, topology and metro spans (11). -/

/-- A port is UP. -/
def portUp (s : State) (p : PortNo) : Prop := live s = true ∧ portPs s p = psUp

/-- A port is UP and its link carries frames. -/
def linkUp (s : State) (p : PortNo) : Prop := portUp s p ∧ linkFrames s p = true

/-- Link messages have been sent, by their first bytes. -/
def linkSends (s s' : State) (p : PortNo) (msgs : List Byte) : Prop :=
  ∃ bs : List (List Byte), s'.out = s.out ++ bs.map (Output.linkMsg p) ∧ bs.map (·.head?) = msgs.map some

/-- A good link message of a number arrives (11 R322). -/
def msgGets (s : State) (p : PortNo) (m : LinkMsg) (k : Nat) : Prop :=
  live s = true ∧ linkMsgs s p = true ∧ m.errored = false ∧ m.bytes.length = 64 ∧ crc32c m.bytes = m.crc.toNat ∧
  msgNum m 0 1 = k

/-- ACKSEQ acknowledges a frame (11 R328). -/
def covered (ackseq : Nat) (x : Sent) : Prop :=
  1 ≤ (ackseq + 65536 - x.seq) % 65536 ∧ (ackseq + 65536 - x.seq) % 65536 < 32768

/-- The frames sent that ACKSEQ leaves. -/
def leaves_ (s s' : State) (p : PortNo) (ackseq : Nat) : Prop :=
  ∀ x, x ∈ (linkSt s' p).sent ↔ x ∈ (linkSt s p).sent ∧ ¬ covered ackseq x

/-- A link carries a class of frames that it receives. -/
def linkHears (s : State) (p : PortNo) (f : LinkFrame) : Prop :=
  portUp s p ∧ linkCarries s p f.tc = true

/-- The frame of an input as it goes on to port q. -/
def onward (s : State) (p q : Nat) (f : LinkFrame) : DivFrame := portFrame p q (2 ^ 64 + s.sys.div.nextId) f

/-- REPLAYMAX. -/
def replayMax (s : State) (p : PortNo) : Nat := max 1 (getF s (F.PORT_LINK_CFG_REPLAYMAX p))

/-- A metro frame of the configured path and version reaches an edge port in metro or storage mode. -/
def metroGets (s : State) (e : EdgeNo) (m : MetroHdr) : Prop :=
  live s = true ∧ edgePs s e = psUp ∧ (edgeMode s e = 1 ∨ edgeMode s e = 2) ∧ m.version = 1 ∧
  m.path.toNat = getF s (F.EDGE_METRO_PEER_PATH e)

/-- A metro frame of a TYPE has been sent. -/
def metroSends (s s' : State) (e : EdgeNo) (type : Nat) : Prop :=
  ∃ psn b, s'.out = s.out ++ [.metro e type psn b]

/-- The frame of a path as it goes on to port q. -/
def pathOnward (s : State) (e : EdgeNo) (q : Nat) (f : DivFrame) : DivFrame :=
  { f with id := 2 ^ 64 + s.sys.div.nextId, input := 64 + e, owner := creditOwner f.tc, inc := 0, dests := [q],
           flow := .transit (64 + e) }

/-- CUM acknowledges a frame (11 R344). -/
def pathCovered (cum : Nat) (x : MSent) : Prop :=
  1 ≤ (cum + 2 ^ 32 - x.psn) % 2 ^ 32 ∧ (cum + 2 ^ 32 - x.psn) % 2 ^ 32 < 2 ^ 31

/-- The image at the candidate base. -/
def candidate (s : State) : List Byte := hbmRead s (getF s F.GLOBAL_TOPO_CAND_BASE * 4096) mapSize

/-- A map may be published: it is the next epoch, or none is active (11 R339). -/
def publishable (s : State) (img : List Byte) : Prop :=
  s.sys.topo.swept = some img ∧ (flag s F.GLOBAL_TOPO_ACT_VALID = false ∨ imgEpoch img = (selfEpoch s + 1) % 65536)

/-- A map is the active one. -/
def activeMap (s' : State) (img : List Byte) : Prop :=
  s'.sys.topo.active = some img ∧ selfDev s' = imgSelf img % 32768 ∧ selfEpoch s' = imgEpoch img % 65536 ∧
  flag s' F.GLOBAL_TOPO_ACT_VALID = true

end Sys2Proof.Claim

/-- An errored frame is dropped with its cells freed and a NAK; the frame in order goes on to its output and is
acknowledged; one behind a gap is held under SACK with a NAK; ACK, NAK and the timeout free, and replay, what they name;
at REPLAYMAX the port trains again; CRED and its returns carry the credits (11 R320, R327-R332). -/
def Claim.LinkFrameResult : Prop :=
  (∀ (s : State) (p : PortNo) (f : LinkFrame), Claim.linkHears s p f →
    (frameErrored f = true → (linkSt s p).nakFor = none → Claim.runs (.linkFrameReceive p f) s fun s' =>
      smGet 0 (linkSt s' p).freedC f.tc = smGet 0 (linkSt s p).freedC f.tc + f.cells ∧
      s'.out = s.out ++ [.linkAck p (linkSt s p).expect true (smapOf s p)] ∧ onlyRegs s s' []) ∧
    (∀ (q : Nat) (die : Fin 2), frameErrored f = false → f.seq.toNat = (linkSt s p).expect → (linkSt s p).ahead = [] →
      kindClass f.hdr.kind.toNat f.tc = true → route s f.hdr.sdev.toNat f.hdr.ddev.toNat f.tc = .port q → q ≠ p.val →
      Claim.noMirror s → destDies (Claim.onward s p q f) = [(die.val, [q])] →
      Claim.roomFor s (Claim.onward s p q f) die [q] → Claim.runs (.linkFrameReceive p f) s fun s' =>
        s'.sys.div.frames = s.sys.div.frames ++ [Claim.admitted s (Claim.onward s p q f) die [q]] ∧
        (linkSt s' p).expect = ((linkSt s p).expect + 1) % 65536 ∧
        s'.out = s.out ++ [.linkAck p (((linkSt s p).expect + 1) % 65536) false 0] ∧ onlyRegs s s' []) ∧
    (let d := (f.seq.toNat + 65536 - (linkSt s p).expect) % 65536
     frameErrored f = false → 0 < d → d ≤ 32 → flag s (F.PORT_LINK_STAT_SACKON p) = true →
      (∀ x ∈ (linkSt s p).ahead, x.seq ≠ f.seq) → (linkSt s p).nakFor = none →
      Claim.runs (.linkFrameReceive p f) s fun s' =>
        (linkSt s' p).ahead = (linkSt s p).ahead ++ [f] ∧
        s'.out = s.out ++ [.linkAck p (linkSt s p).expect true (smapOf s' p)] ∧ onlyRegs s s' [])) ∧
  (∀ (s : State) (p : PortNo) (body : BitVec 56), Claim.linkUp s p →
    (bits body.toNat 55 49 = 0 → body.toNat.testBit 16 = false → Claim.runs (.ack p body) s fun s' =>
      Claim.leaves_ s s' p (bits body.toNat 15 0) ∧ s'.out = s.out ∧ onlyRegs s s' []) ∧
    (bits body.toNat 55 49 = 0 → body.toNat.testBit 16 = true →
      (∀ x ∈ (linkSt s p).sent, Claim.covered (bits body.toNat 15 0) x) → Claim.runs (.nak p body) s fun s' =>
        (linkSt s' p).sent = [] ∧
        getF s' (F.PORT_LINK_CNT_NAKS p) = min 65535 (getF s (F.PORT_LINK_CNT_NAKS p) + 1) ∧
        s'.out = s.out ∧ onlyRegs s s' [blkPort]) ∧
    (bits body.toNat 55 27 = 0 → Claim.runs (.cred p body) s fun s' =>
      smGet 0 (linkSt s' p).retC (bits body.toNat 2 0) = bits body.toNat 26 3 ∧ s'.out = s.out ∧ onlyRegs s s' []) ∧
    ((linkSt s p).seen = true → Claim.runs (.ackRepeat p) s fun s' =>
      s'.out = s.out ++ [.linkAck p (linkSt s p).expect false (smapOf s p)] ∧ s'.sys = s.sys ∧ onlyRegs s s' []) ∧
    ∀ tc : Fin 8, let n := smGet 0 (linkSt s p).freedC tc
      (0 < n → Claim.runs (.credReturn p tc) s fun s' =>
        let total := (smGet 0 (linkSt s p).totalC tc + n) % 2 ^ 24
        smGet 0 (linkSt s' p).totalC tc = total ∧ smGet 0 (linkSt s' p).freedC tc = 0 ∧
        s'.out = s.out ++ [.linkCred p tc total] ∧ onlyRegs s s' []) ∧
      (let t := smGet 0 (linkSt s p).changedC tc
       0 < t → nowNs s + 1 ≤ t + 10000 → Claim.runs (.credRepeat p tc) s fun s' =>
        s'.out = s.out ++ [.linkCred p tc (smGet 0 (linkSt s p).totalC tc)] ∧ s'.sys = s.sys ∧ onlyRegs s s' [])) ∧
  ∀ (s : State) (p : PortNo) (x : Sent), Claim.portUp s p → (linkSt s p).sent = [x] →
    (∀ d, (linkSt s p).replays < Claim.replayMax s p →
      s.sys.div.frames.find? (fun d => d.f.id == x.id && d.unacked.contains p) = some d →
      creditFor s p x.tc x.cells = true → Claim.runs (.replayTimeout p) s fun s' =>
        s'.out.getLast? = some (.linkFrame p x.seq x.tc (outHdr s p d.f) d.f.payload) ∧
        (linkSt s' p).replays = (linkSt s p).replays + 1 ∧
        getF s' (F.PORT_LINK_CNT_TIMEOUTS p) = min 65535 (getF s (F.PORT_LINK_CNT_TIMEOUTS p) + 1) ∧
        ∀ t, tileOf s' t = tileOf s t) ∧
    (Claim.replayMax s p ≤ (linkSt s p).replays → pllState s (pllOf (.hyora p)) = 2 →
      Claim.runs (.replayTimeout p) s fun s' =>
        flag s' (F.PORT_LINK_STAT_REPLIM p) = true ∧ portPs s' p = psTraining ∧
        getF s' (F.PORT_LINK_CNT_RETRAINS p) = min 65535 (getF s (F.PORT_LINK_CNT_RETRAINS p) + 1))

/-- CAP of the same major version takes a link from CAPEX to IDENT with the peer's credits, and of another to NEGFAIL; a
waiting link sends CAP, and IDENT with three probes; IDENT leaves the neighbour in the registers and, where the link
waits for it, the state that the map gives it; a probe is answered, and the third reply sets RTT (11 R322-R326). -/
def Claim.LinkMessageResult : Prop :=
  ∀ (s : State) (p : PortNo) (m : LinkMsg),
    (Claim.msgGets s p m 1 → portLs s p = lsCapex → msgNum m 4 2 ∈ (linkSt s p).nonces →
      (msgNum m 8 1 ≠ Config.linkMajor % 256 → Claim.runs (.cap p m) s fun s' =>
        portLs s' p = lsNegFail ∧ getF s' (F.PORT_LINK_STAT_PMAJOR p) = msgNum m 8 1) ∧
      (msgNum m 8 1 = Config.linkMajor % 256 → Claim.runs (.cap p m) s fun s' =>
        portLs s' p = lsIdent ∧ getF s' (F.PORT_LINK_STAT_PMAJOR p) = msgNum m 8 1 ∧
        (∀ c < 8, getF s' (F.PORT_LINK_CRED_PEER p c) = msgNum m (12 + 4 * c) 3) ∧
        flag s' (F.PORT_LINK_STAT_SACKON p) = ((msgNum m 10 2).testBit 0 && flag s (F.PORT_LINK_CFG_SACK p)) ∧
        (s.sys.div.frames = [] → s'.out = s.out ∧ onlyRegs s s' [blkPort]))) ∧
    (Claim.portUp s p → portLs s p = lsCapex → Claim.runs (.capTimer p) s fun s' =>
      Claim.linkSends s s' p [1] ∧ onlyRegs s s' []) ∧
    (Claim.portUp s p → portLs s p = lsIdent → Claim.runs (.identTimer p) s fun s' =>
      Claim.linkSends s s' p [2, 3, 3, 3] ∧ onlyRegs s s' []) ∧
    (Claim.msgGets s p m 2 → msgNum m 4 2 ∈ (linkSt s p).nonces → portLs s p ≠ lsCapex → portLs s p ≠ lsNegFail →
      Claim.runs (.ident p m) s fun s' =>
        getF s' (F.PORT_LINK_NBR_PDEV p) = msgNum m 8 2 % 32768 ∧ getF s' (F.PORT_LINK_NBR_PPORT p) = msgNum m 10 1 % 64 ∧
        getF s' (F.PORT_LINK_NBR_PEPOCH p) = msgNum m 12 2 ∧ getR s' (R.PORT_LINK_SER p) = msgNum m 16 8 ∧
        (linkSt s' p).identFresh = true ∧ (portLs s p = lsIdent → portLs s' p = (identState s' p).1)) ∧
    (∀ turnaround, Claim.msgGets s p m 3 → Claim.runs (.probe p m turnaround) s fun s' =>
      Claim.linkSends s s' p [4] ∧ (linkSt s' p).peerNonce = msgNum m 2 2 ∧ onlyRegs s s' []) ∧
    (let l := rttOf (nowNs s) (msgNum m 8 8) (msgNum m 16 8) :: (linkSt s p).rtts
     Claim.msgGets s p m 4 →
      (l.length < 3 → Claim.runs (.probeReply p m) s fun s' =>
        (linkSt s' p).rtts = l ∧ s'.out = s.out ∧ onlyRegs s s' []) ∧
      (3 ≤ l.length → Claim.runs (.probeReply p m) s fun s' =>
        getF s' (F.PORT_LINK_RTT_RTT p) = l.foldl min (2 ^ 32 - 1) ∧ (linkSt s' p).rtts = [] ∧
        s'.out = s.out ∧ onlyRegs s s' [blkPort]))

/-- SWEEP counts, and is RUNNING with the candidate image or BADMAP; at the reply timeout a device reports STALE or
CLEAN; the leader collects reports; ABANDON ends a sweep. PUBLISH activates the swept map at T_act, at once or armed.
DRAIN is set, and DRAINED with nothing left (11 R334-R340, R348). -/
def Obligations.TopologyResult : Prop :=
  (∀ s : State, live s = true →
    (∀ c : Instr, c = .sweep ∨ (c = .leaderResweep ∧ flag s F.GLOBAL_TOPO_SWEEP_LEADER = true ∧
        s.sys.topo.staleAt.isSome = true) → Claim.runs c s fun s' =>
      getF s' F.GLOBAL_TOPO_SWEEP_SWEEPS = min 65535 (getF s F.GLOBAL_TOPO_SWEEP_SWEEPS + 1) ∧
      (if mapOk (Claim.candidate s) = true then
        sweepResult s' = swRunning ∧
          s'.sys.topo.sweep = some { start := nowNs s, dirty := false, image := Claim.candidate s }
       else sweepResult s' = swBadMap ∧ s'.sys.topo.sweep = none) ∧ onlyRegs s s' [blkMgmt]) ∧
    (∀ w, s.sys.topo.sweep = some w → flag s F.GLOBAL_TOPO_SWEEP_LEADER = false →
      Claim.runs .sweepReplyTimeout s fun s' =>
        sweepResult s' = (if w.dirty then swStale else swClean) ∧ s'.sys.topo.sweep = none ∧
        s'.sys.topo.swept = (if w.dirty then none else some w.image) ∧ (∃ o, s'.out = s.out ++ [o]) ∧
        onlyRegs s s' [blkMgmt]) ∧
    (∀ (slot : Fin 32) w, flag s F.GLOBAL_TOPO_SWEEP_LEADER = true → sweepResult s = swRunning →
      s.sys.topo.sweep = some w →
      (Claim.runs (.disc slot .stale) s fun s' =>
        sweepResult s' = swStale ∧ (∃ b, s'.out = s.out ++ [.report 4 b]) ∧ onlyRegs s s' [blkMgmt]) ∧
      ∀ l, (∀ k ∈ podSlots w.image, k = slot.val ∨ ∃ r ∈ s.sys.topo.reports, r.1 = k) →
        Claim.runs (.disc slot (.results l)) s fun s' =>
          sweepResult s' = swClean ∧ (∃ b, s'.out = s.out ++ [.report 4 b]) ∧ onlyRegs s s' [blkMgmt]) ∧
    (flag s F.GLOBAL_TOPO_SWEEP_LEADER = true → sweepResult s = swRunning → Claim.runs .sweepIncomplete s fun s' =>
      sweepResult s' = swIncomplete ∧ (∃ b, s'.out = s.out ++ [.report 4 b]) ∧ onlyRegs s s' [blkMgmt]) ∧
    (Claim.runs .abandon s fun s' =>
      sweepResult s' = (if sweepResult s = swRunning then swNone else sweepResult s) ∧ s'.sys.topo.sweep = none ∧
      s'.sys.topo.staleAt = none ∧ s'.out = s.out ∧ onlyRegs s s' [blkMgmt]) ∧
    (∀ img, Claim.publishable s img →
      (getF s F.GLOBAL_TOPO_TACT_TACT ≤ nowNs s → Claim.runs .publish s fun s' => Claim.activeMap s' img) ∧
      (nowNs s < getF s F.GLOBAL_TOPO_TACT_TACT → Claim.runs .publish s fun s' =>
        s'.sys.topo.armed = s.sys.topo.armed ++ [(getF s F.GLOBAL_TOPO_TACT_TACT, img)] ∧ onlyRegs s s' [])) ∧
    (∀ a rest, firstArmed s.sys.topo.armed = some (a, rest) → Claim.runs .publishActivate s fun s' =>
      Claim.activeMap s' a.2 ∧ s'.sys.topo.armed = rest) ∧
    ∀ p : PortNo, Claim.runs (.drained p) s fun s' =>
      flag s' (F.PORT_LINK_STAT_DRAINED p) = (flag s (F.PORT_LINK_CFG_DRAIN p) && portEmpty s p) ∧
      s'.sys = s.sys ∧ s'.out = s.out ∧ onlyRegs s s' [blkPort]) ∧
  ∀ (s : State) (p : PortNo), Claim.runs (.drainSet p) s fun s' =>
    flag s' (F.PORT_LINK_CFG_DRAIN p) = true ∧ s'.sys = s.sys ∧ s'.out = s.out ∧ onlyRegs s s' [blkPort]

/-- On a metro path that is UP the DATA frame in order goes on and CUM moves; one behind a gap is held and a SACK sent; a
SACK frees what it acknowledges; the timers send a SACK, and send a frame again until RTXMAX; a lost SACK and RTXMAX fail
the path. Probes are answered, and a reply brings a path UP (11 R341-R345). -/
def Obligations.MetroPathResult : Prop :=
  (∀ (s : State) (e : EdgeNo) (m : MetroHdr), Claim.metroGets s e m →
    (∀ frame, pathSt s e = paUp →
      (∀ (q : Nat) (die : Fin 2), m.psn.toNat = (metroSt s e).cum → (metroSt s e).ahead = [] →
        (metroSt s e).unsacked < 31 → kindClass frame.hdr.kind.toNat frame.tc = true →
        route s frame.hdr.sdev.toNat frame.hdr.ddev.toNat frame.tc = .port q → Claim.noMirror s →
        destDies (Claim.pathOnward s e q frame) = [(die.val, [q])] →
        Claim.roomFor s (Claim.pathOnward s e q frame) die [q] → Claim.runs (.metroData e m frame) s fun s' =>
          s'.sys.div.frames = s.sys.div.frames ++ [Claim.admitted s (Claim.pathOnward s e q frame) die [q]] ∧
          (metroSt s' e).cum = ((metroSt s e).cum + 1) % 2 ^ 32 ∧ s'.out = s.out ∧ onlyRegs s s' []) ∧
      (let d := (m.psn.toNat + 2 ^ 32 - (metroSt s e).cum) % 2 ^ 32
       0 < d → d < 2 ^ 31 → (∀ x ∈ (metroSt s e).ahead, x.1 ≠ m.psn.toNat) →
        rxPages ((metroSt s e).ahead ++ [(m.psn.toNat, frame)]) ≤ (metroSt s e).rxMere.length →
        Claim.runs (.metroData e m frame) s fun s' =>
          (metroSt s' e).ahead = (metroSt s e).ahead ++ [(m.psn.toNat, frame)] ∧
          (metroSt s' e).cum = (metroSt s e).cum ∧ Claim.metroSends s s' e 1 ∧ onlyRegs s s' [])) ∧
    (∀ cum rwin, pathSt s e = paUp → Claim.runs (.sack e m cum rwin 0) s fun s' =>
      (∀ x, x ∈ (metroSt s' e).sent ↔ x ∈ (metroSt s e).sent ∧ ¬ Claim.pathCovered (BitVec.toNat cum) x) ∧
      (metroSt s' e).rwin = some (BitVec.toNat rwin) ∧ s'.out = s.out ∧ onlyRegs s s' []) ∧
    (∀ nonce tSend turn, Claim.runs (.metroProbe e m nonce tSend turn) s fun s' =>
      Claim.metroSends s s' e 3 ∧ s'.sys = s.sys ∧ onlyRegs s s' []) ∧
    ∀ tSend turn, m.srcMac.toNat = getF s (F.EDGE_METRO_PEER_MAC e) →
      (pathSt s e = paProbing ∨ pathSt s e = paFailed) → Claim.runs (.metroProbeReply e m tSend turn) s fun s' =>
        pathSt s' e = paUp ∧ s'.out = s.out ∧ onlyRegs s s' [blkEdge]) ∧
  ∀ (s : State) (e : EdgeNo), live s = true →
    (edgePs s e = psUp → (pathSt s e = paProbing ∨ pathSt s e = paFailed) →
      Claim.runs (.metroProbeTimer e) s fun s' => Claim.metroSends s s' e 2 ∧ s'.sys = s.sys ∧ onlyRegs s s' []) ∧
    (pathSt s e = paUp → 0 < (metroSt s e).unsacked → Claim.runs (.metroSackTimer e) s fun s' =>
      Claim.metroSends s s' e 1 ∧ (metroSt s' e).unsacked = 0 ∧ onlyRegs s s' []) ∧
    (pathSt s e = paUp → (metroSt s e).sent ≠ [] → Claim.runs (.metroSackTimeout e) s fun s' =>
      pathSt s' e = paFailed ∧
      getF s' (F.EDGE_METRO_CNT_PATHFAIL e) = min 65535 (getF s (F.EDGE_METRO_CNT_PATHFAIL e) + 1)) ∧
    ∀ (psn : W32) (x : MSent), pathSt s e = paUp → (metroSt s e).sent.find? (fun x => x.psn == psn.toNat) = some x →
      (max 1 (getF s (F.EDGE_METRO_CFG_RTXMAX e)) ≤ x.count → Claim.runs (.metroRtxTimer e psn) s fun s' =>
        pathSt s' e = paFailed) ∧
      (x.count < max 1 (getF s (F.EDGE_METRO_CFG_RTXMAX e)) → Claim.runs (.metroRtxTimer e psn) s fun s' =>
        s'.out.getLast? = some (.metroFrame e x.psn x.frame) ∧
        getF s' (F.EDGE_METRO_STAT_RETX e) = min (2 ^ 32 - 1) (getF s (F.EDGE_METRO_STAT_RETX e) + 1) ∧
        ∀ t, tileOf s' t = tileOf s t)

/-- Links: frames, and messages. -/
def Obligations.LinkResult : Prop :=
  Claim.LinkFrameResult ∧ Claim.LinkMessageResult

namespace Sys2Proof.Claim

/-! The host interface (12). -/

/-- A queue stands stopped with an error. -/
def stopped (s' : State) (q err : Nat) : Prop :=
  flag s' (F.HOST_Q_STAT_STOP q) = true ∧ getF s' (F.HOST_Q_STAT_ERR q) = err

/-- A doorbell of a page reaches host queue q, which takes descriptors in a mode. -/
def doorbell (s : State) (d : LinkNo) (v : ViNo) (lq : Fin 64) (q : HqNo) (mode : Nat) : Prop :=
  enginesRun s = true ∧ pageQueue s d v lq = some q ∧ hqTakes s q mode = true

/-- The allotment of the queue's VI has room. -/
def viRoom (s : State) (q : HqNo) (v : Nat) : Prop := hqOwner s q = some v ∧ viOut s v < allotDesc s v

/-- A host queue has dealt with a descriptor: refused, it waits for its CQ entry with the code; accepted, with an effect or
a signal of its own, it is outstanding. -/
def hostTook (s s' : State) (q : HqNo) (v : Nat) (l : List W64) : Prop :=
  (hqSt s' q).nextSeq = ((hqSt s q).nextSeq + 1) % 2 ^ 32 ∧
  (∀ code, dmaCheck s v true true l = some code →
    (hqSt s' q).done = (hqSt s q).done ++ [{ seq := (hqSt s q).nextSeq, status := 0, refusal := code }] ∧
    s'.sys.dma.descs = s.sys.dma.descs) ∧
  (dmaCheck s v true true l = none → (dLen l ≠ 0 ∨ dDsigEn l = true ∨ dSsigEn l = true) →
    (hqSt s' q).done = (hqSt s q).done ∧
    ∃ d : Desc, s'.sys.dma.descs = s.sys.dma.descs ++ [d] ∧ d.q = .host q ∧ d.seq = (hqSt s q).nextSeq ∧ d.vi = v ∧
      d.words = l ∧ d.state = .queued)

/-- What the push window holds once bytes are written. -/
def pushed (s : State) (q : HqNo) (off : Nat) (l : List Byte) : List Byte :=
  overlay (if (hqSt s q).push = [] then List.replicate 64 0 else (hqSt s q).push) off l

/-- The descriptor of the push window. -/
def pushWords (b : List Byte) : List W64 := (chunks 8 b).map fun x => BitVec.ofNat 64 (ofBytes x)

/-- A host line that is held, and not in the eviction buffer. -/
def heldLine (s : State) (a : Nat) (x : HLine) : Prop := evictAt s a = none ∧ lineAt s a = some x ∧ x.st ≠ .rdOwn

/-- The answer of a snoop: the name with data from M, and the name without. -/
def answers (s s' : State) (a : Nat) (x : HLine) (fwd hit : String) : Prop :=
  s'.out = s.out ++ [if x.st = .m then .cxl fwd a x.data else .cxl hit a []]

end Sys2Proof.Claim

/-- SQTAIL beyond the ring stops the queue with BADDB, else the next entry is read; an entry that is fetched is accepted
or refused, and a failed read stops the queue; a push window is filled by its writes and taken with byte 63, or with 64
outstanding stops the queue; CQHEAD is stored (12 R354, R357-R362). -/
def Claim.HostQueueResult : Prop :=
  (∀ (s : State) (d : LinkNo) (v : ViNo) (lq : Fin 64) (q : HqNo) (o : Nat),
    (∀ tail, Claim.doorbell s d v lq q 0 →
      (sqSize s q ≤ BitVec.toNat tail → Claim.runs (.sqtail d v lq tail) s fun s' =>
        Claim.stopped s' q 1 ∧ s'.out = s.out ∧ onlyRegs s s' [blkHost]) ∧
      (BitVec.toNat tail < sqSize s q → Claim.viRoom s q o → tail.toNat ≠ getF s (F.HOST_Q_STAT_SQHEAD q) →
        flag s (F.HOST_LINK_LINKUP (hqLink q)) = true → Claim.runs (.sqtail d v lq tail) s fun s' =>
          (hqSt s' q).sqtail = tail.toNat ∧
          s'.out = s.out ++ [.hostRead (hqLink q) (getF s (F.HOST_Q_SQ_BASE q) * 4096 +
            64 * getF s (F.HOST_Q_STAT_SQHEAD q)) 64] ∧ onlyRegs s s' [])) ∧
    (∀ off l, Claim.doorbell s d v lq q 1 → off + l.length ≤ 64 →
      (off + l.length ≤ 63 → Claim.runs (.pushWrite d v lq off l) s fun s' =>
        (hqSt s' q).push = Claim.pushed s q off l ∧ s'.out = s.out ∧ onlyRegs s s' []) ∧
      (off ≤ 63 → off + l.length = 64 → hqOut s q < 64 → Claim.viRoom s q o → (hqSt s q).pushed = [] →
        Claim.runs (.pushWrite d v lq off l) s fun s' =>
          Claim.hostTook s s' q o (Claim.pushWords (Claim.pushed s q off l))) ∧
      (off ≤ 63 → off + l.length = 64 → 64 ≤ hqOut s q → Claim.runs (.pushWrite d v lq off l) s fun s' =>
        Claim.stopped s' q 2 ∧ s'.out = s.out ∧ onlyRegs s s' [blkHost])) ∧
    (∀ head, live s = true → pageQueue s d v lq = some q → Claim.runs (.cqhead d v lq head) s fun s' =>
      (hqSt s' q).cqhead = BitVec.toNat head ∧
      ((hqSt s q).cqhead ≠ BitVec.toNat head → (hqSt s' q).armed = true) ∧ s'.out = s.out ∧ onlyRegs s s' [])) ∧
  ∀ (s : State) (q : HqNo) (v : Nat), enginesRun s = true → hqTakes s q 0 = true →
    getF s (F.HOST_Q_STAT_SQHEAD q) ≠ (hqSt s q).sqtail → Claim.viRoom s q v →
    (Claim.runs (.sqEntryFetched q none) s fun s' =>
      Claim.stopped s' q 3 ∧ s'.sys = s.sys ∧ s'.out = s.out ∧ onlyRegs s s' [blkHost]) ∧
    ∀ l, Claim.runs (.sqEntryFetched q (some l)) s fun s' =>
      getF s' (F.HOST_Q_STAT_SQHEAD q) = (getF s (F.HOST_Q_STAT_SQHEAD q) + 1) % sqSize s q ∧ Claim.hostTook s s' q v l

/-- The CQ entry of the oldest completed descriptor is written at CQTAIL, which moves on; EN set starts a queue afresh,
and EN cleared waits for its descriptors; a link that goes down clears its bits and stops its queues, and one that comes
up tells whether it runs CXL; a changed signal line is posted (12 R350, R356, R357, R361, R364, R367). -/
def Claim.HostQueueStateResult : Prop :=
  (∀ (s : State) (q : HqNo) (v : Nat) (e : CqE) (rest : List CqE), live s = true → hqOwner s q = some v →
    (hqSt s q).done = e :: rest → (hqSt s q).pushed = [] → (hqSt s q).clearing = false →
    flag s (F.HOST_Q_CFG_EN q) = true → getF s (F.HOST_Q_STAT_ERR q) ≠ 4 → flag s (F.HOST_Q_CFG_CC q) = false →
    flag s (F.HOST_LINK_LINKUP (hqLink q)) = true →
    let t := getF s (F.HOST_Q_STAT_CQTAIL q)
    (t + 1) % cqSize s q ≠ (hqSt s q).cqhead % cqSize s q → Claim.runs (.cqEntryWrite q) s fun s' =>
      getF s' (F.HOST_Q_STAT_CQTAIL q) = (t + 1) % cqSize s q ∧ (hqSt s' q).done = rest ∧
      ∃ o, s'.out = s.out ++ .hostWrite (hqLink q) (getF s (F.HOST_Q_CQ_BASE q) * 4096 + 16 * t)
        (cqBytes e (if hqMode s q = 0 then getF s (F.HOST_Q_STAT_SQHEAD q) else 0) (hqSt s q).phase) :: o) ∧
  (∀ (s : State) (q : HqNo),
    (live s = true → flag s (F.HOST_Q_CFG_EN q) = false → Claim.runs (.hostQueueEnable q) s fun s' =>
      flag s' (F.HOST_Q_CFG_EN q) = true ∧
      hqSt s' q = { sqtail := (hqSt s q).sqtail, cqhead := (hqSt s q).cqhead } ∧ s'.out = s.out ∧
      onlyRegs s s' [blkHost]) ∧
    (flag s (F.HOST_Q_CFG_EN q) = true →
      (hqOut s q = 0 → Claim.runs (.hostQueueDisable q) s fun s' =>
        flag s' (F.HOST_Q_CFG_EN q) = false ∧ getF s' (F.HOST_Q_STAT_SQHEAD q) = 0 ∧
        getF s' (F.HOST_Q_STAT_CQTAIL q) = 0 ∧ s'.out = s.out ∧ onlyRegs s s' [blkHost]) ∧
      (hqOut s q ≠ 0 → Claim.runs (.hostQueueDisable q) s fun s' =>
        flag s' (F.HOST_Q_CFG_EN q) = true ∧ (hqSt s' q).clearing = true ∧ s'.out = s.out ∧ onlyRegs s s' []))) ∧
  (∀ (s : State) (d : LinkNo),
    (flag s (F.HOST_LINK_LINKUP d) = true → Claim.runs (.hostLinkDown d) s fun s' =>
      flag s' (F.HOST_LINK_LINKUP d) = false ∧ flag s' (F.HOST_LINK_CXL d) = false ∧
      flag s' (F.HOST_LINK_CACHEEN d) = false ∧ flag s' (F.HOST_LINK_MEMEN d) = false ∧
      ∀ v < 16, getF s (F.HOST_VI_CFG_LINK v) = d → ∀ q ∈ viHqs s v, flag s (F.HOST_Q_CFG_EN q) = true →
        Claim.stopped s' q 4) ∧
    ∀ cxl, live s = true → s.sys.boot.linksTrain = true → Claim.runs (.hostLinkUp d cxl) s fun s' =>
      flag s' (F.HOST_LINK_LINKUP d) = true ∧
      flag s' (F.HOST_LINK_CXL d) = (cxl && flag s (F.HOST_LINK_MODE d)) ∧
      s'.sys = s.sys ∧ s'.out = s.out ∧ onlyRegs s s' [blkHost]) ∧
  ∀ (s : State) (n : Fin 256), live s = true → flag s (F.HOST_SL_BIND_EN n) = true → n.val ∈ s.sys.host.slDirty →
    smGet 0 s.sys.host.slAt n = 0 → flag s (F.HOST_LINK_LINKUP (slLink s n)) = true →
    Claim.runs (.signalLinePost n) s fun s' =>
      s'.out = s.out ++ [.hostWrite (slLink s n) (slAddr s n) (slBytes s n)] ∧ n.val ∉ s'.sys.host.slDirty ∧
      onlyRegs s s' []

/-- A snoop of a held line is answered with the data where it is in M, and leaves it shared, gone or as it was; one of a
line that is not held hits I. GO gives the line that was asked for with its update, and frees an eviction; a pull sends
the evicted data; a line held too long is evicted (12 R368, R369). -/
def Obligations.CacheLineResult : Prop :=
  ∀ (s : State) (addr : Nat), live s = true →
    let a := lineOf addr
    (∀ c ∈ [Instr.snpdata addr, Instr.snpinv addr, Instr.snpcur addr], evictAt s a = none → lineAt s a = none →
      Claim.runs c s fun s' =>
        s'.out = s.out ++ [.cxl "RspIHitI" a []] ∧ s'.sys = s.sys ∧ onlyRegs s s' []) ∧
    (∀ x, Claim.heldLine s a x →
      (Claim.runs (.snpdata addr) s fun s' =>
        Claim.answers s s' a x "RspSFwdM" "RspSHitSE" ∧ lineAt s' a = some { x with st := .s } ∧ onlyRegs s s' []) ∧
      (s.sys.host.lineWait = [] → Claim.runs (.snpinv addr) s fun s' =>
        Claim.answers s s' a x "RspIFwdM" "RspIHitSE" ∧ lineAt s' a = none ∧ onlyRegs s s' []) ∧
      (Claim.runs (.snpcur addr) s fun s' =>
        Claim.answers s s' a x "RspVFwdV" "RspVHitV" ∧ lineAt s' a = some x ∧ onlyRegs s s' []) ∧
      (s.sys.host.lineWait = [] → s.sys.host.evicts.length < 32 → Claim.runs (.lineHoldExpiry addr) s fun s' =>
        s'.out = s.out ++ [.cxl (if x.st = .m then "DirtyEvict" else "CleanEvictNoData") a []] ∧ lineAt s' a = none ∧
        s'.sys.host.evicts = s.sys.host.evicts ++
          [{ addr := a, dirty := x.st == .m, data := x.data, lost := false, pulled := false, waiting := [], vi := x.vi }] ∧
        onlyRegs s s' [])) ∧
    (∀ x l, evictAt s a = none → lineAt s a = some x → x.st = .rdOwn → x.update ≠ [] →
      Claim.runs (.cxlGo addr (some l)) s fun s' =>
        ∃ y, lineAt s' a = some y ∧ y.st = .m ∧ y.data = overlays ((l ++ x.data).take 64) x.update ∧ y.update = []) ∧
    ∀ e, evictAt s a = some e →
      (∀ data, e.waiting = [] → s.sys.host.lineWait = [] → Claim.runs (.cxlGo addr data) s fun s' =>
        evictAt s' a = none ∧ s'.out = s.out ∧ onlyRegs s s' []) ∧
      (e.dirty = true → e.pulled = false → Claim.runs (.cxlWritePull addr) s fun s' =>
        s'.out = s.out ++ [.cxl (if e.lost then "Data Bogus=1" else "Data Bogus=0") a e.data] ∧
        (∃ y, evictAt s' a = some y ∧ y.pulled = true) ∧ onlyRegs s s' [])

/-- Host queues: their entries, and their state. -/
def Obligations.HostQueuesResult : Prop :=
  Claim.HostQueueResult ∧ Claim.HostQueueStateResult

namespace Sys2Proof.Claim

/-! Containment, resets of VIs, migration and health (13). -/

/-- The device is contained: DEVICE_FAULT is set and every VI that exists is CONTAINED (13 R377). -/
def isContained (s s' : State) : Prop :=
  contained s' = true ∧ ∀ v < 16, viPresent s v = true → viState s' v = 3

/-- A migration of a tile with no entries left waits to be finished, and its spare is still one (13 R396). -/
def migReady (s : State) (m : Mig) (i : Nat) : Prop :=
  s.sys.faults.mig = some m ∧ m.drained = true ∧ (tileOf s m.old).core.state = .preempt ∧ m.new ∈ spareTiles s ∧
  posOf s m.old = some i

/-- The uncorrectable errors of a pond within 24 h (13 R395). -/
def pondPast (s : State) (t : Nat) : List Nat :=
  (smGet [] s.sys.faults.pondErrs t).filter fun a => decide (nowNs s < a + 24 * 3600 * 1000000000)

end Sys2Proof.Claim

/-- Containment sets DEVICE_FAULT and CUNIT, makes every VI CONTAINED, keeps the tiles as they are and reports the error;
a VI reset starts with cause 1, or with the cause it was deferred with; it completes when nothing of it is left, which
counts it and gives it its cause; one that does not complete is device containment (13 R376, R377, R389-R393). -/
def Obligations.ContainmentAndResetResult : Prop :=
  ∀ (s : State), live s = true →
    (∀ e b, contained s = false → Claim.runs (.deviceContainment e b) s fun s' =>
      Claim.isContained s s' ∧ getF s' F.FAULT_DEV_STAT_CUNIT = e.unit % 256 ∧
      s'.out.getLast? = some (.report 8 (errBytes e (nowNs s))) ∧ (∀ t, tileOf s' t = tileOf s t) ∧
      ∀ u o, pondByte s' u o = pondByte s u o) ∧
    ∀ (v : ViNo),
      (Claim.resetFree s v → Claim.runs (.viReset v) s fun s' => Claim.resetBegun s s' v 1) ∧
      (∀ c, (viFaultSt s v).deferred = some c → viPresent s v = true → viState s v ≠ 2 → viState s v ≠ 3 →
        Claim.runs (.viResetDeferEnd v) s fun s' => Claim.resetBegun s s' v c) ∧
      (viState s v = 2 → quiesce s v = 0 → Claim.runs (.viResetDone v) s fun s' =>
        viState s' v = 0 ∧ getF s' (F.FAULT_VI_CTL_CAUSE v) = (viFaultSt s v).cause % 256 ∧
        getF s' (F.FAULT_VI_CTL_RESETS v) = min 65535 (getF s (F.FAULT_VI_CTL_RESETS v) + 1) ∧
        ((viFaultSt s v).unload = true → viLoaded s' v = false) ∧ (viFaultSt s' v).lastDone = some (nowNs s) ∧
        viInc s' v = viInc s v ∧ onlyRegs s s' [blkMgmt, blkFault]) ∧
      (viState s v = 2 → contained s = false → Claim.runs (.viResetTimeout v) s fun s' =>
        Claim.isContained s s' ∧ ∀ t, tileOf s' t = tileOf s t)

/-- A migration starts on a tile that runs and takes a spare, and is turned away with its status on any other; it ends
with the spare in the tile's position, holding its pond, and the tile fenced, or with status 4 where entries are left
(13 R396). -/
def Obligations.MigrationResult : Prop :=
  ∀ (s : State), enginesRun s = true →
    (∀ ptile : Byte, getF s F.FAULT_TILE_MIG_STATUS ≠ 1 →
      (¬ (ptile.toNat < 152 ∧ tileRuns s ptile.toNat = true) → Claim.runs (.migrate ptile) s fun s' =>
        getF s' F.FAULT_TILE_MIG_STATUS = 5 ∧ onlyRegs s s' [blkFault] ∧ s'.sys = s.sys) ∧
      (ptile.toNat < 152 → tileRuns s ptile.toNat = true → spareTiles s = [] → Claim.runs (.migrate ptile) s fun s' =>
        getF s' F.FAULT_TILE_MIG_STATUS = 3 ∧ onlyRegs s s' [blkFault] ∧ s'.sys = s.sys) ∧
      (ptile.toNat < 152 → tileRuns s ptile.toNat = true → spareTiles s ≠ [] → Claim.runs (.migrate ptile) s fun s' =>
        getF s' F.FAULT_TILE_MIG_STATUS = 1 ∧ getF s' F.FAULT_TILE_MIG_PTILE = ptile.toNat ∧
        ∃ m, s'.sys.faults.mig = some m ∧ m.old = ptile.toNat ∧ m.new ∈ spareTiles s)) ∧
    (∀ m i, Inv s → Claim.migReady s m i → Claim.runs .migrateDone s fun s' =>
      getF s' F.FAULT_TILE_MIG_STATUS = 2 ∧ s'.sys.faults.mig = none ∧ tileAt s' i = some m.new ∧
      (tileOf s' m.old).core.state = .fenced ∧ (∀ k, getS s' m.old k = 0) ∧
      (tileOf s' m.new).core.vi = (tileOf s m.old).core.vi ∧
      (∀ b < 4194304, pondByte s' m.new b = pondByte s m.old b) ∧
      ∀ t, t ≠ m.old → t ≠ m.new → tileOf s' t = tileOf s t) ∧
    (∀ m, s.sys.faults.mig = some m → m.drained = false → migPending s m.old = true →
      Claim.runs .migrateTimeout s fun s' =>
        getF s' F.FAULT_TILE_MIG_STATUS = 4 ∧ s'.sys.faults.mig = none ∧ onlyRegs s s' [blkFault])

/-- An uncorrectable pond error adds 250 points to its tile, resets the tile's VI with cause 5, and the second within 24
h fences a spare; an HBM error adds 1 point and marks its row, or 250 points; every accumulator decays each second (13
R392, R394, R395, R403). -/
def Obligations.HealthEventResult : Prop :=
  ∀ (s : State), live s = true →
    (∀ (t : TileNo) (off : Nat), let c := (tileOf s t).core;
      Claim.runs (.pondUncorrectable t off) s fun s' =>
        healthAcc s' (objTile t) = healthAcc s (objTile t) + 16 * 250 ∧
        smGet [] s'.sys.faults.pondErrs t = Claim.pondPast s t ++ [nowNs s] ∧
        (c.vi < 16 → c.state ≠ .off → c.state ≠ .fenced → Claim.resetFree s c.vi → viState s' c.vi = 2 ∧
          (viFaultSt s' c.vi).cause = 5 ∧ viInc s' c.vi = (viInc s c.vi + 1) % 256) ∧
        (c.state = .off → posOf s t = none → Claim.pondPast s t ≠ [] → (tileOf s' t).core.state = .fenced)) ∧
    (∀ (c : Fin 256) (row : Nat),
      (Claim.runs (.hbmEccError c row true) s fun s' =>
        healthAcc s' (objHbm c) = healthAcc s (objHbm c) + 16 ∧
        s'.sys.faults.hbmRows =
          (if (c.val, row) ∈ s.sys.faults.hbmRows then s.sys.faults.hbmRows.erase (c.val, row)
           else s.sys.faults.hbmRows ++ [(c.val, row)]) ∧ ∀ t, tileOf s' t = tileOf s t) ∧
      (Claim.runs (.hbmEccError c row false) s fun s' =>
        healthAcc s' (objHbm c) = healthAcc s (objHbm c) + 16 * 250 ∧
        s'.sys.faults.hbmRows = s.sys.faults.hbmRows ∧ ∀ t, tileOf s' t = tileOf s t)) ∧
    (Claim.runs .healthDecay s fun s' =>
      s'.sys.faults.health = s.sys.faults.health.map (fun p =>
        (p.1, p.2 - p.2 / 2 ^ (max 2 (min 12 (getF s F.FAULT_HEALTH_CFG_DECAY))))) ∧
      ∀ t, tileOf s' t = tileOf s t)

namespace Sys2Proof.Claim

/-! Global time, snapshots and record streams (14). -/

/-- The rate, the offset and the lock after a measured offset: the rate stays within 200 ppm of its nominal value of
419430 (14 R410, R411). -/
def disciplined (s s' : State) (x : Int) : Prop :=
  flag s' F.TELEM_TIME_CTL_LOCKED = true ∧ flag s' F.TELEM_TIME_CTL_HOLD = false ∧
  getF s' F.TELEM_TIME_OFS_OFS = (BitVec.ofInt 32 (max (-(2 ^ 31)) (min (2 ^ 31 - 1) x))).toNat ∧
  nowNs s' = nowNs s ∧ 419347 ≤ s'.sys.telem.rate ∧ s'.sys.telem.rate ≤ 419514 ∧ onlyRegs s s' [blkTelem]

/-- Global time has been stepped to a value (14 R411). -/
def stepped (s s' : State) (ns : Nat) : Prop :=
  nowNs s' = ns ∧ flag s' F.TELEM_TIME_CTL_STEPPED = true ∧ s'.out = s.out ∧ onlyRegs s s' [blkTelem]

/-- A trigger of one source has reached the trigger bus: T_L is 256 ns from now (14 R416). -/
def triggered (s s' : State) (src : Nat) : Prop :=
  s'.sys.telem.trigs = s.sys.telem.trigs ++ [{ tl := nowNs s + 256, sources := src, tag := 0, tile := 0, vi := 0 }]

/-- Nothing waits for room in the record stream of a VI (14 R423). -/
def noneWaits (s : State) (v : Nat) : Prop :=
  (recSt s v).gaps = 0 ∧ (∀ t < 152, tileVi s t = v → (tileOf s t).core.state ≠ .stall) ∧
  (∀ d ∈ s.sys.dma.descs, d.vi = v → d.state ≠ .acked) ∧ ∀ x ∈ s.sys.dma.rxs, x.vi = v → x.acked = false

end Sys2Proof.Claim

/-- Global time is disciplined by PTP and PPS, is stepped forward by a write or at the next pulse only while every VI is
idle, and keeps running in holdover when its source is lost; PPS_OUT pulses where it is enabled (14 R410, R411, 16
R460). The rate that a measured offset leads to is a free value. -/
def Claim.GlobalTimeResult : Prop :=
  ∀ (s : State), live s = true →
    (∀ ns, timeSrc s = 2 → s.sys.telem.ppsSet = some ns → allIdle s = true → nowNs s ≤ ns → ns < 2 ^ 64 →
      Claim.runs .ppsEdge s fun s' =>
        Claim.stepped s s' ns ∧ s'.sys.telem.ppsSet = none ∧ flag s' F.TELEM_TIME_CTL_LOCKED = true ∧
        flag s' F.TELEM_TIME_CTL_HOLD = false) ∧
    (timeSrc s = 2 → s.sys.telem.ppsSet = none → Claim.runs .ppsEdge s fun s' =>
      Claim.disciplined s s' (secOffset s)) ∧
    (timeSrc s ≠ 2 → Claim.runs .ppsEdge s fun s' => s' = s) ∧
    (∀ x, timeSrc s = 1 → Claim.runs (.ptpMessage x) s fun s' => Claim.disciplined s s' x) ∧
    (∀ x, timeSrc s ≠ 1 → Claim.runs (.ptpMessage x) s fun s' => s' = s) ∧
    (timeSrc s ≠ 0 → Claim.runs .timeSourceLoss s fun s' =>
      flag s' F.TELEM_TIME_CTL_LOCKED = false ∧ flag s' F.TELEM_TIME_CTL_HOLD = true ∧ s'.sys = s.sys ∧
      onlyRegs s s' [blkTelem]) ∧
    (∀ ns : W64, (allIdle s = false ∨ timeSrc s = 1 ∨ (timeSrc s = 0 ∧ ns.toNat < nowNs s)) →
      Claim.runs (.timeSet ns) s fun s' =>
        flag s' F.TELEM_TIME_CTL_SETERR = true ∧ s'.sys = s.sys ∧ onlyRegs s s' [blkTelem]) ∧
    (∀ ns : W64, allIdle s = true → timeSrc s = 2 → Claim.runs (.timeSet ns) s fun s' =>
      s'.sys.telem.ppsSet = some ns.toNat ∧ nowNs s' = nowNs s ∧ onlyRegs s s' []) ∧
    (∀ ns : W64, allIdle s = true → timeSrc s = 0 → nowNs s ≤ ns.toNat → Claim.runs (.timeSet ns) s fun s' =>
      Claim.stepped s s' ns.toNat) ∧
    (flag s F.TELEM_TIME_CTL_PPSOUT = true → Claim.runs .ppsOut s fun s' =>
      s'.out = s.out ++ [.pin "PPS_OUT" true, .pin "PPS_OUT" false] ∧ s'.sys = s.sys ∧ onlyRegs s s' []) ∧
    (flag s F.TELEM_TIME_CTL_PPSOUT = false → Claim.runs .ppsOut s fun s' => s' = s)

/-- A trigger that is enabled reaches the trigger bus 256 ns later, and a timed one at its time; a counter triggers once;
a snapshot is latched at its time and is missed while another is being written; its record goes to the ring when it has
room, else it is dropped (14 R414-R418). A write of a record ring's TAIL is stored (14 R423). -/
def Claim.SnapshotResult : Prop :=
  ∀ (s : State), live s = true →
    (Claim.runs .snapCmd s fun s' => Claim.triggered s s' 32 ∧ onlyRegs s s' []) ∧
    (snapEn s 0 = true → Claim.runs .trigInRise s fun s' => Claim.triggered s s' 1 ∧ onlyRegs s s' []) ∧
    (snapEn s 0 = false → Claim.runs .trigInRise s fun s' => s' = s) ∧
    (∀ a : W64, Claim.runs (.snapAtWrite a) s fun s' =>
      getF s' F.TELEM_SNAP_AT_AT = a.toNat ∧ onlyRegs s s' [blkTelem] ∧
      (snapEn s 1 = true → a.toNat < nowNs s → Claim.triggered s s' 2 ∧ flag s' F.TELEM_SNAP_STAT_ARMED = false ∧
        flag s' F.TELEM_SNAP_STAT_LATE = true) ∧
      (snapEn s 1 = true → nowNs s ≤ a.toNat → s'.sys = s.sys ∧ flag s' F.TELEM_SNAP_STAT_ARMED = true)) ∧
    (flag s F.TELEM_SNAP_STAT_ARMED = true → snapEn s 1 = true → Claim.runs .snapAtReached s fun s' =>
      flag s' F.TELEM_SNAP_STAT_ARMED = false ∧ onlyRegs s s' [blkTelem] ∧
      s'.sys.telem.trigs = s.sys.telem.trigs ++
        [{ tl := getF s F.TELEM_SNAP_AT_AT, sources := 2, tag := 0, tile := 0, vi := 0 }]) ∧
    (∀ i : Fin 256, snapEn s 3 = true → flag s (F.TELEM_CTR_CFG_THREN i) = true →
      flag s (F.TELEM_CTR_CFG_EN i) = true → getF s (F.TELEM_CTR_CFG_THR i) ≤ getF s (F.TELEM_CTR_VALUE i) →
      (i.val ∉ s.sys.telem.triggered → Claim.runs (.counterThreshold i) s fun s' =>
        Claim.triggered s s' 8 ∧ s'.sys.telem.triggered = s.sys.telem.triggered ++ [i.val] ∧ onlyRegs s s' []) ∧
      (i.val ∈ s.sys.telem.triggered → Claim.runs (.counterThreshold i) s fun s' => s' = s)) ∧
    (∀ x, s.sys.telem.trigs = [x] →
      (flag s F.TELEM_SNAP_STAT_BUSY = false → Claim.runs .snapshotLatch s fun s' =>
        let seq := (getF s F.TELEM_SNAP_STAT_SEQ + 1) % 2 ^ 32;
        s'.sys.telem.trigs = [] ∧ getF s' F.TELEM_SNAP_STAT_SEQ = seq ∧ flag s' F.TELEM_SNAP_STAT_BUSY = true ∧
        s'.sys.telem.record =
          some (snapRecord s seq x.sources (if x.sources = srcSnap then x.tag else 0) x.tl) ∧
        ∀ t, tileOf s' t = tileOf s t) ∧
      (flag s F.TELEM_SNAP_STAT_BUSY = true → Claim.runs .snapshotLatch s fun s' =>
        s'.sys.telem.trigs = [] ∧ s'.sys.telem.record = s.sys.telem.record ∧
        getF s' F.TELEM_SNAP_STAT_MISSED = min 4095 (getF s F.TELEM_SNAP_STAT_MISSED + 1) ∧
        onlyRegs s s' [blkTelem])) ∧
    (∀ l : List Byte, s.sys.telem.record = some l → l.length = 52 * 64 →
      let n := 1024 * 2 ^ getF s F.TELEM_SNAP_RBASE_SIZE;
      let h := getF s F.TELEM_SNAP_RHEAD_HEAD;
      (ringFits n h (getF s F.TELEM_SNAP_RTAIL_TAIL) 52 = true → Claim.runs .snapshotRecordWritten s fun s' =>
        getF s' F.TELEM_SNAP_RHEAD_HEAD = (h + 52) % n ∧ s'.sys.telem.record = none ∧
        flag s' F.TELEM_SNAP_STAT_BUSY = false ∧
        (∀ i b, l[i]? = some b →
          hbmByte s' (getF s F.TELEM_SNAP_RBASE_BASE * 4096 + 64 * ((h + i / 64) % n) + i % 64) = b) ∧
        ∀ t, tileOf s' t = tileOf s t) ∧
      (ringFits n h (getF s F.TELEM_SNAP_RTAIL_TAIL) 52 = false → Claim.runs .snapshotRecordWritten s fun s' =>
        getF s' F.TELEM_SNAP_STAT_DROPPED = min 4095 (getF s F.TELEM_SNAP_STAT_DROPPED + 1) ∧
        s'.sys.telem.record = none ∧ flag s' F.TELEM_SNAP_STAT_BUSY = false ∧ onlyRegs s s' [blkTelem])) ∧
    ∀ (v : ViNo) (tail : W32), Claim.noneWaits s v → Claim.runs (.recTailWrite v tail) s fun s' =>
      getF s' (F.TELEM_VI_REC_TAIL_TAIL v) = tail.toNat ∧ s'.sys = s.sys ∧ onlyRegs s s' [blkTelem]

/-- Global time, and snapshots and record rings. -/
def Obligations.TelemetryResult : Prop :=
  Claim.GlobalTimeResult ∧ Claim.SnapshotResult

namespace Sys2Proof.Claim

/-! Boot, profiles, VIs, maintenance and management (15). -/

/-- Registers that a reset does not leave at their reset values: what it keeps, the VIs' causes, the boot's stage and the
states of the PLLs. -/
def keptOffs (mgmt : Bool) : List Nat :=
  ([R.CLKPWR_RAIL_STAT, R.CLKPWR_REF, R.MGMT_BOOT_STAT] ++ (upto 16).map (fun v => R.FAULT_VI_CTL v) ++
    (upto 8).map (fun e => R.EDGE_STAT e) ++ (upto 8).map (fun e => R.PORT_ENG_STAT e) ++
    (if mgmt then [R.MGMT_SPI_STAT, R.TELEM_TIME_CTL, R.TELEM_TIME_OFS] else [])).map (·.off)

/-- The device has been reset and boots: registers hold their reset values, ponds and tiles are empty, HBM is as before,
PROFILE_SEL has been sampled and the PLLs settle (15 R429, R430). -/
def rebooted (s s' : State) (sel : Nat) (mgmt : Bool) : Prop :=
  bootStage s' = 1 ∧ s'.sys.boot.sel = sel ∧ (∀ e : Fin 8, pllState s' (.engine e) = 1 ∧ pllState s' (.edge e) = 1) ∧
  (∀ r : RegRef, r.off ∉ keptOffs mgmt → getR s' r = r.rst.toNat) ∧
  (∀ r : RegRef, r.off ∈ [R.CLKPWR_RAIL_STAT.off] ∨ (mgmt = true ∧ r.off = R.MGMT_SPI_STAT.off) → getR s' r = getR s r) ∧
  (∀ t, tileOf s' t = {}) ∧ (∀ u o, pondByte s' u o = 0) ∧ (∀ a, hbmByte s' a = hbmByte s a) ∧
  s'.sys.boot.flashImages = s.sys.boot.flashImages ∧ s'.sys.boot.flashProfiles = s.sys.boot.flashProfiles ∧
  s'.sys.power.stopped = false ∧ s'.pending = s.pending ∧ (mgmt = true → nowNs s' = nowNs s) ∧
  (mgmt = false → nowNs s' = 0)

/-- A profile image that passes every check, and the shadow it leads to (15 R436-R439). -/
def profileGood (s : State) (l : List Byte) (c : State) : Prop :=
  profHeadOk l = true ∧ (∀ e ∈ profEntries l, entryOk e = true) ∧ c = (profEntries l).foldl entryApply (shadowBase s) ∧
  shadowCodes c = []

/-- The profile of a slot is in force: the registers of six blocks hold its bits (15 R437). -/
def profileIn (s' c : State) (slot : Nat) : Prop :=
  getF s' F.MGMT_PROF_STAT_CODE = 0 ∧ flag s' F.MGMT_PROF_STAT_VALID = true ∧ getF s' F.MGMT_PROF_STAT_ACTIVE = slot ∧
  ∀ off d, storedAt off = some d → offIn [blkHost, blkMmu, blkDma, blkSig, blkDivide, blkMere] off = true →
    smGet 0 s'.regs off &&& BitVec.ofNat 64 (accMask d.fields profSets) =
      smGet 0 c.regs off &&& BitVec.ofNat 64 (accMask d.fields profSets)

/-- A load has been refused with a code (15 R438). -/
def profileRefused (s s' : State) (code : Nat) : Prop :=
  getF s' F.MGMT_PROF_STAT_CODE = code ∧ getF s' F.MGMT_PROF_STAT_ENTRY = 0 ∧ s'.sys = s.sys ∧ onlyRegs s s' [blkMgmt]

/-- A command of a VI has been answered with a code and nothing else (15 R440-R442). -/
def viAnswered (s s' : State) (v code : Nat) : Prop :=
  getF s' (F.MGMT_VI_CTL_CODE v) = code % 256 ∧ viPresent s' v = viPresent s v ∧ viLoaded s' v = viLoaded s v ∧
  s'.sys = s.sys ∧ onlyRegs s s' [blkMgmt]

/-- The result of an activity is told: LASTTAG, RESULT and DONE (15 R450). -/
def maintTold (s s' : State) (tag result : Nat) : Prop :=
  getF s' F.MGMT_MAINT_STAT_LASTTAG = tag ∧ getF s' F.MGMT_MAINT_STAT_RESULT = result ∧
  getF s' F.MGMT_MAINT_STAT_DONE = (getF s F.MGMT_MAINT_STAT_DONE + 1) % 2 ^ 32

/-- A whole frame of R444 that carries one data word, with its CRC (15 R444). -/
def writeFrame (f : SpiFrame) (off : Nat) (v : W32) : Prop :=
  ∃ w0 w1, f.words = [w0, w1, v, spCrc [w0, w1, v]] ∧ spOp w0.toNat = 2 ∧ spN w0.toNat = 1 ∧ spOff w1.toNat = off ∧
    f.edges = 128
def readFrame (f : SpiFrame) (off : Nat) : Prop :=
  ∃ w0 w1 x y z, f.words = [w0, w1, spCrc [w0, w1], x, y, z] ∧ spOp w0.toNat = 1 ∧ spN w0.toNat = 1 ∧
    spOff w1.toNat = off ∧ f.edges = 192

/-- A datagram that writes, or reads, one word (15 R446). -/
def writeDgram (l : List W32) (off : Nat) (v : W32) : Prop :=
  ∃ w0 w1, l = [w0, w1, v] ∧ spOp w0.toNat = 2 ∧ spN w0.toNat = 1 ∧ spOff w1.toNat = off
def readDgram (l : List W32) (off : Nat) : Prop :=
  ∃ w0 w1, l = [w0, w1] ∧ spOp w0.toNat = 1 ∧ spN w0.toNat = 1 ∧ spOff w1.toNat = off

end Sys2Proof.Claim

/-- RESET_N, and a management reset from the SPI slave or the management path only, reset the device and start its boot;
the ROM boots a slot that verifies, or ends in RECOVERY; the self test fences failed tiles and lets the links train; the
HBM's training ends in stage 4 or in BOOT_FAIL (15 R429-R434). -/
def Obligations.BootResult : Prop :=
  (∀ (s : State) (sel : BitVec 2), s.sys.power.tripped = false → s.sys.boot.inReset = false →
    Claim.runs (.resetN sel) s fun s' => Claim.rebooted s s' sel.toNat false) ∧
  (∀ (s : State) (via : Via) (sel : BitVec 2), clocked s = true →
    (via = .spi ∨ via = .mgmt → Claim.runs (.mgmtReset via sel) s fun s' => Claim.rebooted s s' sel.toNat true) ∧
    (via ≠ .spi → via ≠ .mgmt → Claim.runs (.mgmtReset via sel) s fun s' => s' = s)) ∧
  (∀ s : State, clocked s = true → bootStage s = 1 →
    (∀ i, i < 2 → slotOk s i = true →
      (slotOk s (1 - i) = false ∨ Config.imageVersion (imageAt s (1 - i)) < Config.imageVersion (imageAt s i)) →
      Claim.runs .firmwareVerified s fun s' =>
        bootStage s' = 2 ∧ getF s' F.MGMT_BOOT_STAT_SLOT = i ∧
        s'.sys.boot.version = Config.imageVersion (imageAt s i) ∧
        s'.sys.boot.fwHash = Config.sha384 (imageAt s i) ∧ onlyRegs s s' [blkMgmt]) ∧
    (slotOk s 0 = false → slotOk s 1 = false → Claim.runs .firmwareVerified s fun s' =>
      bootStage s' = 8 ∧ s'.sys = s.sys ∧ onlyRegs s s' [blkMgmt] ∧
      getF s' F.MGMT_BOOT_STAT_CODE = (if slotStale s 0 = true ∨ slotStale s 1 = true then 2 else 1))) ∧
  (∀ s : State, clocked s = true → bootStage s = 2 → s.sys.boot.fused = [] →
    (Claim.runs (.selftestDone []) s fun s' =>
      bootStage s' = 3 ∧ s'.sys.boot.linksTrain = true ∧ onlyRegs s s' [blkMgmt]) ∧
    ∀ t : TileNo, posOf s t = none → (tileOf s t).core.state ≠ .fenced →
      Claim.runs (.selftestDone [t]) s fun s' =>
        bootStage s' = 3 ∧ s'.sys.boot.linksTrain = true ∧ (tileOf s' t).core.state = .fenced ∧ sameOthers s s' t) ∧
  ∀ s : State, clocked s = true → bootStage s = 3 →
    (Claim.runs (.hbmTrained true) s fun s' => bootStage s' = 4 ∧ s'.sys = s.sys ∧ onlyRegs s s' [blkMgmt]) ∧
    (Claim.runs (.hbmTrained false) s fun s' =>
      bootStage s' = 7 ∧ getF s' F.MGMT_BOOT_STAT_CODE = 3 ∧ s'.sys = s.sys ∧ onlyRegs s s' [blkMgmt])

/-- A profile that passes every check comes into force and the device is READY; a slot that holds none is refused with
code 8, and a load while a VI is not idle with code 7 (15 R430, R437-R439). The version fuses rise only to the version
that runs (R433), and MGMT_EXPERT is written by the administrator while it is not locked (R443). -/
def Obligations.ProfileResult : Prop :=
  ∀ s : State, live s = true →
    (∀ slot : Fin 4, let l := smGet [] s.sys.boot.flashProfiles slot;
      flag s F.MGMT_PROF_STAT_BUSY = false → bootStage s = 5 ∨ bootStage s = 6 →
      (allIdle s = false → Claim.runs (.profileLoad slot) s fun s' => Claim.profileRefused s s' 7) ∧
      (allIdle s = true → l = [] → Claim.runs (.profileLoad slot) s fun s' => Claim.profileRefused s s' 8) ∧
      (allIdle s = true → l ≠ [] → profHeadOk l = false →
        Claim.runs (.profileLoad slot) s fun s' => Claim.profileRefused s s' 1) ∧
      (∀ c, allIdle s = true → l ≠ [] → Claim.profileGood s l c → Claim.runs (.profileLoad slot) s fun s' =>
        Claim.profileIn s' c slot ∧ bootStage s' = 5 ∧ s'.sys.boot.profHash = Config.sha384 (l.take (profLen l)))) ∧
    (bootStage s = 4 → s.sys.boot.sel < 4 → let l := smGet [] s.sys.boot.flashProfiles s.sys.boot.sel;
      (l = [] → Claim.runs .profileReadDone s fun s' =>
        bootStage s' = 6 ∧ getF s' F.MGMT_PROF_STAT_CODE = 8 ∧ s'.sys = s.sys ∧ onlyRegs s s' [blkMgmt]) ∧
      (∀ c, l ≠ [] → Claim.profileGood s l c → Claim.runs .profileReadDone s fun s' =>
        bootStage s' = 5 ∧ flag s' F.MGMT_PROF_STAT_VALID = true ∧ getF s' F.MGMT_PROF_STAT_CODE = 0 ∧
        getF s' F.MGMT_PROF_STAT_ACTIVE = s.sys.boot.sel)) ∧
    (2 ≤ bootStage s → Claim.runs (.versionFuseRaise true) s fun s' =>
      s'.sys.boot.fuseVersion = max s.sys.boot.fuseVersion s.sys.boot.version ∧ onlyRegs s s' []) ∧
    (Claim.runs (.versionFuseRaise false) s fun s' => s' = s) ∧
    ∀ (via : Via) (val : W32),
      (adminPath via = true → flag s F.MGMT_EXPERT_LOCK = false → Claim.runs (.expertWrite via val) s fun s' =>
        getF s' F.MGMT_EXPERT_GLOBAL = bits val.toNat 31 31 ∧ getF s' F.MGMT_EXPERT_VI = bits val.toNat 15 0 ∧
        s'.sys = s.sys ∧ onlyRegs s s' [blkMgmt]) ∧
      (adminPath via = false ∨ flag s F.MGMT_EXPERT_LOCK = true →
        Claim.runs (.expertWrite via val) s fun s' => s' = s)

/-- CREATE gives a VI that passes the checks its tiles, cleared; DESTROY clears them and its allotment; LOAD starts every
tile at ENTRY, and UNLOAD is a VI reset; each is answered with a code where it may not run (15 R440-R442). -/
def Obligations.VirtualInstanceResult : Prop :=
  ∀ (s : State) (v : ViNo), live s = true →
    (viPresent s v = true → Claim.runs (.viCreate v) s fun s' => Claim.viAnswered s s' v 7) ∧
    (∀ c, viPresent s v = false → createCodes s v = [c] → Claim.runs (.viCreate v) s fun s' =>
      Claim.viAnswered s s' v c) ∧
    (viPresent s v = false → createCodes s v = [] → Claim.runs (.viCreate v) s fun s' =>
      viPresent s' v = true ∧ viState s' v = 0 ∧ getF s' (F.MGMT_VI_CTL_CODE v) = 0 ∧
      (∀ t ∈ viTiles s v, (tileOf s' t).core.state = .idle ∧ (tileOf s' t).core.vi = v ∧ (∀ i, getS s' t i = 0) ∧
        ∀ b < 4194304, pondByte s' t b = 0) ∧ ∀ a, hbmByte s' a = hbmByte s a) ∧
    (viPresent s v = true → viLoaded s v = false → viState s v = 0 → Claim.runs (.viDestroy v) s fun s' =>
      viPresent s' v = false ∧ getF s' (F.MGMT_VI_CTL_CODE v) = 0 ∧ getF s' (F.MGMT_VI_CFG_HBM v) = 0 ∧
      (∀ i, posAllotted s' v i = false) ∧ ∀ t ∈ tilesHeld s v, tileOf s' t = {}) ∧
    (¬ (viPresent s v = true ∧ viLoaded s v = false ∧ viState s v = 0) → Claim.runs (.viDestroy v) s fun s' =>
      Claim.viAnswered s s' v 7) ∧
    (let m := ipaRead s v (manifestIpa s v) 128;
      (loadCode s v m = 0 → Claim.runs (.viLoad v) s fun s' =>
        viLoaded s' v = true ∧ viState s' v = 1 ∧ getF s' (F.MGMT_VI_CTL_CODE v) = 0 ∧ sameMemory s s' ∧
        (∀ t ∈ viTiles s v, (tileOf s' t).core.state = .run ∧ (tileOf s' t).core.pc = BitVec.ofNat 48 (mfEntry m) ∧
          (tileOf s' t).core.vi = v) ∧ ∀ t, t ∉ viTiles s v → tileOf s' t = tileOf s t) ∧
      (loadCode s v m ≠ 0 → Claim.runs (.viLoad v) s fun s' => Claim.viAnswered s s' v (loadCode s v m))) ∧
    (viLoaded s v = true → Claim.resetFree s v → Claim.runs (.viUnload v) s fun s' =>
      Claim.resetBegun s s' v 1 ∧ (viFaultSt s' v).unload = true ∧ getF s' (F.MGMT_VI_CTL_CODE v) = 0) ∧
    (viLoaded s v = false → Claim.runs (.viUnload v) s fun s' => Claim.viAnswered s s' v 7)

/-- A maintenance activity starts, waits behind one it conflicts with, or is turned away; a cancelled one leaves; one that
ends is told with its result, mends or fences its target, and stages an image that verifies; one that is due starts in its
window (15 R448-R451). -/
def Obligations.MaintenanceResult : Prop :=
  (∀ (s : State) (act : Fin 16) (tag : Byte) (target : BitVec 16), clocked s = true →
    let m : Maint := { act := act, tag := tag.toNat, target := target.toNat, start := 0 };
    (maintTargetOk s act target.toNat = false → Claim.runs (.maintStart act tag target) s fun s' =>
      Claim.maintTold s s' tag.toNat 2 ∧ s'.sys = s.sys ∧ onlyRegs s s' [blkMaint]) ∧
    (maintTargetOk s act target.toNat = true →
      (s.sys.boot.running.any (maintConflict m) = false →
        (act = 1 ∨ act = 2 → ∀ p ∈ enginePorts target.toNat, canHold s p = false) →
        Claim.runs (.maintStart act tag target) s fun s' =>
          s'.sys.boot.running = s.sys.boot.running ++ [{ m with start := nowNs s }] ∧
          s'.sys.boot.queued = s.sys.boot.queued ∧ onlyRegs s s' []) ∧
      (s.sys.boot.running.any (maintConflict m) = true →
        (s.sys.boot.queued.length < 8 → Claim.runs (.maintStart act tag target) s fun s' =>
          s'.sys.boot.queued = s.sys.boot.queued ++ [m] ∧ s'.sys.boot.running = s.sys.boot.running ∧
          onlyRegs s s' []) ∧
        (8 ≤ s.sys.boot.queued.length → Claim.runs (.maintStart act tag target) s fun s' =>
          Claim.maintTold s s' tag.toNat 1 ∧ s'.sys = s.sys ∧ onlyRegs s s' [blkMaint])))) ∧
  (∀ (s : State) (tag : Byte) (m : Maint), clocked s = true → m.tag = tag.toNat →
    (s.sys.boot.queued = [m] → (∀ r ∈ s.sys.boot.running, r.tag ≠ tag.toNat) →
      Claim.runs (.maintCancel tag) s fun s' =>
        s'.sys.boot.queued = [] ∧ s'.sys.boot.running = s.sys.boot.running ∧ Claim.maintTold s s' tag.toNat 4 ∧
        onlyRegs s s' [blkMaint]) ∧
    (s.sys.boot.queued = [] → s.sys.boot.running.filter (fun r => r.tag == tag.toNat) = [m] → m.act ≠ 1 → m.act ≠ 2 →
      Claim.runs (.maintCancel tag) s fun s' =>
        s'.sys.boot.running = s.sys.boot.running.erase m ∧ Claim.maintTold s s' tag.toNat 4 ∧
        onlyRegs s s' [blkMaint])) ∧
  (∀ (s : State) (tag : Byte) (m : Maint), clocked s = true → s.sys.boot.queued = [] →
    s.sys.boot.running.find? (fun r => r.tag == tag.toNat) = some m →
    (m.act = 0 ∨ m.act = 3 → Claim.runs (.maintDone tag false) s fun s' =>
      s'.sys.boot.running = s.sys.boot.running.erase m ∧ Claim.maintTold s s' tag.toNat 0 ∧
      onlyRegs s s' [blkMaint]) ∧
    (m.act = 4 → Claim.runs (.maintDone tag false) s fun s' =>
      s'.sys.boot.repairs = s.sys.boot.repairs ++ [m.target] ∧ Claim.maintTold s s' tag.toNat 0 ∧
      onlyRegs s s' [blkMaint]) ∧
    (m.act = 3 → m.target < 152 → posOf s m.target = none → (tileOf s m.target).core.state ≠ .fenced →
      Claim.runs (.maintDone tag true) s fun s' =>
        (tileOf s' m.target).core.state = .fenced ∧ Claim.maintTold s s' tag.toNat 3 ∧ sameOthers s s' m.target) ∧
    (∀ b, m.act = 5 → let l := hbmRead s (getF s F.MGMT_MAINT_SRC_DPA * 4096) fwLen;
      Claim.runs (.maintDone tag b) s fun s' =>
        Claim.maintTold s s' tag.toNat (if fwOk s l = true then 0 else 5) ∧ onlyRegs s s' [blkMaint] ∧
        imageAt s' m.target = (if fwOk s l = true then l else imageAt s m.target))) ∧
  ∀ (s : State) (act : Fin 16) (target : BitVec 16),
    (live s = true → windowOpen s act = true → maintTargetOk s act target.toNat = true →
      maintDue s act target.toNat = true → maintThere s act target.toNat = false → s.sys.boot.queued = [] →
      act = 0 ∨ act = 3 →
      s.sys.boot.running.any (maintConflict { act := act, tag := 0, target := target.toNat, start := 0 }) = false →
      Claim.runs (.maintWindowDue act target) s fun s' => ∃ tag < 256,
        s'.sys.boot.running =
          s.sys.boot.running ++ [{ act := act, tag, target := target.toNat, start := nowNs s }] ∧ onlyRegs s s' []) ∧
    (windowOpen s act = false → Claim.runs (.maintWindowDue act target) s fun s' => s' = s)

/-- A frame of the board controller and a datagram access registers as their paths do, and one that is broken is counted;
a measurement is answered signed from SELFTEST on; a configuration request is answered with a retry until a profile has
been tried (15 R431, R435, R444-R446). -/
def Obligations.ManagementResult : Prop :=
  (∀ (s : State) (f : SpiFrame), answers s .spi = true →
    (∀ off v, Claim.writeFrame f off v → ∃ s', Machine.exec (.spiWrite f) s = .next s' ∧
      Machine.exec (.regWrite .spi off 4 (v.setWidth 64)) s = .next s') ∧
    (∀ w0 w1 v c, f.words = [w0, w1, v, c] → spOp w0.toNat = 2 → spN w0.toNat = 1 → f.edges = 128 →
      c ≠ spCrc [w0, w1, v] → Claim.runs (.spiWrite f) s fun s' =>
        getF s' F.MGMT_SPI_STAT_CRC_ERR = min 255 (getF s F.MGMT_SPI_STAT_CRC_ERR + 1) ∧ s'.sys = s.sys ∧
        onlyRegs s s' [blkMgmt]) ∧
    (f.words = [] → Claim.runs (.spiWrite f) s fun s' =>
      getF s' F.MGMT_SPI_STAT_FRAME_ERR = min 65535 (getF s F.MGMT_SPI_STAT_FRAME_ERR + 1) ∧ s'.sys = s.sys ∧
      onlyRegs s s' [blkMgmt]) ∧
    (∀ off x u, Claim.readFrame f off → Machine.exec (.regReadLowerHalf .spi off) s = .next u →
      u.out.getLast? = some (.readData .spi x) → Claim.runs (.spiRead f) s fun s' =>
        s'.out = s.out ++ [.spi [0, BitVec.ofNat 32 x, spCrc [BitVec.ofNat 32 x]]] ∧ s'.sys = u.sys ∧
        onlyRegs s s' [])) ∧
  (∀ (s : State) (port : Fin 2) (l : List W32), answers s .mgmt = true →
    (∀ off v, Claim.writeDgram l off v → ∃ u, Machine.exec (.regWrite .mgmt off 4 (v.setWidth 64)) s = .next u ∧
      Machine.exec (.mgmtDatagram port l true) s = .next { u with out := u.out ++ [.datagram port []] }) ∧
    (∀ off x u, Claim.readDgram l off → Machine.exec (.regReadLowerHalf .mgmt off) s = .next u →
      u.out.getLast? = some (.readData .mgmt x) → Claim.runs (.mgmtDatagram port l true) s fun s' =>
        s'.out = s.out ++ [.datagram port [BitVec.ofNat 32 x]] ∧ s'.sys = u.sys ∧ onlyRegs s s' []) ∧
    (Claim.runs (.mgmtDatagram port l false) s fun s' =>
      s'.sys.boot.dropped = s.sys.boot.dropped + 1 ∧ s'.out = s.out ∧ onlyRegs s s' [])) ∧
  (∀ (s : State) (a : Addr) (seq : W32) (l : List W32), live s = true → a.tc = 7 → epochOk s a.epoch.toNat = true →
    (∀ off v, Claim.writeDgram l off v → ∃ u, Machine.exec (.regWrite .mgmt off 4 (v.setWidth 64)) s = .next u ∧
      Machine.exec (.mgmt a seq l true) s = .next { u with
        out := u.out ++ [.send 7 (mkHdr u 5 a.sdev a.svi a.sinc 0 0 0 (BitVec.ofNat 64 seq.toNat) 0) []] }) ∧
    (Claim.runs (.mgmt a seq l false) s fun s' =>
      s'.sys.boot.dropped = s.sys.boot.dropped + 1 ∧ s'.out = s.out ∧ onlyRegs s s' [])) ∧
  (∀ (s : State), clocked s = true → 2 ≤ bootStage s → bootStage s ≠ 8 →
    ∀ p ∈ [(1, Config.romVersion), (2, bytesOf 48 s.sys.boot.fwHash.toNat), (3, bytesOf 48 s.sys.boot.profHash.toNat),
        (4, bytesOf 8 s.sys.boot.fuseVersion ++ Config.revocation)],
      Claim.runs (.spdmRequest p.1) s fun s' =>
        s'.out = s.out ++ [.spdm p.1 p.2 (Config.sign p.2)] ∧ s'.sys = s.sys ∧ onlyRegs s s' []) ∧
  ∀ (s : State) (d : LinkNo) (r : CfgReq), live s = true → s.sys.boot.linksTrain = true →
    flag s (F.HOST_LINK_LINKUP d) = true →
    (bootStage s ≠ 5 → bootStage s ≠ 6 → Claim.runs (.configurationRequest d r) s fun s' =>
      s'.out = s.out ++ [.config d true] ∧ s'.sys = s.sys ∧ onlyRegs s s' []) ∧
    (bootStage s = 5 ∨ bootStage s = 6 →
      (Claim.runs (.configurationRequest d .other) s fun s' =>
        s'.out = s.out ++ [.config d false] ∧ s'.sys = s.sys ∧ onlyRegs s s' []) ∧
      (∀ k, k < 10 → Claim.runs (.configurationRequest d (.sizeBar2 (2 ^ k))) s fun s' =>
        smGet 0 s'.sys.host.bar2Size d = 2 ^ k ∧ s'.out = s.out ++ [.config d false] ∧ onlyRegs s s' []) ∧
      ∀ on, flag s (F.HOST_LINK_CXL d) = true →
        (Claim.runs (.configurationRequest d (.enableMem on)) s fun s' =>
          flag s' (F.HOST_LINK_MEMEN d) = on ∧ s'.out = s.out ++ [.config d false] ∧ onlyRegs s s' [blkHost]) ∧
        (Claim.runs (.configurationRequest d (.enableCache on)) s fun s' =>
          flag s' (F.HOST_LINK_CACHEEN d) = on ∧ s'.out = s.out ++ [.config d false] ∧ onlyRegs s s' [blkHost]))

namespace Sys2Proof.Claim

/-! Power, clocks and temperature (15 R452, R453, 16). -/

/-- Every group runs at the clock that a ceiling gives it (15 R452). -/
def clocksAt (s s' : State) (ceil : Nat) : Prop := ∀ g < 38, grpClk s' g = clockFor s ceil g

/-- A step of the ceiling waits for the regulator, which has been asked for its voltage (16 R463). -/
def stepAsked (s s' : State) (ceil : Nat) : Prop :=
  s'.sys.power.avs = some ceil ∧ getF s' F.CLKPWR_PWR_CEIL = getF s F.CLKPWR_PWR_CEIL ∧
  s'.out = s.out ++ [.report 10 (bytesOf 2 (getF s (F.CLKPWR_VF_MV ((ceil - 900) / 100))))] ∧ onlyRegs s s' [blkMgmt]

/-- A temperature has been read: TMAX and ALERT, with THERM_ALERT_N driven where ALERT changes (15 R453). -/
def tempRead (s s' : State) (temp : Nat) : Prop :=
  getF s' F.CLKPWR_THERM_TMAX = temp ∧
  flag s' F.CLKPWR_THERM_ALERT = decide (getF s F.CLKPWR_THERM_WARN ≤ temp) ∧
  s'.out = s.out ++ (if flag s F.CLKPWR_THERM_ALERT = decide (getF s F.CLKPWR_THERM_WARN ≤ temp) then []
    else [.pin "THERM_ALERT_N" (decide (temp < getF s F.CLKPWR_THERM_WARN))]) ∧ onlyRegs s s' [blkMgmt]

end Sys2Proof.Claim

/-- A power sample above the cap asks for a step down and slows the clocks at once, one below 95 % of it asks for a step
up; the ceiling changes when the regulator answers, keeps its value when it does not, and a step that waits is taken
after that; the gap of a clock change ends (15 R452, 16 R462, R463, 01 R23). -/
def Claim.PowerControlResult : Prop :=
  ∀ (s : State),
    (∀ g : Fin 38, clocked s = true → Claim.runs (.dvfsGapEnd g) s fun s' =>
      s'.sys.power = { s.sys.power with gaps := s.sys.power.gaps.filter (· != g.val) } ∧ onlyRegs s s' []) ∧
    (live s = true → let cap := getF s F.CLKPWR_PCAP_CAP; let c := getF s F.CLKPWR_PWR_CEIL;
      (∀ w : BitVec 16,
        (cap < w.toNat → s.sys.power.avs = none → 1000 ≤ c → c ≤ 2000 → Claim.runs (.powerControlTick w) s fun s' =>
          getF s' F.CLKPWR_PWR_PWR = w.toNat ∧ Claim.stepAsked s s' (c - 100) ∧ Claim.clocksAt s s' (c - 100)) ∧
        (cap < w.toNat → s.sys.power.avs.isSome = true → Claim.runs (.powerControlTick w) s fun s' =>
          getF s' F.CLKPWR_PWR_PWR = w.toNat ∧ s'.sys.power = { s.sys.power with wanted := some false } ∧
          onlyRegs s s' [blkMgmt]) ∧
        (w.toNat ≤ cap → 95 * cap ≤ 100 * w.toNat → Claim.runs (.powerControlTick w) s fun s' =>
          getF s' F.CLKPWR_PWR_PWR = w.toNat ∧ s'.sys = s.sys ∧ onlyRegs s s' [blkMgmt]) ∧
        (w.toNat ≤ cap → 100 * w.toNat < 95 * cap → s.sys.power.throttling = false → s.sys.power.avs = none →
          800 ≤ c → c ≤ 1800 → Claim.runs (.powerControlTick w) s fun s' =>
            getF s' F.CLKPWR_PWR_PWR = w.toNat ∧ Claim.stepAsked s s' (c + 100) ∧
            s'.sys.power = { s.sys.power with avs := some (c + 100) })) ∧
      (s.sys.power.wanted = none →
        (∀ n, s.sys.power.avs = some n → n < 65536 → Claim.runs .avsComplete s fun s' =>
          getF s' F.CLKPWR_PWR_CEIL = n ∧ s'.sys.power.avs = none ∧ Claim.clocksAt s s' n ∧ s'.out = s.out ∧
          onlyRegs s s' [blkMgmt]) ∧
        (s.sys.power.avs.isSome = true → Claim.runs .avsTimeout s fun s' =>
          getF s' F.CLKPWR_PWR_CEIL = c ∧ flag s' F.CLKPWR_RAIL_STAT_AVSFAIL = true ∧ s'.sys.power.avs = none ∧
          healthAcc s' objDevice = healthAcc s objDevice + 16 * 40 ∧ Claim.clocksAt s s' c ∧
          ∀ t, tileOf s' t = tileOf s t)))

/-- A temperature is read into TMAX and ALERT; at THROT the device throttles, until a tick finds it 5 °C below, and each
tick lowers the ceiling; at CRIT every tile stops issuing until it is below THROT; a trip is for good (15 R453). -/
def Claim.ThermalResult : Prop :=
  ∀ (s : State) (temp : Byte), clocked s = true → let n := temp.toNat;
    (∀ c ∈ [Instr.tempWarn temp, Instr.tempBelowWarn temp], Claim.runs c s fun s' =>
      Claim.tempRead s s' n ∧ s'.sys = s.sys) ∧
    (getF s F.CLKPWR_THERM_THROT ≤ n → Claim.runs (.tempThrot temp) s fun s' =>
      Claim.tempRead s s' n ∧ flag s' F.CLKPWR_THERM_THROTSEEN = true ∧
      s'.sys.power = { s.sys.power with throttling := true }) ∧
    (n < getF s F.CLKPWR_THERM_THROT → Claim.runs (.tempThrot temp) s fun s' =>
      Claim.tempRead s s' n ∧ s'.sys = s.sys) ∧
    (s.sys.power.throttling = true →
      (n + 5 < getF s F.CLKPWR_THERM_THROT → Claim.runs (.throttleTick temp) s fun s' =>
        Claim.tempRead s s' n ∧ s'.sys.power = { s.sys.power with throttling := false }) ∧
      (getF s F.CLKPWR_THERM_THROT ≤ n + 5 → s.sys.power.avs = none → 1000 ≤ getF s F.CLKPWR_PWR_CEIL →
        getF s F.CLKPWR_PWR_CEIL ≤ 2000 → Claim.runs (.throttleTick temp) s fun s' =>
          getF s' F.CLKPWR_THERM_TMAX = n ∧ s'.sys.power.avs = some (getF s F.CLKPWR_PWR_CEIL - 100) ∧
          s'.sys.power.throttling = true ∧ Claim.clocksAt s s' (getF s F.CLKPWR_PWR_CEIL - 100) ∧
          onlyRegs s s' [blkMgmt])) ∧
    (getF s F.CLKPWR_THERM_CRIT ≤ n → Claim.runs (.tempCrit temp) s fun s' =>
      Claim.tempRead s s' n ∧ flag s' F.CLKPWR_THERM_CRITSEEN = true ∧ flag s' F.CLKPWR_THERM_THROTSEEN = true ∧
      s'.sys.power = { s.sys.power with throttling := true, critHold := true } ∧ ∀ t, canIssue s' t = false) ∧
    (n < getF s F.CLKPWR_THERM_THROT → Claim.runs (.tempBelowThrot temp) s fun s' =>
      Claim.tempRead s s' n ∧ s'.sys.power = { s.sys.power with critHold := false }) ∧
    (Claim.runs .thermalTrip s fun s' =>
      s'.sys.power = { s.sys.power with tripped := true } ∧ clocked s' = false ∧
      flag s' F.CLKPWR_THERM_ALERT = true ∧ s'.out = s.out ++ [.pin "THERM_ALERT_N" false] ∧ onlyRegs s s' [blkMgmt])

/-- The loss of the reference in use switches to the other one where failover is on and it is valid, with every group
gated and every PLL relocking, and stops the device otherwise; a management reset follows a stop; a brownout holds the
device in reset until the rails recover (16 R459, R465). -/
def Obligations.ReferenceAndRailResult : Prop :=
  ∀ (s : State),
    (∀ i : Fin 2, s.sys.power.tripped = false →
      (getF s F.CLKPWR_REF_ACTIVE ≠ i.val → Claim.runs (.refclkLoss i) s fun s' =>
        flag s' (losOf i) = true ∧ s'.sys = s.sys ∧ onlyRegs s s' [blkMgmt]) ∧
      (clocked s = true → getF s F.CLKPWR_REF_ACTIVE = i.val →
        (flag s F.CLKPWR_REF_FAILOVER = true → flag s (losOf (1 - i.val)) = false →
          Claim.runs (.refclkLoss i) s fun s' =>
            flag s' (losOf i) = true ∧ getF s' F.CLKPWR_REF_ACTIVE = 1 - i.val ∧
            getF s' F.CLKPWR_RAIL_STAT_FAILOVERS = min 255 (getF s F.CLKPWR_RAIL_STAT_FAILOVERS + 1) ∧
            s'.sys.power = { s.sys.power with gaps := upto 38 } ∧ ∀ t, tileOf s' t = tileOf s t) ∧
        (flag s F.CLKPWR_REF_FAILOVER = false ∨ flag s (losOf (1 - i.val)) = true →
          Claim.runs (.refclkLoss i) s fun s' =>
            flag s' (losOf i) = true ∧ flag s' F.CLKPWR_RAIL_STAT_REFLOSS = true ∧
            s'.sys.power = { s.sys.power with stopped := true } ∧ clocked s' = false ∧ onlyRegs s s' [blkMgmt])) ∧
      ∀ sel : BitVec 2,
        (s.sys.power.stopped = false → Claim.runs (.refclkRestored i sel) s fun s' =>
          flag s' (losOf i) = false ∧ s'.sys = s.sys ∧ onlyRegs s s' [blkMgmt]) ∧
        (s.sys.power.stopped = true → s.sys.boot.inReset = false → Claim.runs (.refclkRestored i sel) s fun s' =>
          Claim.rebooted s s' sel.toNat true ∧ flag s' (losOf i) = false)) ∧
    (∀ rail : Fin 9,
      (Claim.runs (.brownout rail true) s fun s' =>
        s'.sys.boot.inReset = true ∧ (getF s' F.CLKPWR_RAIL_STAT_BROWN).testBit rail = true ∧
        s'.sys.power.tripped = s.sys.power.tripped ∧ (∀ t, tileOf s' t = {}) ∧ bootStage s' = 0 ∧ clocked s' = false ∧
        ∀ a, hbmByte s' a = hbmByte s a) ∧
      (Claim.runs (.brownout rail false) s fun s' =>
        s'.sys.boot.inReset = true ∧ getR s' R.CLKPWR_RAIL_STAT = 0 ∧ s'.sys.power.tripped = false ∧
        (∀ t, tileOf s' t = {}) ∧ bootStage s' = 0 ∧ clocked s' = false)) ∧
    ∀ sel : BitVec 2, s.sys.boot.inReset = true → s.sys.power.tripped = false →
      Claim.runs (.brownoutRecover sel) s fun s' =>
        s'.sys.boot.inReset = false ∧ bootStage s' = 1 ∧ s'.sys.boot.sel = sel.toNat ∧
        (∀ e : Fin 8, pllState s' (.engine e) = 1 ∧ pllState s' (.edge e) = 1) ∧ s'.out = s.out

/-- The power control, and the thermal response. -/
def Obligations.PowerAndThermalResult : Prop :=
  Claim.PowerControlResult ∧ Claim.ThermalResult

namespace Sys2Proof.Claim

/-! Register accesses (00 R4-R7). -/

/-- A register whose writes only set its fields: none of the writes that act (INVENTORY.md, Instructions). -/
def plainReg (d : RegDesc) : Prop := ∀ p ∈ mgmtActs ++ writeActs, p.1 ≠ d.base

/-- What a write of v leaves in a field that held old (00 R4): RW takes the value, RWP and RWX take it where the owner is
quiesced or expert access is on, RW1C clears the bits that are 1, RO and WO keep it. -/
def fieldAfter (s : State) (via : Via) (d : RegDesc) (ix : List Nat) (v : Nat) (f : Nat × Nat × AccType) (old : Nat) : Nat :=
  match f.2.2 with
  | .rw => bits v f.1 f.2.1
  | .rwp => if viaPage via = false ∧ (ownerOf s d ix v).any (viQuiesced s) = true then bits v f.1 f.2.1 else old
  | .rwx => if expertOn s (ownerOf s d ix v) = true then bits v f.1 f.2.1 else old
  | .rw1c => Nat.xor old (Nat.land old (bits v f.1 f.2.1))
  | .ro => old
  | .wo => old

/-- A register has been written with v: its fields hold what they take, and nothing else has changed (00 R4). -/
def regWritten (s s' : State) (via : Via) (d : RegDesc) (ix : List Nat) (v : Nat) : Prop :=
  (∀ f ∈ d.fields, getF s' ⟨regRef d ix, f.1, f.2.1⟩ =
    fieldAfter s via d ix v f (getF s ⟨regRef d ix, f.1, f.2.1⟩)) ∧
  (∀ r : RegRef, r.off ≠ (regRef d ix).off → getR s' r = getR s r) ∧ sameMemory s s' ∧ (∀ t, tileOf s' t = tileOf s t) ∧
  s'.out = s.out ∧ s'.pending = s.pending

/-- The offset o of a path names one register only: the whole of a register of 32 bits, or half h of one of 64 bits. -/
def names32 (s : State) (via : Via) (o a : Nat) (d : RegDesc) (ix : List Nat) (h : Nat) : Prop :=
  Machine.answers s via = true ∧ o % 4 = 0 ∧ Machine.placeOf s via o = .reg a ∧ regs32 a = [(d, ix, h)]

/-- A value has been read and nothing else has changed but the path's latch. -/
def answered (s s' : State) (via : Via) (x : Nat) : Prop :=
  s'.out = s.out ++ [.readData via x] ∧ onlyRegs s s' []

end Sys2Proof.Claim

/-- A write of a register sets each field by its access type and changes nothing else; a register of 64 bits takes a write
of 8 bytes, or two halves, the lower one held in the path's latch; a read answers the register, or half of it, the upper
one as it was when the lower was read; a write of another width is discarded and a read of it answers all ones
(00 R4-R7). -/
def Obligations.RegisterAccessResult : Prop :=
  ∀ (s : State) (via : Via) (o a : Nat) (d : RegDesc) (ix : List Nat),
    (∀ v : W32, Claim.names32 s via o a d ix 0 → d.width = 32 →
      (Claim.plainReg d → ∀ c ∈ [Instr.regWrite via o 4 (v.setWidth 64), Instr.regWriteLowerHalf via o v,
          Instr.regWriteUpperHalf via o v],
        Claim.runs c s fun s' => Claim.regWritten s s' via d ix v.toNat ∧ s'.sys = s.sys) ∧
      (a < 0x100 ∨ 0x190 ≤ a → ∀ c ∈ [Instr.regReadLowerHalf via o, Instr.regReadUpperHalf via o],
        Claim.runs c s fun s' => Claim.answered s s' via (regVal s d ix % 2 ^ 32) ∧ s'.sys = s.sys)) ∧
    (Claim.names32 s via o a d ix 0 → d.width = 64 → a < 0x100 ∨ 0x190 ≤ a →
      (∀ v : W32, Claim.runs (.regWriteLowerHalf via o v) s fun s' =>
        latch64 s' via false = (a, v.toNat) ∧ s'.out = s.out ∧ s'.regs = s.regs ∧ onlyRegs s s' []) ∧
      (Claim.runs (.regReadLowerHalf via o) s fun s' =>
        Claim.answered s s' via (regVal s d ix % 2 ^ 32) ∧ latch64 s' via true = (a, regVal s d ix / 2 ^ 32)) ∧
      (∀ v : W64, o % 8 = 0 → regs64 a = [(d, ix)] → Claim.plainReg d → Claim.runs (.regWrite via o 8 v) s fun s' =>
        Claim.regWritten s s' via d ix v.toNat ∧ s'.sys = s.sys)) ∧
    (Claim.names32 s via o a d ix 4 → d.width = 64 → a < 0x100 ∨ 0x190 ≤ a →
      (∀ (v lo : W32), Claim.plainReg d → latch64 s via false = (a - 4, lo.toNat) → a ≠ 4 →
        Claim.runs (.regWriteUpperHalf via o v) s fun s' =>
          Claim.regWritten s s' via d ix (lo.toNat + v.toNat * 2 ^ 32) ∧ latch64 s' via false = (0, 0)) ∧
      (∀ x, latch64 s via true = (a - 4, x) → Claim.runs (.regReadUpperHalf via o) s fun s' =>
        Claim.answered s s' via x ∧ s'.sys = s.sys) ∧
      ((latch64 s via true).1 ≠ a - 4 → Claim.runs (.regReadUpperHalf via o) s fun s' =>
        Claim.answered s s' via (regVal s d ix / 2 ^ 32) ∧ s'.sys = s.sys)) ∧
    ∀ w, answers s via = true →
      (Claim.runs (.regAccessBadWidth via o w true) s fun s' => s' = s) ∧
      (w ≠ 1 → w ≠ 4 → w ≠ 8 → Claim.runs (.regAccessBadWidth via o w false) s fun s' =>
        Claim.answered s s' via (2 ^ (8 * w) - 1) ∧ s'.sys = s.sys)

/-- Every command but two completes in every state: the queue stays as it is, the canonical form is kept, what has been
sent stays sent, and free values are only taken. The two, an access of the host to memory that does not exist and a frame
moved there, stop by name (00 R4, 05 R135). -/
def Obligations.EveryCommandCompletes : Prop :=
  ∀ (c : Instr) (s : State), (∀ d a x, c ≠ .cxlMemAccess d a x) → (∀ v p f, c ≠ .frameMigrateDone v p f) →
    Claim.runs c s fun t => t.pending = s.pending ∧ (Inv s → Inv t) ∧ (∃ l, t.out = s.out ++ l) ∧ s.free ≤ t.free

/-- A step with a command at the front of the queue is that command's effect on the state with the queue's rest. -/
def Obligations.StepRunsFrontCommand : Prop :=
  ∀ (c : Instr) (s : State) (rest : List Instr),
    step { s with pending := c :: rest } = Machine.exec c { s with pending := rest }

/-- A step with an empty queue is one cycle of the reference clock: global time advances by its rate, unless the reference
has been lost or the rails hold the device in reset (14 R410; log entries 2 and 8: the model's choice of when it passes, and
that the counters of open sources then take free amounts). Nothing else changes but those counters and the count of free
values, which stay too where no such counter is enabled. -/
def Obligations.IdleStepAdvancesTime : Prop :=
  ∀ s : State, s.pending = [] → ∃ s', step s = .next s' ∧
    (s.sys.power.stopped = false → s.sys.boot.inReset = false →
      let u := { s with sys := { s.sys with telem := { s.sys.telem with time := s.sys.telem.time + s.sys.telem.rate } } }
      (openCtrs s = [] → s' = u) ∧ s'.sys = u.sys ∧ s'.hbm = s.hbm ∧ s'.pond = s.pond ∧ s'.tiles = s.tiles ∧
      s'.out = s.out ∧ s'.pending = s.pending ∧ s.free ≤ s'.free ∧
      ∀ r : RegRef, (∀ i ∈ openCtrs s, r.off ≠ (R.TELEM_CTR i).off) → getR s' r = getR s r) ∧
    (s.sys.power.stopped = true ∨ s.sys.boot.inReset = true → s' = s)

/-- After reset the device is in boot stage 0, no VI exists, no work and no command waits, every register holds the reset
value of its table, among them those written out here, and memory reads zero, which is the model's choice for HBM (00 R4,
01 R28, 15 R454, R455, 16 R457, R462; log entries 3 and 4). -/
def Obligations.ResetState : Prop :=
  let s := State.reset
  s.pending = [] ∧ s.out = [] ∧ (∀ d ∈ regMap, ∀ ix, getR s (regRef d ix) = (d.rst ix).toNat) ∧
  (∀ a, hbmByte s a = 0) ∧ (∀ u o, pondByte s u o = 0) ∧ (∀ t, (tileOf s t).core.state = .off ∧ ∀ i, getS s t i = 0) ∧
  bootStage s = 0 ∧ (∀ v < 16, viPresent s v = false ∧ viInc s v = 0) ∧
  getF s F.GLOBAL_DEV_ID_PART = 0x7100 ∧ getF s F.GLOBAL_TILE_COUNT_LOGICAL = 144 ∧
  getF s F.GLOBAL_TILE_COUNT_SPARE = 8 ∧ getF s F.GLOBAL_TILE_COUNT_FENCED = 0 ∧
  (∀ i < 144, tileAt s i = some (if i < 72 then i else i + 4)) ∧ selfDev s = 0x7FFF ∧
  getF s F.CLKPWR_PCAP_CAP = 1900 ∧ getF s F.CLKPWR_PWR_CEIL = 1700 ∧ (∀ v < 16, getF s (F.CLKPWR_TCLK_MAX v) = 1700) ∧
  getF s F.CLKPWR_THERM_WARN = 95 ∧ getF s F.CLKPWR_THERM_THROT = 105 ∧ getF s F.CLKPWR_THERM_CRIT = 115 ∧
  getF s F.CLKPWR_REF_FAILOVER = 1 ∧ getF s F.CLKPWR_REF_PPSW = 100 ∧ getF s (F.CLKPWR_VF_MV 0) = 620 ∧
  getF s (F.CLKPWR_VF_MV 10) = 800 ∧ s.sys.telem.time = 0

/-- The state after reset is in canonical form. -/
def Obligations.ResetIsCanonical : Prop := Inv State.reset

/-- Every step keeps the canonical form: registers, memories and tiles listed once each, in order and never at the value
that an unlisted one reads as, and S0 and P0 of every tile unwritten (03 R69). -/
def Obligations.StepKeepsCanonicalForm : Prop :=
  ∀ s s' : State, Inv s → step s = .next s' → Inv s'
end

