-- ==== Sys2Proof/Laws/Arith.lean ====
section
/-! SUPPORT. The integer results in terms of bit vectors. -/
namespace Sys2Proof.Machine

theorem w64I_eq (i : Int) : w64I i = BitVec.ofInt 64 i := by
  apply BitVec.eq_of_toNat_eq
  unfold w64I ofI
  simp only [BitVec.toNat_ofNat, BitVec.toNat_ofInt]
  omega

theorem divS_eq (a b : W64) : divS a b = if b = 0 then BitVec.allOnes 64 else a.sdiv b := by
  unfold divS; split
  · rfl
  · apply BitVec.eq_of_toInt_eq
    rw [w64I_eq, BitVec.toInt_ofInt, BitVec.toInt_sdiv]
theorem remS_eq (a b : W64) : remS a b = if b = 0 then a else a.srem b := by
  unfold remS; split
  · rfl
  · apply BitVec.eq_of_toInt_eq
    rw [w64I_eq, ← BitVec.toInt_srem, BitVec.ofInt_toInt]
theorem divU_eq (a b : W64) : divU a b = if b = 0 then BitVec.allOnes 64 else a / b := by
  unfold divU; split
  · rfl
  · apply BitVec.eq_of_toNat_eq
    rw [BitVec.toNat_udiv, BitVec.toNat_ofNat, Nat.mod_eq_of_lt]
    exact Nat.lt_of_le_of_lt (Nat.div_le_self _ _) a.isLt
theorem remU_eq (a b : W64) : remU a b = if b = 0 then a else a % b := by
  unfold remU; split
  · rfl
  · apply BitVec.eq_of_toNat_eq
    rw [BitVec.toNat_umod, BitVec.toNat_ofNat, Nat.mod_eq_of_lt]
    exact Nat.lt_of_le_of_lt (Nat.mod_le _ _) a.isLt
theorem mulHS_eq (a b : W64) : mulHS a b = ((a.signExtend 128 * b.signExtend 128) >>> 64).setWidth 64 := by
  unfold mulHS
  apply BitVec.eq_of_toNat_eq
  rw [w64I_eq]
  have h : a.signExtend 128 * b.signExtend 128 = BitVec.ofInt 128 (a.toInt * b.toInt) := by
    apply BitVec.eq_of_toInt_eq
    rw [BitVec.toInt_mul, BitVec.toInt_signExtend_of_le (by omega), BitVec.toInt_signExtend_of_le (by omega), BitVec.toInt_ofInt]
  rw [h, BitVec.toNat_setWidth, BitVec.toNat_ushiftRight, BitVec.toNat_ofInt, BitVec.toNat_ofInt, Nat.shiftRight_eq_div_pow]
  omega
theorem mulHU_eq (a b : W64) : mulHU a b = ((a.setWidth 128 * b.setWidth 128) >>> 64).setWidth 64 := by
  unfold mulHU
  apply BitVec.eq_of_toNat_eq
  rw [BitVec.toNat_setWidth, BitVec.toNat_ushiftRight, BitVec.toNat_mul, BitVec.toNat_setWidth, BitVec.toNat_setWidth,
    BitVec.toNat_ofNat, Nat.shiftRight_eq_div_pow]
  have h : a.toNat * b.toNat < 2 ^ 128 := Nat.lt_of_lt_of_le (Nat.mul_lt_mul'' a.isLt b.isLt) (by decide)
  rw [Nat.mod_eq_of_lt (a := a.toNat) (by omega), Nat.mod_eq_of_lt (a := b.toNat) (by omega), Nat.mod_eq_of_lt h]
theorem saR_eq (a b : W64) : saR a b = a.sshiftRight (b.toNat % 64) := by
  rw [← BitVec.ofInt_toInt (x := a.sshiftRight _), BitVec.toInt_sshiftRight, Int.shiftRight_eq_div_pow]
  exact w64I_eq _
theorem ltS_eq (a b : W64) : ltS a b = a.slt b := by
  simp [ltS, BitVec.slt]
theorem ltU_eq (a b : W64) : ltU a b = a.ult b := by
  simp [ltU, BitVec.ult]

end Sys2Proof.Machine
end

