-- ==== Sys2Proof/Laws/Run.lean ====
section
/-! SUPPORT. How a command runs: the value and the updates of each primitive, so that a proof reads a command without
unfolding the monad. -/
namespace Sys2Proof.Machine

variable {α β : Type}

/-- The value of an action and the updates after it, the latest first, from updates already listed. -/
def runM (m : M α) (s : State) (l : List Upd) : α × List Upd := m s l

theorem act_eq (m : M Unit) (s : State) : act m s = .next (applyLog (runM m s []).2 s) := (rfl)

@[simp] theorem runM_pure (a : α) (s : State) (l : List Upd) : runM (pure a : M α) s l = (a, l) := (rfl)

@[simp] theorem runM_bind (m : M α) (f : α → M β) (s : State) (l : List Upd) :
    runM (m >>= f) s l = runM (f (runM m s l).1) s (runM m s l).2 := (rfl)

@[simp] theorem runM_map (f : α → β) (m : M α) (s : State) (l : List Upd) :
    runM (f <$> m) s l = (f (runM m s l).1, (runM m s l).2) := (rfl)

@[simp] theorem runM_cur (s : State) (l : List Upd) : runM cur s l = (applyLog l s, l) := (rfl)

@[simp] theorem runM_emit (u : Upd) (s : State) (l : List Upd) : runM (emit u) s l = ((), u :: l) := (rfl)

@[simp] theorem runM_ite (c : Prop) [Decidable c] (a b : M α) (s : State) (l : List Upd) :
    runM (if c then a else b) s l = if c then runM a s l else runM b s l := by split <;> rfl

@[simp] theorem runM_dite (c : Prop) [Decidable c] (a : c → M α) (b : ¬c → M α) (s : State) (l : List Upd) :
    runM (if h : c then a h else b h) s l = if h : c then runM (a h) s l else runM (b h) s l := by split <;> rfl

@[simp] theorem runM_whenB (c : Bool) (m : M Unit) (s : State) (l : List Upd) :
    runM (whenB c m) s l = if c then runM m s l else ((), l) := by
  unfold whenB; split <;> rfl

@[simp] theorem runM_forM_nil (f : α → M Unit) (s : State) (l : List Upd) :
    runM (([] : List α).forM f) s l = ((), l) := (rfl)

@[simp] theorem runM_forM_cons (a : α) (as : List α) (f : α → M Unit) (s : State) (l : List Upd) :
    runM ((a :: as).forM f) s l = runM (as.forM f) s (runM (f a) s l).2 := (rfl)

@[simp] theorem applyLog_nil (s : State) : applyLog [] s = s := (rfl)

@[simp] theorem applyLog_cons (u : Upd) (l : List Upd) (s : State) :
    applyLog (u :: l) s = applyUpd u (applyLog l s) := (rfl)

@[simp] theorem runM_putR (r : RegRef) (v : Nat) (s : State) (l : List Upd) :
    runM (putR r v) s l = ((), .reg r.off (BitVec.ofNat 64 v ^^^ r.rst) :: l) := (rfl)

/-- The update that sets a field of a state's register. -/
def fieldUpd (s : State) (f : FieldRef) (v : Nat) : Upd :=
  .reg f.r.off (BitVec.ofNat 64 (setBits (getR s f.r) f.hi f.lo v) ^^^ f.r.rst)

@[simp] theorem runM_putF (f : FieldRef) (v : Nat) (s : State) (l : List Upd) :
    runM (putF f v) s l = ((), fieldUpd (applyLog l s) f v :: l) := (rfl)

@[simp] theorem runM_modSys (g : Sys → Sys) (s : State) (l : List Upd) :
    runM (modSys g) s l = ((), .sys (g (applyLog l s).sys) :: l) := (rfl)

@[simp] theorem runM_send (m : Output) (s : State) (l : List Upd) : runM (send m) s l = ((), .out m :: l) := (rfl)

@[simp] theorem runM_takeFree (s : State) (l : List Upd) :
    runM takeFree s l = (Config.freeValue (applyLog l s).free, .free :: l) := (rfl)

@[simp] theorem runM_modCore (t : Nat) (g : TileCore → TileCore) (s : State) (l : List Upd) :
    runM (modCore t g) s l = ((), .core t (g (tileOf (applyLog l s) t).core) :: l) := (rfl)

/-! What an action keeps. -/

/-- Every update that the action lists satisfies P. -/
def Emits (P : Upd → Prop) (m : M α) : Prop :=
  ∀ s l, ∃ l', (runM m s l).2 = l' ++ l ∧ ∀ u ∈ l', P u

variable {P : Upd → Prop}

theorem emits_pure (a : α) : Emits P (pure a : M α) := fun _ _ => ⟨[], rfl, by simp⟩

theorem emits_cur : Emits P cur := fun _ _ => ⟨[], rfl, by simp⟩

theorem emits_emit {u : Upd} (h : P u) : Emits P (emit u) := fun _ _ => ⟨[u], rfl, by simpa using h⟩

theorem emits_bind {m : M α} {f : α → M β} (hm : Emits P m) (hf : ∀ a, Emits P (f a)) : Emits P (m >>= f) := by
  intro s l
  obtain ⟨l1, h1, p1⟩ := hm s l
  obtain ⟨l2, h2, p2⟩ := hf (runM m s l).1 s (runM m s l).2
  refine ⟨l2 ++ l1, by rw [runM_bind, h2, h1, List.append_assoc], ?_⟩
  intro u hu
  rcases List.mem_append.1 hu with h | h
  · exact p2 u h
  · exact p1 u h

theorem emits_ite {c : Prop} [Decidable c] {a b : M α} (ha : c → Emits P a) (hb : ¬c → Emits P b) :
    Emits P (if c then a else b) := by
  split
  · exact ha ‹_›
  · exact hb ‹_›

theorem emits_whenB {c : Bool} {m : M Unit} (h : c = true → Emits P m) : Emits P (whenB c m) := by
  unfold whenB; exact emits_ite h fun _ => emits_pure ()

theorem emits_forM {as : List α} {f : α → M Unit} (h : ∀ a ∈ as, Emits P (f a)) : Emits P (as.forM f) := by
  induction as with
  | nil => exact emits_pure ()
  | cons a as ih =>
    exact emits_bind (h a (by simp)) fun _ => ih fun b hb => h b (by simp [hb])

theorem emits_mono {Q : Upd → Prop} {m : M α} (h : Emits P m) (hPQ : ∀ u, P u → Q u) : Emits Q m := by
  intro s l
  obtain ⟨l', e, p⟩ := h s l
  exact ⟨l', e, fun u hu => hPQ u (p u hu)⟩

theorem emits_putR {r : RegRef} {v : Nat} (h : ∀ x, P (.reg r.off x)) : Emits P (putR r v) := emits_emit (h _)

theorem emits_putF {f : FieldRef} {v : Nat} (h : ∀ x, P (.reg f.r.off x)) : Emits P (putF f v) :=
  emits_bind emits_cur fun _ => emits_putR h

theorem emits_modSys {g : Sys → Sys} (h : ∀ y, P (.sys y)) : Emits P (modSys g) :=
  emits_bind emits_cur fun _ => emits_emit (h _)

theorem emits_send {m : Output} (h : P (.out m)) : Emits P (send m) := emits_emit h

theorem emits_takeFree (h : P .free) : Emits P takeFree :=
  emits_bind emits_cur fun _ => emits_bind (emits_emit h) fun _ => emits_pure _

theorem emits_modCore {t : Nat} {g : TileCore → TileCore} (h : ∀ c, P (.core t c)) : Emits P (modCore t g) :=
  emits_bind emits_cur fun _ => emits_emit (h _)

/-- A relation that every update of the action keeps, the whole action keeps. -/
theorem emits_rel {m : M α} (h : Emits P m) (R : State → State → Prop) (hr : ∀ s, R s s)
    (ht : ∀ s u s', R s s' → P u → R s (applyUpd u s')) (s : State) (l : List Upd) :
    R (applyLog l s) (applyLog (runM m s l).2 s) := by
  obtain ⟨l', e, p⟩ := h s l
  rw [e]; clear e
  induction l' with
  | nil => exact hr _
  | cons u l' ih =>
    exact ht _ _ _ (ih fun v hv => p v (by simp [hv])) (p u (by simp))

/-- What every update of an action leaves alone, the action leaves alone. -/
theorem emits_same {γ : Type} {m : M α} (h : Emits P m) (g : State → γ)
    (hg : ∀ u s, P u → g (applyUpd u s) = g s) (s : State) (l : List Upd) :
    g (applyLog (runM m s l).2 s) = g (applyLog l s) :=
  emits_rel h (fun a b => g b = g a) (fun _ => rfl) (fun _ _ _ e p => (hg _ _ p).trans e) s l

end Sys2Proof.Machine
end

