-- ==== Sys2Proof/Laws/Maps.lean ====
section
/-! SUPPORT. The laws of the sparse maps: reading after a write, and the canonical form. -/
namespace Sys2Proof.Machine

variable {α : Type}

theorem smGet_smDel (d : α) (m : SMap α) (k i : Nat) :
    smGet d (smDel m k) i = if i = k then d else smGet d m i := by
  induction m with
  | nil => simp [smDel, smGet]
  | cons p m ih =>
    obtain ⟨j, x⟩ := p
    simp only [smDel, smGet]
    by_cases h : j = k
    · subst h
      rw [if_pos rfl, ih]
      by_cases h2 : i = j
      · rw [if_pos h2, if_pos h2]
      · rw [if_neg h2, if_neg h2, if_neg (Ne.symm h2)]
    · rw [if_neg h]
      simp only [smGet, ih]
      by_cases h2 : j = i
      · subst h2; rw [if_pos rfl, if_neg h, if_pos rfl]
      · rw [if_neg h2, if_neg h2]

theorem smGet_smIns (d : α) (m : SMap α) (k i : Nat) (v : α) :
    smGet d (smIns m k v) i = if i = k then v else smGet d m i := by
  induction m with
  | nil => simp only [smIns, smGet, eq_comm]
  | cons p m ih =>
    obtain ⟨j, x⟩ := p
    simp only [smIns]
    by_cases h : j = k
    · subst h
      simp only [if_true, smGet]
      by_cases h2 : i = j
      · rw [if_pos h2.symm, if_pos h2]
      · rw [if_neg (Ne.symm h2), if_neg h2, if_neg (Ne.symm h2)]
    · rw [if_neg h]
      by_cases h3 : k < j
      · rw [if_pos h3]
        simp only [smGet, eq_comm (a := i)]
      · rw [if_neg h3]
        simp only [smGet, ih]
        by_cases h2 : j = i
        · subst h2; rw [if_pos rfl, if_neg h, if_pos rfl]
        · rw [if_neg h2, if_neg h2]

/-- Reading after a write, at the key written and at every other. -/
@[simp] theorem smGet_smSet [DecidableEq α] (d : α) (m : SMap α) (k i : Nat) (v : α) :
    smGet d (smSet d m k v) i = if i = k then v else smGet d m i := by
  unfold smSet
  split
  · simp_all [smGet_smDel]
  · exact smGet_smIns d m k i v

theorem smOkFrom_mono [DecidableEq α] (d : α) (b c : Nat) (m : SMap α) (hbc : c ≤ b) (h : smOkFrom d b m = true) :
    smOkFrom d c m = true := by
  cases m with
  | nil => rfl
  | cons p m => simp_all [smOkFrom]; omega

theorem smOkFrom_smDel [DecidableEq α] (d : α) (m : SMap α) (k : Nat) :
    ∀ b, smOkFrom d b m = true → smOkFrom d b (smDel m k) = true := by
  induction m with
  | nil => intro b _; rfl
  | cons p m ih =>
    obtain ⟨j, x⟩ := p
    intro b h
    simp only [smOkFrom, Bool.and_eq_true, decide_eq_true_eq] at h
    simp only [smDel]
    split
    · exact ih _ (smOkFrom_mono d (j + 1) b m (by omega) h.2)
    · simp only [smOkFrom, Bool.and_eq_true, decide_eq_true_eq]; exact ⟨h.1, ih _ h.2⟩

theorem smOkFrom_smIns [DecidableEq α] (d : α) (m : SMap α) (k : Nat) (v : α) (hv : v ≠ d) :
    ∀ b, b ≤ k → smOkFrom d b m = true → smOkFrom d b (smIns m k v) = true := by
  induction m with
  | nil => intro b hb _; simp [smIns, smOkFrom, hb, hv]
  | cons p m ih =>
    obtain ⟨j, x⟩ := p
    intro b hb h
    simp only [smOkFrom, Bool.and_eq_true, decide_eq_true_eq] at h
    simp only [smIns]
    split
    · simp_all [smOkFrom]
    · split
      · simp only [smOkFrom, Bool.and_eq_true, decide_eq_true_eq]
        exact ⟨⟨hb, hv⟩, ⟨by omega, h.1.2⟩, h.2⟩
      · simp only [smOkFrom, Bool.and_eq_true, decide_eq_true_eq]; exact ⟨h.1, ih _ (by omega) h.2⟩

/-- A write keeps the canonical form. -/
theorem smOk_smSet [DecidableEq α] (d : α) (m : SMap α) (k : Nat) (v : α) (h : smOk d m = true) :
    smOk d (smSet d m k v) = true := by
  unfold smSet smOk
  split
  · exact smOkFrom_smDel d m k 0 h
  · exact smOkFrom_smIns d m k v ‹_› 0 (by omega) h

theorem smOk_smPut (l : List Byte) : ∀ (m : SMap Byte) (a : Nat), smOk 0 m = true → smOk 0 (smPut m a l) = true := by
  induction l with
  | nil => intro m a h; exact h
  | cons b l ih => intro m a h; exact ih _ _ (smOk_smSet 0 m a b h)

theorem smOkFrom_smDrop [DecidableEq α] (d : α) (a b : Nat) (m : SMap α) :
    ∀ c, smOkFrom d c m = true → smOkFrom d c (smDrop a b m) = true := by
  induction m with
  | nil => intro c _; rfl
  | cons p m ih =>
    obtain ⟨j, x⟩ := p
    intro c h
    simp only [smOkFrom, Bool.and_eq_true, decide_eq_true_eq] at h
    simp only [smDrop, List.filter_cons]
    split
    · simp only [smOkFrom, Bool.and_eq_true, decide_eq_true_eq]; exact ⟨h.1, ih _ h.2⟩
    · exact ih _ (smOkFrom_mono d (j + 1) c m (by omega) h.2)

theorem smOk_smDrop [DecidableEq α] (d : α) (a b : Nat) (m : SMap α) (h : smOk d m = true) :
    smOk d (smDrop a b m) = true := smOkFrom_smDrop d a b m 0 h

theorem smGet_smDrop (d : α) (a b i : Nat) (m : SMap α) :
    smGet d (smDrop a b m) i = if a ≤ i ∧ i < b then d else smGet d m i := by
  induction m with
  | nil => simp [smDrop, smGet]
  | cons p m ih =>
    obtain ⟨j, x⟩ := p
    simp only [smDrop, List.filter_cons] at ih ⊢
    split
    · simp only [smGet, ih]; split <;> simp_all; omega
    · simp only [smGet, ih]; split <;> simp_all; intros; omega

/-- Reading a byte after a run of bytes is written. -/
theorem smGet_smPut (l : List Byte) : ∀ (m : SMap Byte) (a i : Nat),
    smGet 0 (smPut m a l) i = if a ≤ i ∧ i < a + l.length then l.getD (i - a) 0 else smGet 0 m i := by
  induction l with
  | nil => intro m a i; simp [smPut] <;> (intros; omega)
  | cons b l ih =>
    intro m a i
    simp only [smPut, ih, smGet_smSet, List.length_cons]
    by_cases h : i = a
    · subst h
      rw [if_neg (by omega), if_pos rfl, if_pos (by omega)]; simp
    · by_cases h2 : a ≤ i ∧ i < a + (l.length + 1)
      · have e : i - a = (i - (a + 1)) + 1 := by omega
        rw [if_pos (by omega), if_pos h2, e]; simp
      · rw [if_neg (by omega), if_neg h2, if_neg h]

/-- In canonical form every listed entry is what its key reads as. -/
theorem smGet_of_mem [DecidableEq α] (d : α) (m : SMap α) (k : Nat) (x : α) :
    ∀ b, smOkFrom d b m = true → (k, x) ∈ m → b ≤ k ∧ smGet d m k = x := by
  induction m with
  | nil => intro _ _ h; cases h
  | cons p m ih =>
    obtain ⟨j, y⟩ := p
    intro b h hm
    simp only [smOkFrom, Bool.and_eq_true, decide_eq_true_eq] at h
    rcases List.mem_cons.1 hm with e | e
    · cases e; simp [smGet, h.1.1]
    · obtain ⟨h1, h2⟩ := ih _ h.2 e
      refine ⟨by omega, ?_⟩
      simp only [smGet]; rw [if_neg (by omega), h2]

theorem smIns_all (m : SMap α) (q : Nat × α → Bool) (k : Nat) (v : α) (h : m.all q = true) (hv : q (k, v) = true) :
    (smIns m k v).all q = true := by
  induction m with
  | nil => simp [smIns, hv]
  | cons p m ih =>
    obtain ⟨j, x⟩ := p
    simp only [List.all_cons, Bool.and_eq_true] at h
    simp only [smIns]
    split
    · simp [hv, h.2]
    · split
      · simp [hv, h.1, h.2]
      · simp [h.1, ih h.2]

theorem smDel_all (m : SMap α) (q : Nat × α → Bool) (k : Nat) (h : m.all q = true) : (smDel m k).all q = true := by
  induction m with
  | nil => rfl
  | cons p m ih =>
    obtain ⟨j, x⟩ := p
    simp only [List.all_cons, Bool.and_eq_true] at h
    simp only [smDel]
    split
    · exact ih h.2
    · simp [h.1, ih h.2]

theorem smSet_all [DecidableEq α] (d : α) (m : SMap α) (q : Nat × α → Bool) (k : Nat) (v : α) (h : m.all q = true)
    (hv : q (k, v) = true) : (smSet d m k v).all q = true := by
  unfold smSet
  split
  · exact smDel_all m q k h
  · exact smIns_all m q k v h hv

theorem smGet_all (d : α) (m : SMap α) (q : α → Bool) (k : Nat) (h : m.all (fun p => q p.2) = true) (hd : q d = true) :
    q (smGet d m k) = true := by
  induction m with
  | nil => exact hd
  | cons p m ih =>
    obtain ⟨j, x⟩ := p
    simp only [List.all_cons, Bool.and_eq_true] at h
    simp only [smGet]
    split
    · exact h.1
    · exact ih h.2

end Sys2Proof.Machine
end

