-- ==== Sys2Proof/Laws/State.lean ====
section
/-! SUPPORT. What each primitive update does to each part of the state. -/
namespace Sys2Proof.Machine

open Sys2Proof

@[simp] theorem hbm_reg (off : Nat) (v : W64) (s : State) : (applyUpd (.reg off v) s).hbm = s.hbm := (rfl)
@[simp] theorem pond_reg (off : Nat) (v : W64) (s : State) : (applyUpd (.reg off v) s).pond = s.pond := (rfl)
@[simp] theorem tiles_reg (off : Nat) (v : W64) (s : State) : (applyUpd (.reg off v) s).tiles = s.tiles := (rfl)
@[simp] theorem sys_reg (off : Nat) (v : W64) (s : State) : (applyUpd (.reg off v) s).sys = s.sys := (rfl)
@[simp] theorem out_reg (off : Nat) (v : W64) (s : State) : (applyUpd (.reg off v) s).out = s.out := (rfl)
@[simp] theorem free_reg (off : Nat) (v : W64) (s : State) : (applyUpd (.reg off v) s).free = s.free := (rfl)
@[simp] theorem pending_reg (off : Nat) (v : W64) (s : State) : (applyUpd (.reg off v) s).pending = s.pending := (rfl)
@[simp] theorem regs_hbm (a : Nat) (l : List Byte) (s : State) : (applyUpd (.hbm a l) s).regs = s.regs := (rfl)
@[simp] theorem pond_hbm (a : Nat) (l : List Byte) (s : State) : (applyUpd (.hbm a l) s).pond = s.pond := (rfl)
@[simp] theorem tiles_hbm (a : Nat) (l : List Byte) (s : State) : (applyUpd (.hbm a l) s).tiles = s.tiles := (rfl)
@[simp] theorem sys_hbm (a : Nat) (l : List Byte) (s : State) : (applyUpd (.hbm a l) s).sys = s.sys := (rfl)
@[simp] theorem out_hbm (a : Nat) (l : List Byte) (s : State) : (applyUpd (.hbm a l) s).out = s.out := (rfl)
@[simp] theorem free_hbm (a : Nat) (l : List Byte) (s : State) : (applyUpd (.hbm a l) s).free = s.free := (rfl)
@[simp] theorem pending_hbm (a : Nat) (l : List Byte) (s : State) : (applyUpd (.hbm a l) s).pending = s.pending :=
    (rfl)
@[simp] theorem regs_pond (t : Nat) (off : Nat) (l : List Byte) (s : State) :
    (applyUpd (.pond t off l) s).regs = s.regs := (rfl)
@[simp] theorem hbm_pond (t : Nat) (off : Nat) (l : List Byte) (s : State) : (applyUpd (.pond t off l) s).hbm = s.hbm :=
    (rfl)
@[simp] theorem tiles_pond (t : Nat) (off : Nat) (l : List Byte) (s : State) :
    (applyUpd (.pond t off l) s).tiles = s.tiles := (rfl)
@[simp] theorem sys_pond (t : Nat) (off : Nat) (l : List Byte) (s : State) : (applyUpd (.pond t off l) s).sys = s.sys :=
    (rfl)
@[simp] theorem out_pond (t : Nat) (off : Nat) (l : List Byte) (s : State) : (applyUpd (.pond t off l) s).out = s.out :=
    (rfl)
@[simp] theorem free_pond (t : Nat) (off : Nat) (l : List Byte) (s : State) :
    (applyUpd (.pond t off l) s).free = s.free := (rfl)
@[simp] theorem pending_pond (t : Nat) (off : Nat) (l : List Byte) (s : State) :
    (applyUpd (.pond t off l) s).pending = s.pending := (rfl)
@[simp] theorem regs_pondZero (t : Nat) (s : State) : (applyUpd (.pondZero t) s).regs = s.regs := (rfl)
@[simp] theorem hbm_pondZero (t : Nat) (s : State) : (applyUpd (.pondZero t) s).hbm = s.hbm := (rfl)
@[simp] theorem tiles_pondZero (t : Nat) (s : State) : (applyUpd (.pondZero t) s).tiles = s.tiles := (rfl)
@[simp] theorem sys_pondZero (t : Nat) (s : State) : (applyUpd (.pondZero t) s).sys = s.sys := (rfl)
@[simp] theorem out_pondZero (t : Nat) (s : State) : (applyUpd (.pondZero t) s).out = s.out := (rfl)
@[simp] theorem free_pondZero (t : Nat) (s : State) : (applyUpd (.pondZero t) s).free = s.free := (rfl)
@[simp] theorem pending_pondZero (t : Nat) (s : State) : (applyUpd (.pondZero t) s).pending = s.pending := (rfl)
@[simp] theorem regs_core (t : Nat) (c : TileCore) (s : State) : (applyUpd (.core t c) s).regs = s.regs := (rfl)
@[simp] theorem hbm_core (t : Nat) (c : TileCore) (s : State) : (applyUpd (.core t c) s).hbm = s.hbm := (rfl)
@[simp] theorem pond_core (t : Nat) (c : TileCore) (s : State) : (applyUpd (.core t c) s).pond = s.pond := (rfl)
@[simp] theorem sys_core (t : Nat) (c : TileCore) (s : State) : (applyUpd (.core t c) s).sys = s.sys := (rfl)
@[simp] theorem out_core (t : Nat) (c : TileCore) (s : State) : (applyUpd (.core t c) s).out = s.out := (rfl)
@[simp] theorem free_core (t : Nat) (c : TileCore) (s : State) : (applyUpd (.core t c) s).free = s.free := (rfl)
@[simp] theorem pending_core (t : Nat) (c : TileCore) (s : State) : (applyUpd (.core t c) s).pending = s.pending :=
    (rfl)
@[simp] theorem regs_csr (t : Nat) (n : Nat) (v : W64) (s : State) : (applyUpd (.csr t n v) s).regs = s.regs := (rfl)
@[simp] theorem hbm_csr (t : Nat) (n : Nat) (v : W64) (s : State) : (applyUpd (.csr t n v) s).hbm = s.hbm := (rfl)
@[simp] theorem pond_csr (t : Nat) (n : Nat) (v : W64) (s : State) : (applyUpd (.csr t n v) s).pond = s.pond := (rfl)
@[simp] theorem sys_csr (t : Nat) (n : Nat) (v : W64) (s : State) : (applyUpd (.csr t n v) s).sys = s.sys := (rfl)
@[simp] theorem out_csr (t : Nat) (n : Nat) (v : W64) (s : State) : (applyUpd (.csr t n v) s).out = s.out := (rfl)
@[simp] theorem free_csr (t : Nat) (n : Nat) (v : W64) (s : State) : (applyUpd (.csr t n v) s).free = s.free := (rfl)
@[simp] theorem pending_csr (t : Nat) (n : Nat) (v : W64) (s : State) : (applyUpd (.csr t n v) s).pending = s.pending :=
    (rfl)
@[simp] theorem regs_sreg (t : Nat) (i : Nat) (v : W64) (s : State) : (applyUpd (.sreg t i v) s).regs = s.regs := by
  simp only [applyUpd]; split <;> rfl
@[simp] theorem hbm_sreg (t : Nat) (i : Nat) (v : W64) (s : State) : (applyUpd (.sreg t i v) s).hbm = s.hbm := by
  simp only [applyUpd]; split <;> rfl
@[simp] theorem pond_sreg (t : Nat) (i : Nat) (v : W64) (s : State) : (applyUpd (.sreg t i v) s).pond = s.pond := by
  simp only [applyUpd]; split <;> rfl
@[simp] theorem sys_sreg (t : Nat) (i : Nat) (v : W64) (s : State) : (applyUpd (.sreg t i v) s).sys = s.sys := by
  simp only [applyUpd]; split <;> rfl
@[simp] theorem out_sreg (t : Nat) (i : Nat) (v : W64) (s : State) : (applyUpd (.sreg t i v) s).out = s.out := by
  simp only [applyUpd]; split <;> rfl
@[simp] theorem free_sreg (t : Nat) (i : Nat) (v : W64) (s : State) : (applyUpd (.sreg t i v) s).free = s.free := by
  simp only [applyUpd]; split <;> rfl
@[simp] theorem pending_sreg (t : Nat) (i : Nat) (v : W64) (s : State) :
    (applyUpd (.sreg t i v) s).pending = s.pending := by
  simp only [applyUpd]; split <;> rfl
@[simp] theorem regs_vreg (t : Nat) (i : Nat) (v : BitVec 8192) (s : State) :
    (applyUpd (.vreg t i v) s).regs = s.regs := (rfl)
@[simp] theorem hbm_vreg (t : Nat) (i : Nat) (v : BitVec 8192) (s : State) : (applyUpd (.vreg t i v) s).hbm = s.hbm :=
    (rfl)
@[simp] theorem pond_vreg (t : Nat) (i : Nat) (v : BitVec 8192) (s : State) :
    (applyUpd (.vreg t i v) s).pond = s.pond := (rfl)
@[simp] theorem sys_vreg (t : Nat) (i : Nat) (v : BitVec 8192) (s : State) : (applyUpd (.vreg t i v) s).sys = s.sys :=
    (rfl)
@[simp] theorem out_vreg (t : Nat) (i : Nat) (v : BitVec 8192) (s : State) : (applyUpd (.vreg t i v) s).out = s.out :=
    (rfl)
@[simp] theorem free_vreg (t : Nat) (i : Nat) (v : BitVec 8192) (s : State) :
    (applyUpd (.vreg t i v) s).free = s.free := (rfl)
@[simp] theorem pending_vreg (t : Nat) (i : Nat) (v : BitVec 8192) (s : State) :
    (applyUpd (.vreg t i v) s).pending = s.pending := (rfl)
@[simp] theorem regs_preg (t : Nat) (i : Nat) (v : BitVec 1024) (s : State) :
    (applyUpd (.preg t i v) s).regs = s.regs := by
  simp only [applyUpd]; split <;> rfl
@[simp] theorem hbm_preg (t : Nat) (i : Nat) (v : BitVec 1024) (s : State) : (applyUpd (.preg t i v) s).hbm = s.hbm :=
    by
  simp only [applyUpd]; split <;> rfl
@[simp] theorem pond_preg (t : Nat) (i : Nat) (v : BitVec 1024) (s : State) :
    (applyUpd (.preg t i v) s).pond = s.pond := by
  simp only [applyUpd]; split <;> rfl
@[simp] theorem sys_preg (t : Nat) (i : Nat) (v : BitVec 1024) (s : State) : (applyUpd (.preg t i v) s).sys = s.sys :=
    by
  simp only [applyUpd]; split <;> rfl
@[simp] theorem out_preg (t : Nat) (i : Nat) (v : BitVec 1024) (s : State) : (applyUpd (.preg t i v) s).out = s.out :=
    by
  simp only [applyUpd]; split <;> rfl
@[simp] theorem free_preg (t : Nat) (i : Nat) (v : BitVec 1024) (s : State) :
    (applyUpd (.preg t i v) s).free = s.free := by
  simp only [applyUpd]; split <;> rfl
@[simp] theorem pending_preg (t : Nat) (i : Nat) (v : BitVec 1024) (s : State) :
    (applyUpd (.preg t i v) s).pending = s.pending := by
  simp only [applyUpd]; split <;> rfl
@[simp] theorem regs_acc (t : Nat) (k : Nat) (v : W64) (s : State) : (applyUpd (.acc t k v) s).regs = s.regs := (rfl)
@[simp] theorem hbm_acc (t : Nat) (k : Nat) (v : W64) (s : State) : (applyUpd (.acc t k v) s).hbm = s.hbm := (rfl)
@[simp] theorem pond_acc (t : Nat) (k : Nat) (v : W64) (s : State) : (applyUpd (.acc t k v) s).pond = s.pond := (rfl)
@[simp] theorem sys_acc (t : Nat) (k : Nat) (v : W64) (s : State) : (applyUpd (.acc t k v) s).sys = s.sys := (rfl)
@[simp] theorem out_acc (t : Nat) (k : Nat) (v : W64) (s : State) : (applyUpd (.acc t k v) s).out = s.out := (rfl)
@[simp] theorem free_acc (t : Nat) (k : Nat) (v : W64) (s : State) : (applyUpd (.acc t k v) s).free = s.free := (rfl)
@[simp] theorem pending_acc (t : Nat) (k : Nat) (v : W64) (s : State) : (applyUpd (.acc t k v) s).pending = s.pending :=
    (rfl)
@[simp] theorem regs_accZero (t : Nat) (a : Nat) (s : State) : (applyUpd (.accZero t a) s).regs = s.regs := (rfl)
@[simp] theorem hbm_accZero (t : Nat) (a : Nat) (s : State) : (applyUpd (.accZero t a) s).hbm = s.hbm := (rfl)
@[simp] theorem pond_accZero (t : Nat) (a : Nat) (s : State) : (applyUpd (.accZero t a) s).pond = s.pond := (rfl)
@[simp] theorem sys_accZero (t : Nat) (a : Nat) (s : State) : (applyUpd (.accZero t a) s).sys = s.sys := (rfl)
@[simp] theorem out_accZero (t : Nat) (a : Nat) (s : State) : (applyUpd (.accZero t a) s).out = s.out := (rfl)
@[simp] theorem free_accZero (t : Nat) (a : Nat) (s : State) : (applyUpd (.accZero t a) s).free = s.free := (rfl)
@[simp] theorem pending_accZero (t : Nat) (a : Nat) (s : State) : (applyUpd (.accZero t a) s).pending = s.pending :=
    (rfl)
@[simp] theorem regs_tileClear (t : Nat) (s : State) : (applyUpd (.tileClear t) s).regs = s.regs := (rfl)
@[simp] theorem hbm_tileClear (t : Nat) (s : State) : (applyUpd (.tileClear t) s).hbm = s.hbm := (rfl)
@[simp] theorem pond_tileClear (t : Nat) (s : State) : (applyUpd (.tileClear t) s).pond = s.pond := (rfl)
@[simp] theorem sys_tileClear (t : Nat) (s : State) : (applyUpd (.tileClear t) s).sys = s.sys := (rfl)
@[simp] theorem out_tileClear (t : Nat) (s : State) : (applyUpd (.tileClear t) s).out = s.out := (rfl)
@[simp] theorem free_tileClear (t : Nat) (s : State) : (applyUpd (.tileClear t) s).free = s.free := (rfl)
@[simp] theorem pending_tileClear (t : Nat) (s : State) : (applyUpd (.tileClear t) s).pending = s.pending := (rfl)
@[simp] theorem regs_sys (y : Sys) (s : State) : (applyUpd (.sys y) s).regs = s.regs := (rfl)
@[simp] theorem hbm_sys (y : Sys) (s : State) : (applyUpd (.sys y) s).hbm = s.hbm := (rfl)
@[simp] theorem pond_sys (y : Sys) (s : State) : (applyUpd (.sys y) s).pond = s.pond := (rfl)
@[simp] theorem tiles_sys (y : Sys) (s : State) : (applyUpd (.sys y) s).tiles = s.tiles := (rfl)
@[simp] theorem out_sys (y : Sys) (s : State) : (applyUpd (.sys y) s).out = s.out := (rfl)
@[simp] theorem free_sys (y : Sys) (s : State) : (applyUpd (.sys y) s).free = s.free := (rfl)
@[simp] theorem pending_sys (y : Sys) (s : State) : (applyUpd (.sys y) s).pending = s.pending := (rfl)
@[simp] theorem hbm_reset (y : Sys) (s : State) : (applyUpd (.reset y) s).hbm = s.hbm := (rfl)
@[simp] theorem out_reset (y : Sys) (s : State) : (applyUpd (.reset y) s).out = s.out := (rfl)
@[simp] theorem free_reset (y : Sys) (s : State) : (applyUpd (.reset y) s).free = s.free := (rfl)
@[simp] theorem pending_reset (y : Sys) (s : State) : (applyUpd (.reset y) s).pending = s.pending := (rfl)
@[simp] theorem regs_out (m : Output) (s : State) : (applyUpd (.out m) s).regs = s.regs := (rfl)
@[simp] theorem hbm_out (m : Output) (s : State) : (applyUpd (.out m) s).hbm = s.hbm := (rfl)
@[simp] theorem pond_out (m : Output) (s : State) : (applyUpd (.out m) s).pond = s.pond := (rfl)
@[simp] theorem tiles_out (m : Output) (s : State) : (applyUpd (.out m) s).tiles = s.tiles := (rfl)
@[simp] theorem sys_out (m : Output) (s : State) : (applyUpd (.out m) s).sys = s.sys := (rfl)
@[simp] theorem free_out (m : Output) (s : State) : (applyUpd (.out m) s).free = s.free := (rfl)
@[simp] theorem pending_out (m : Output) (s : State) : (applyUpd (.out m) s).pending = s.pending := (rfl)
@[simp] theorem regs_free  (s : State) : (applyUpd (.free) s).regs = s.regs := (rfl)
@[simp] theorem hbm_free  (s : State) : (applyUpd (.free) s).hbm = s.hbm := (rfl)
@[simp] theorem pond_free  (s : State) : (applyUpd (.free) s).pond = s.pond := (rfl)
@[simp] theorem tiles_free  (s : State) : (applyUpd (.free) s).tiles = s.tiles := (rfl)
@[simp] theorem sys_free  (s : State) : (applyUpd (.free) s).sys = s.sys := (rfl)
@[simp] theorem out_free  (s : State) : (applyUpd (.free) s).out = s.out := (rfl)
@[simp] theorem pending_free  (s : State) : (applyUpd (.free) s).pending = s.pending := (rfl)

theorem tileOf_setTile (s : State) (t u : Nat) (g : Tile → Tile) :
    tileOf (setTile s t g) u = if u = t then g (tileOf s t) else tileOf s u := by
  unfold tileOf setTile; simp

theorem tileOf_core (t : Nat) (c : TileCore) (s : State) (u : Nat) :
    tileOf (applyUpd (.core t c) s) u = if u = t then { tileOf s t with core := c } else tileOf s u :=
  tileOf_setTile s t u _
theorem tileOf_csr (t n : Nat) (v : W64) (s : State) (u : Nat) : tileOf (applyUpd (.csr t n v) s) u =
    if u = t then { tileOf s t with csr := smSet 0 (tileOf s t).csr n v } else tileOf s u := tileOf_setTile s t u _
theorem tileOf_sreg (t i : Nat) (v : W64) (s : State) (u : Nat) : tileOf (applyUpd (.sreg t i v) s) u =
    if u = t ∧ i ≠ 0 then { tileOf s t with s := smSet 0 (tileOf s t).s i v } else tileOf s u := by
  simp only [applyUpd]
  by_cases h : i = 0
  · rw [if_pos h, if_neg (fun e => e.2 h)]
  · rw [if_neg h, tileOf_setTile]; simp only [ne_eq, h, not_false_eq_true, and_true]
theorem tileOf_vreg (t i : Nat) (v : BitVec 8192) (s : State) (u : Nat) : tileOf (applyUpd (.vreg t i v) s) u =
    if u = t then { tileOf s t with v := smSet 0 (tileOf s t).v i v } else tileOf s u := tileOf_setTile s t u _
theorem tileOf_preg (t i : Nat) (v : BitVec 1024) (s : State) (u : Nat) : tileOf (applyUpd (.preg t i v) s) u =
    if u = t ∧ i ≠ 0 then { tileOf s t with p := smSet 0 (tileOf s t).p i v } else tileOf s u := by
  simp only [applyUpd]
  by_cases h : i = 0
  · rw [if_pos h, if_neg (fun e => e.2 h)]
  · rw [if_neg h, tileOf_setTile]; simp only [ne_eq, h, not_false_eq_true, and_true]
theorem tileOf_acc (t k : Nat) (v : W64) (s : State) (u : Nat) : tileOf (applyUpd (.acc t k v) s) u =
    if u = t then { tileOf s t with acc := smSet 0 (tileOf s t).acc k v } else tileOf s u := tileOf_setTile s t u _
theorem tileOf_accZero (t a : Nat) (s : State) (u : Nat) : tileOf (applyUpd (.accZero t a) s) u =
    if u = t then { tileOf s t with acc := smDrop (a * 8192) ((a + 1) * 8192) (tileOf s t).acc } else tileOf s u :=
  tileOf_setTile s t u _
theorem tileOf_tileClear (t : Nat) (s : State) (u : Nat) : tileOf (applyUpd (.tileClear t) s) u =
    if u = t then clearTile (tileOf s t).core else tileOf s u := tileOf_setTile s t u _

@[simp] theorem getR_reg (off : Nat) (v : W64) (s : State) (r : RegRef) :
    getR (applyUpd (.reg off v) s) r = if r.off = off then (v ^^^ r.rst).toNat else getR s r := by
  simp only [getR, applyUpd, smGet_smSet]; split <;> rfl
@[simp] theorem getR_reset (y : Sys) (s : State) (r : RegRef) : getR (applyUpd (.reset y) s) r = r.rst.toNat := by
  simp [getR, applyUpd, smGet]
@[simp] theorem pondByte_reset (y : Sys) (s : State) (u b : Nat) : pondByte (applyUpd (.reset y) s) u b = 0 := (rfl)
@[simp] theorem core_reset (y : Sys) (s : State) (u : Nat) : (tileOf (applyUpd (.reset y) s) u).core = {} := (rfl)
@[simp] theorem getS_reset (y : Sys) (s : State) (u j : Nat) : getS (applyUpd (.reset y) s) u j = 0 := by
  simp [getS, tileOf, applyUpd, smGet]
@[simp] theorem getV_reset (y : Sys) (s : State) (u j : Nat) : getV (applyUpd (.reset y) s) u j = 0 := (rfl)
@[simp] theorem getCsr_reset (y : Sys) (s : State) (u j : Nat) : getCsr (applyUpd (.reset y) s) u j = 0 := (rfl)
@[simp] theorem hbmByte_hbm (a : Nat) (l : List Byte) (s : State) (b : Nat) :
    hbmByte (applyUpd (.hbm a l) s) b = if a ≤ b ∧ b < a + l.length then l.getD (b - a) 0 else hbmByte s b :=
  smGet_smPut l _ _ _
@[simp] theorem pondByte_pond (t off : Nat) (l : List Byte) (s : State) (u b : Nat) :
    pondByte (applyUpd (.pond t off l) s) u b =
      if t * 4194304 + off ≤ u * 4194304 + b ∧ u * 4194304 + b < t * 4194304 + off + l.length then
        l.getD (u * 4194304 + b - (t * 4194304 + off)) 0 else pondByte s u b := smGet_smPut l _ _ _
@[simp] theorem pondByte_pondZero (t : Nat) (s : State) (u b : Nat) :
    pondByte (applyUpd (.pondZero t) s) u b =
      if t * 4194304 ≤ u * 4194304 + b ∧ u * 4194304 + b < (t + 1) * 4194304 then 0 else pondByte s u b :=
  smGet_smDrop 0 _ _ _ _
@[simp] theorem core_core (t : Nat) (c : TileCore) (s : State) (u : Nat) :
    (tileOf (applyUpd (.core t c) s) u).core = if u = t then c else (tileOf s u).core := by
  rw [tileOf_core]; split <;> rfl
@[simp] theorem getCsr_csr (t n : Nat) (v : W64) (s : State) (u j : Nat) :
    getCsr (applyUpd (.csr t n v) s) u j = if u = t ∧ j = n then v else getCsr s u j := by
  simp only [getCsr, tileOf_csr]; split <;> simp_all
@[simp] theorem getS_sreg (t i : Nat) (v : W64) (s : State) (u j : Nat) :
    getS (applyUpd (.sreg t i v) s) u j = if u = t ∧ j = i ∧ i ≠ 0 then v else getS s u j := by
  simp only [getS, tileOf_sreg]
  by_cases h0 : j = 0
  · subst h0; simp; intro _ h; exact absurd h.symm
  · by_cases h1 : u = t ∧ i ≠ 0
    · rw [if_pos h1]; simp only [h0, if_false, smGet_smSet]; obtain ⟨rfl, h2⟩ := h1; simp [h2]
    · rw [if_neg h1, if_neg h0, if_neg (fun h => h1 ⟨h.1, h.2.2⟩)]
@[simp] theorem getV_vreg (t i : Nat) (v : BitVec 8192) (s : State) (u j : Nat) :
    getV (applyUpd (.vreg t i v) s) u j = if u = t ∧ j = i then v else getV s u j := by
  simp only [getV, tileOf_vreg]; split <;> simp_all
@[simp] theorem getP_preg (t i : Nat) (v : BitVec 1024) (s : State) (u j : Nat) :
    getP (applyUpd (.preg t i v) s) u j = if u = t ∧ j = i ∧ i ≠ 0 then v else getP s u j := by
  simp only [getP, tileOf_preg]
  by_cases h0 : j = 0
  · subst h0; simp only [if_true]; rw [if_neg (fun h => h.2.2 h.2.1.symm)]
  · by_cases h1 : u = t ∧ i ≠ 0
    · rw [if_pos h1]; simp only [h0, if_false, smGet_smSet]
      obtain ⟨rfl, h2⟩ := h1; simp only [true_and, ne_eq, h2, not_false_eq_true, and_true]
    · rw [if_neg h1, if_neg h0, if_neg (fun h => h1 ⟨h.1, h.2.2⟩)]
@[simp] theorem accAt_acc (t k : Nat) (v : W64) (s : State) (u j : Nat) :
    accAt (applyUpd (.acc t k v) s) u j = if u = t ∧ j = k then v else accAt s u j := by
  rw [accAt, accAt, tileOf_acc]; split <;> simp_all
@[simp] theorem accAt_accZero (t a : Nat) (s : State) (u j : Nat) :
    accAt (applyUpd (.accZero t a) s) u j =
      if u = t ∧ a * 8192 ≤ j ∧ j < (a + 1) * 8192 then 0 else accAt s u j := by
  rw [accAt, accAt, tileOf_accZero]; split <;> simp_all [smGet_smDrop]
@[simp] theorem accAt_tileClear (t : Nat) (s : State) (u j : Nat) :
    accAt (applyUpd (.tileClear t) s) u j = if u = t then 0 else accAt s u j := by
  simp only [accAt, tileOf_tileClear]; split <;> simp_all [clearTile, smGet]
@[simp] theorem accAt_reset (y : Sys) (s : State) (u j : Nat) : accAt (applyUpd (.reset y) s) u j = 0 := (rfl)
@[simp] theorem getS_tileClear (t : Nat) (s : State) (u j : Nat) :
    getS (applyUpd (.tileClear t) s) u j = if u = t then 0 else getS s u j := by
  simp only [getS, tileOf_tileClear]; split <;> split <;> simp_all [clearTile, smGet]
@[simp] theorem getV_tileClear (t : Nat) (s : State) (u j : Nat) :
    getV (applyUpd (.tileClear t) s) u j = if u = t then 0 else getV s u j := by
  simp only [getV, tileOf_tileClear]; split <;> simp_all [clearTile, smGet]
@[simp] theorem getP_tileClear (t : Nat) (s : State) (u j : Nat) :
    getP (applyUpd (.tileClear t) s) u j = if u = t ∧ j ≠ 0 then 0 else getP s u j := by
  simp only [getP, tileOf_tileClear]
  by_cases h : u = t
  · subst h; simp only [if_true, true_and, clearTile, smGet]
    by_cases h0 : j = 0
    · simp only [h0, if_true, ne_eq, not_true_eq_false, if_false]
    · simp only [h0, if_false, ne_eq, not_false_eq_true, if_true]
  · simp only [h, if_false, false_and]
@[simp] theorem getCsr_tileClear (t : Nat) (s : State) (u j : Nat) :
    getCsr (applyUpd (.tileClear t) s) u j = if u = t then 0 else getCsr s u j := by
  simp only [getCsr, tileOf_tileClear]; split <;> simp_all [clearTile, smGet]

@[simp] theorem hbmByte_reg (off : Nat) (v : W64) (s : State) (b : Nat) :
    hbmByte (applyUpd (.reg off v) s) b = hbmByte s b := (rfl)
@[simp] theorem pondByte_reg (off : Nat) (v : W64) (s : State) (u b : Nat) :
    pondByte (applyUpd (.reg off v) s) u b = pondByte s u b := (rfl)
@[simp] theorem core_reg (off : Nat) (v : W64) (s : State) (u : Nat) :
    (tileOf (applyUpd (.reg off v) s) u).core = (tileOf s u).core := (rfl)
@[simp] theorem getS_reg (off : Nat) (v : W64) (s : State) (u j : Nat) :
    getS (applyUpd (.reg off v) s) u j = getS s u j := (rfl)
@[simp] theorem getV_reg (off : Nat) (v : W64) (s : State) (u j : Nat) :
    getV (applyUpd (.reg off v) s) u j = getV s u j := (rfl)
@[simp] theorem getP_reg (off : Nat) (v : W64) (s : State) (u j : Nat) :
    getP (applyUpd (.reg off v) s) u j = getP s u j := (rfl)
@[simp] theorem getCsr_reg (off : Nat) (v : W64) (s : State) (u j : Nat) :
    getCsr (applyUpd (.reg off v) s) u j = getCsr s u j := (rfl)
@[simp] theorem accAt_reg (off : Nat) (v : W64) (s : State) (u j : Nat) :
    accAt (applyUpd (.reg off v) s) u j = accAt s u j := (rfl)
@[simp] theorem getR_hbm (a : Nat) (l : List Byte) (s : State) (r : RegRef) :
    getR (applyUpd (.hbm a l) s) r = getR s r := (rfl)
@[simp] theorem getF_hbm (a : Nat) (l : List Byte) (s : State) (f : FieldRef) :
    getF (applyUpd (.hbm a l) s) f = getF s f := (rfl)
@[simp] theorem flag_hbm (a : Nat) (l : List Byte) (s : State) (f : FieldRef) :
    flag (applyUpd (.hbm a l) s) f = flag s f := (rfl)
@[simp] theorem pondByte_hbm (a : Nat) (l : List Byte) (s : State) (u b : Nat) :
    pondByte (applyUpd (.hbm a l) s) u b = pondByte s u b := (rfl)
@[simp] theorem core_hbm (a : Nat) (l : List Byte) (s : State) (u : Nat) :
    (tileOf (applyUpd (.hbm a l) s) u).core = (tileOf s u).core := (rfl)
@[simp] theorem getS_hbm (a : Nat) (l : List Byte) (s : State) (u j : Nat) :
    getS (applyUpd (.hbm a l) s) u j = getS s u j := (rfl)
@[simp] theorem getV_hbm (a : Nat) (l : List Byte) (s : State) (u j : Nat) :
    getV (applyUpd (.hbm a l) s) u j = getV s u j := (rfl)
@[simp] theorem getP_hbm (a : Nat) (l : List Byte) (s : State) (u j : Nat) :
    getP (applyUpd (.hbm a l) s) u j = getP s u j := (rfl)
@[simp] theorem getCsr_hbm (a : Nat) (l : List Byte) (s : State) (u j : Nat) :
    getCsr (applyUpd (.hbm a l) s) u j = getCsr s u j := (rfl)
@[simp] theorem accAt_hbm (a : Nat) (l : List Byte) (s : State) (u j : Nat) :
    accAt (applyUpd (.hbm a l) s) u j = accAt s u j := (rfl)
@[simp] theorem getR_pond (t : Nat) (off : Nat) (l : List Byte) (s : State) (r : RegRef) :
    getR (applyUpd (.pond t off l) s) r = getR s r := (rfl)
@[simp] theorem getF_pond (t : Nat) (off : Nat) (l : List Byte) (s : State) (f : FieldRef) :
    getF (applyUpd (.pond t off l) s) f = getF s f := (rfl)
@[simp] theorem flag_pond (t : Nat) (off : Nat) (l : List Byte) (s : State) (f : FieldRef) :
    flag (applyUpd (.pond t off l) s) f = flag s f := (rfl)
@[simp] theorem hbmByte_pond (t : Nat) (off : Nat) (l : List Byte) (s : State) (b : Nat) :
    hbmByte (applyUpd (.pond t off l) s) b = hbmByte s b := (rfl)
@[simp] theorem core_pond (t : Nat) (off : Nat) (l : List Byte) (s : State) (u : Nat) :
    (tileOf (applyUpd (.pond t off l) s) u).core = (tileOf s u).core := (rfl)
@[simp] theorem getS_pond (t : Nat) (off : Nat) (l : List Byte) (s : State) (u j : Nat) :
    getS (applyUpd (.pond t off l) s) u j = getS s u j := (rfl)
@[simp] theorem getV_pond (t : Nat) (off : Nat) (l : List Byte) (s : State) (u j : Nat) :
    getV (applyUpd (.pond t off l) s) u j = getV s u j := (rfl)
@[simp] theorem getP_pond (t : Nat) (off : Nat) (l : List Byte) (s : State) (u j : Nat) :
    getP (applyUpd (.pond t off l) s) u j = getP s u j := (rfl)
@[simp] theorem getCsr_pond (t : Nat) (off : Nat) (l : List Byte) (s : State) (u j : Nat) :
    getCsr (applyUpd (.pond t off l) s) u j = getCsr s u j := (rfl)
@[simp] theorem accAt_pond (t : Nat) (off : Nat) (l : List Byte) (s : State) (u j : Nat) :
    accAt (applyUpd (.pond t off l) s) u j = accAt s u j := (rfl)
@[simp] theorem getR_pondZero (t : Nat) (s : State) (r : RegRef) :
    getR (applyUpd (.pondZero t) s) r = getR s r := (rfl)
@[simp] theorem getF_pondZero (t : Nat) (s : State) (f : FieldRef) :
    getF (applyUpd (.pondZero t) s) f = getF s f := (rfl)
@[simp] theorem flag_pondZero (t : Nat) (s : State) (f : FieldRef) :
    flag (applyUpd (.pondZero t) s) f = flag s f := (rfl)
@[simp] theorem hbmByte_pondZero (t : Nat) (s : State) (b : Nat) :
    hbmByte (applyUpd (.pondZero t) s) b = hbmByte s b := (rfl)
@[simp] theorem core_pondZero (t : Nat) (s : State) (u : Nat) :
    (tileOf (applyUpd (.pondZero t) s) u).core = (tileOf s u).core := (rfl)
@[simp] theorem getS_pondZero (t : Nat) (s : State) (u j : Nat) :
    getS (applyUpd (.pondZero t) s) u j = getS s u j := (rfl)
@[simp] theorem getV_pondZero (t : Nat) (s : State) (u j : Nat) :
    getV (applyUpd (.pondZero t) s) u j = getV s u j := (rfl)
@[simp] theorem getP_pondZero (t : Nat) (s : State) (u j : Nat) :
    getP (applyUpd (.pondZero t) s) u j = getP s u j := (rfl)
@[simp] theorem getCsr_pondZero (t : Nat) (s : State) (u j : Nat) :
    getCsr (applyUpd (.pondZero t) s) u j = getCsr s u j := (rfl)
@[simp] theorem accAt_pondZero (t : Nat) (s : State) (u j : Nat) :
    accAt (applyUpd (.pondZero t) s) u j = accAt s u j := (rfl)
@[simp] theorem getR_core (t : Nat) (c : TileCore) (s : State) (r : RegRef) :
    getR (applyUpd (.core t c) s) r = getR s r := (rfl)
@[simp] theorem getF_core (t : Nat) (c : TileCore) (s : State) (f : FieldRef) :
    getF (applyUpd (.core t c) s) f = getF s f := (rfl)
@[simp] theorem flag_core (t : Nat) (c : TileCore) (s : State) (f : FieldRef) :
    flag (applyUpd (.core t c) s) f = flag s f := (rfl)
@[simp] theorem hbmByte_core (t : Nat) (c : TileCore) (s : State) (b : Nat) :
    hbmByte (applyUpd (.core t c) s) b = hbmByte s b := (rfl)
@[simp] theorem pondByte_core (t : Nat) (c : TileCore) (s : State) (u b : Nat) :
    pondByte (applyUpd (.core t c) s) u b = pondByte s u b := (rfl)
@[simp] theorem getS_core (t : Nat) (c : TileCore) (s : State) (u j : Nat) :
    getS (applyUpd (.core t c) s) u j = getS s u j := by
  simp only [getS, tileOf_core]
  by_cases h : u = t
  · simp only [if_pos h]; obtain rfl := h; rfl
  · simp only [if_neg h]
@[simp] theorem getV_core (t : Nat) (c : TileCore) (s : State) (u j : Nat) :
    getV (applyUpd (.core t c) s) u j = getV s u j := by
  simp only [getV, tileOf_core]
  by_cases h : u = t
  · simp only [if_pos h]; obtain rfl := h; rfl
  · simp only [if_neg h]
@[simp] theorem getP_core (t : Nat) (c : TileCore) (s : State) (u j : Nat) :
    getP (applyUpd (.core t c) s) u j = getP s u j := by
  simp only [getP, tileOf_core]
  by_cases h : u = t
  · simp only [if_pos h]; obtain rfl := h; rfl
  · simp only [if_neg h]
@[simp] theorem getCsr_core (t : Nat) (c : TileCore) (s : State) (u j : Nat) :
    getCsr (applyUpd (.core t c) s) u j = getCsr s u j := by
  simp only [getCsr, tileOf_core]
  by_cases h : u = t
  · simp only [if_pos h]; obtain rfl := h; rfl
  · simp only [if_neg h]
@[simp] theorem accAt_core (t : Nat) (c : TileCore) (s : State) (u j : Nat) :
    accAt (applyUpd (.core t c) s) u j = accAt s u j := by
  simp only [accAt, tileOf_core]
  by_cases h : u = t
  · simp only [if_pos h]; obtain rfl := h; rfl
  · simp only [if_neg h]
@[simp] theorem getR_csr (t : Nat) (n : Nat) (v : W64) (s : State) (r : RegRef) :
    getR (applyUpd (.csr t n v) s) r = getR s r := (rfl)
@[simp] theorem getF_csr (t : Nat) (n : Nat) (v : W64) (s : State) (f : FieldRef) :
    getF (applyUpd (.csr t n v) s) f = getF s f := (rfl)
@[simp] theorem flag_csr (t : Nat) (n : Nat) (v : W64) (s : State) (f : FieldRef) :
    flag (applyUpd (.csr t n v) s) f = flag s f := (rfl)
@[simp] theorem hbmByte_csr (t : Nat) (n : Nat) (v : W64) (s : State) (b : Nat) :
    hbmByte (applyUpd (.csr t n v) s) b = hbmByte s b := (rfl)
@[simp] theorem pondByte_csr (t : Nat) (n : Nat) (v : W64) (s : State) (u b : Nat) :
    pondByte (applyUpd (.csr t n v) s) u b = pondByte s u b := (rfl)
@[simp] theorem core_csr (t : Nat) (n : Nat) (v : W64) (s : State) (u : Nat) :
    (tileOf (applyUpd (.csr t n v) s) u).core = (tileOf s u).core := by
  simp only [tileOf_csr]
  by_cases h : u = t
  · simp only [if_pos h]; obtain rfl := h; rfl
  · simp only [if_neg h]
@[simp] theorem getS_csr (t : Nat) (n : Nat) (v : W64) (s : State) (u j : Nat) :
    getS (applyUpd (.csr t n v) s) u j = getS s u j := by
  simp only [getS, tileOf_csr]
  by_cases h : u = t
  · simp only [if_pos h]; obtain rfl := h; rfl
  · simp only [if_neg h]
@[simp] theorem getV_csr (t : Nat) (n : Nat) (v : W64) (s : State) (u j : Nat) :
    getV (applyUpd (.csr t n v) s) u j = getV s u j := by
  simp only [getV, tileOf_csr]
  by_cases h : u = t
  · simp only [if_pos h]; obtain rfl := h; rfl
  · simp only [if_neg h]
@[simp] theorem getP_csr (t : Nat) (n : Nat) (v : W64) (s : State) (u j : Nat) :
    getP (applyUpd (.csr t n v) s) u j = getP s u j := by
  simp only [getP, tileOf_csr]
  by_cases h : u = t
  · simp only [if_pos h]; obtain rfl := h; rfl
  · simp only [if_neg h]
@[simp] theorem accAt_csr (t : Nat) (n : Nat) (v : W64) (s : State) (u j : Nat) :
    accAt (applyUpd (.csr t n v) s) u j = accAt s u j := by
  simp only [accAt, tileOf_csr]
  by_cases h : u = t
  · simp only [if_pos h]; obtain rfl := h; rfl
  · simp only [if_neg h]
@[simp] theorem getR_sreg (t : Nat) (i : Nat) (v : W64) (s : State) (r : RegRef) :
    getR (applyUpd (.sreg t i v) s) r = getR s r := by
  simp only [applyUpd]; split <;> rfl
@[simp] theorem getF_sreg (t : Nat) (i : Nat) (v : W64) (s : State) (f : FieldRef) :
    getF (applyUpd (.sreg t i v) s) f = getF s f := by
  simp only [applyUpd]; split <;> rfl
@[simp] theorem flag_sreg (t : Nat) (i : Nat) (v : W64) (s : State) (f : FieldRef) :
    flag (applyUpd (.sreg t i v) s) f = flag s f := by
  simp only [applyUpd]; split <;> rfl
@[simp] theorem hbmByte_sreg (t : Nat) (i : Nat) (v : W64) (s : State) (b : Nat) :
    hbmByte (applyUpd (.sreg t i v) s) b = hbmByte s b := by
  simp only [applyUpd]; split <;> rfl
@[simp] theorem pondByte_sreg (t : Nat) (i : Nat) (v : W64) (s : State) (u b : Nat) :
    pondByte (applyUpd (.sreg t i v) s) u b = pondByte s u b := by
  simp only [applyUpd]; split <;> rfl
@[simp] theorem core_sreg (t : Nat) (i : Nat) (v : W64) (s : State) (u : Nat) :
    (tileOf (applyUpd (.sreg t i v) s) u).core = (tileOf s u).core := by
  simp only [tileOf_sreg]
  by_cases h : u = t ∧ i ≠ 0
  · simp only [if_pos h]; obtain ⟨rfl, _⟩ := h; rfl
  · simp only [if_neg h]
@[simp] theorem getV_sreg (t : Nat) (i : Nat) (v : W64) (s : State) (u j : Nat) :
    getV (applyUpd (.sreg t i v) s) u j = getV s u j := by
  simp only [getV, tileOf_sreg]
  by_cases h : u = t ∧ i ≠ 0
  · simp only [if_pos h]; obtain ⟨rfl, _⟩ := h; rfl
  · simp only [if_neg h]
@[simp] theorem getP_sreg (t : Nat) (i : Nat) (v : W64) (s : State) (u j : Nat) :
    getP (applyUpd (.sreg t i v) s) u j = getP s u j := by
  simp only [getP, tileOf_sreg]
  by_cases h : u = t ∧ i ≠ 0
  · simp only [if_pos h]; obtain ⟨rfl, _⟩ := h; rfl
  · simp only [if_neg h]
@[simp] theorem getCsr_sreg (t : Nat) (i : Nat) (v : W64) (s : State) (u j : Nat) :
    getCsr (applyUpd (.sreg t i v) s) u j = getCsr s u j := by
  simp only [getCsr, tileOf_sreg]
  by_cases h : u = t ∧ i ≠ 0
  · simp only [if_pos h]; obtain ⟨rfl, _⟩ := h; rfl
  · simp only [if_neg h]
@[simp] theorem accAt_sreg (t : Nat) (i : Nat) (v : W64) (s : State) (u j : Nat) :
    accAt (applyUpd (.sreg t i v) s) u j = accAt s u j := by
  simp only [accAt, tileOf_sreg]
  by_cases h : u = t ∧ i ≠ 0
  · simp only [if_pos h]; obtain ⟨rfl, _⟩ := h; rfl
  · simp only [if_neg h]
@[simp] theorem getR_vreg (t : Nat) (i : Nat) (v : BitVec 8192) (s : State) (r : RegRef) :
    getR (applyUpd (.vreg t i v) s) r = getR s r := (rfl)
@[simp] theorem getF_vreg (t : Nat) (i : Nat) (v : BitVec 8192) (s : State) (f : FieldRef) :
    getF (applyUpd (.vreg t i v) s) f = getF s f := (rfl)
@[simp] theorem flag_vreg (t : Nat) (i : Nat) (v : BitVec 8192) (s : State) (f : FieldRef) :
    flag (applyUpd (.vreg t i v) s) f = flag s f := (rfl)
@[simp] theorem hbmByte_vreg (t : Nat) (i : Nat) (v : BitVec 8192) (s : State) (b : Nat) :
    hbmByte (applyUpd (.vreg t i v) s) b = hbmByte s b := (rfl)
@[simp] theorem pondByte_vreg (t : Nat) (i : Nat) (v : BitVec 8192) (s : State) (u b : Nat) :
    pondByte (applyUpd (.vreg t i v) s) u b = pondByte s u b := (rfl)
@[simp] theorem core_vreg (t : Nat) (i : Nat) (v : BitVec 8192) (s : State) (u : Nat) :
    (tileOf (applyUpd (.vreg t i v) s) u).core = (tileOf s u).core := by
  simp only [tileOf_vreg]
  by_cases h : u = t
  · simp only [if_pos h]; obtain rfl := h; rfl
  · simp only [if_neg h]
@[simp] theorem getS_vreg (t : Nat) (i : Nat) (v : BitVec 8192) (s : State) (u j : Nat) :
    getS (applyUpd (.vreg t i v) s) u j = getS s u j := by
  simp only [getS, tileOf_vreg]
  by_cases h : u = t
  · simp only [if_pos h]; obtain rfl := h; rfl
  · simp only [if_neg h]
@[simp] theorem getP_vreg (t : Nat) (i : Nat) (v : BitVec 8192) (s : State) (u j : Nat) :
    getP (applyUpd (.vreg t i v) s) u j = getP s u j := by
  simp only [getP, tileOf_vreg]
  by_cases h : u = t
  · simp only [if_pos h]; obtain rfl := h; rfl
  · simp only [if_neg h]
@[simp] theorem getCsr_vreg (t : Nat) (i : Nat) (v : BitVec 8192) (s : State) (u j : Nat) :
    getCsr (applyUpd (.vreg t i v) s) u j = getCsr s u j := by
  simp only [getCsr, tileOf_vreg]
  by_cases h : u = t
  · simp only [if_pos h]; obtain rfl := h; rfl
  · simp only [if_neg h]
@[simp] theorem accAt_vreg (t : Nat) (i : Nat) (v : BitVec 8192) (s : State) (u j : Nat) :
    accAt (applyUpd (.vreg t i v) s) u j = accAt s u j := by
  simp only [accAt, tileOf_vreg]
  by_cases h : u = t
  · simp only [if_pos h]; obtain rfl := h; rfl
  · simp only [if_neg h]
@[simp] theorem getR_preg (t : Nat) (i : Nat) (v : BitVec 1024) (s : State) (r : RegRef) :
    getR (applyUpd (.preg t i v) s) r = getR s r := by
  simp only [applyUpd]; split <;> rfl
@[simp] theorem getF_preg (t : Nat) (i : Nat) (v : BitVec 1024) (s : State) (f : FieldRef) :
    getF (applyUpd (.preg t i v) s) f = getF s f := by
  simp only [applyUpd]; split <;> rfl
@[simp] theorem flag_preg (t : Nat) (i : Nat) (v : BitVec 1024) (s : State) (f : FieldRef) :
    flag (applyUpd (.preg t i v) s) f = flag s f := by
  simp only [applyUpd]; split <;> rfl
@[simp] theorem hbmByte_preg (t : Nat) (i : Nat) (v : BitVec 1024) (s : State) (b : Nat) :
    hbmByte (applyUpd (.preg t i v) s) b = hbmByte s b := by
  simp only [applyUpd]; split <;> rfl
@[simp] theorem pondByte_preg (t : Nat) (i : Nat) (v : BitVec 1024) (s : State) (u b : Nat) :
    pondByte (applyUpd (.preg t i v) s) u b = pondByte s u b := by
  simp only [applyUpd]; split <;> rfl
@[simp] theorem core_preg (t : Nat) (i : Nat) (v : BitVec 1024) (s : State) (u : Nat) :
    (tileOf (applyUpd (.preg t i v) s) u).core = (tileOf s u).core := by
  simp only [tileOf_preg]
  by_cases h : u = t ∧ i ≠ 0
  · simp only [if_pos h]; obtain ⟨rfl, _⟩ := h; rfl
  · simp only [if_neg h]
@[simp] theorem getS_preg (t : Nat) (i : Nat) (v : BitVec 1024) (s : State) (u j : Nat) :
    getS (applyUpd (.preg t i v) s) u j = getS s u j := by
  simp only [getS, tileOf_preg]
  by_cases h : u = t ∧ i ≠ 0
  · simp only [if_pos h]; obtain ⟨rfl, _⟩ := h; rfl
  · simp only [if_neg h]
@[simp] theorem getV_preg (t : Nat) (i : Nat) (v : BitVec 1024) (s : State) (u j : Nat) :
    getV (applyUpd (.preg t i v) s) u j = getV s u j := by
  simp only [getV, tileOf_preg]
  by_cases h : u = t ∧ i ≠ 0
  · simp only [if_pos h]; obtain ⟨rfl, _⟩ := h; rfl
  · simp only [if_neg h]
@[simp] theorem getCsr_preg (t : Nat) (i : Nat) (v : BitVec 1024) (s : State) (u j : Nat) :
    getCsr (applyUpd (.preg t i v) s) u j = getCsr s u j := by
  simp only [getCsr, tileOf_preg]
  by_cases h : u = t ∧ i ≠ 0
  · simp only [if_pos h]; obtain ⟨rfl, _⟩ := h; rfl
  · simp only [if_neg h]
@[simp] theorem accAt_preg (t : Nat) (i : Nat) (v : BitVec 1024) (s : State) (u j : Nat) :
    accAt (applyUpd (.preg t i v) s) u j = accAt s u j := by
  simp only [accAt, tileOf_preg]
  by_cases h : u = t ∧ i ≠ 0
  · simp only [if_pos h]; obtain ⟨rfl, _⟩ := h; rfl
  · simp only [if_neg h]
@[simp] theorem getR_acc (t : Nat) (k : Nat) (v : W64) (s : State) (r : RegRef) :
    getR (applyUpd (.acc t k v) s) r = getR s r := (rfl)
@[simp] theorem getF_acc (t : Nat) (k : Nat) (v : W64) (s : State) (f : FieldRef) :
    getF (applyUpd (.acc t k v) s) f = getF s f := (rfl)
@[simp] theorem flag_acc (t : Nat) (k : Nat) (v : W64) (s : State) (f : FieldRef) :
    flag (applyUpd (.acc t k v) s) f = flag s f := (rfl)
@[simp] theorem hbmByte_acc (t : Nat) (k : Nat) (v : W64) (s : State) (b : Nat) :
    hbmByte (applyUpd (.acc t k v) s) b = hbmByte s b := (rfl)
@[simp] theorem pondByte_acc (t : Nat) (k : Nat) (v : W64) (s : State) (u b : Nat) :
    pondByte (applyUpd (.acc t k v) s) u b = pondByte s u b := (rfl)
@[simp] theorem core_acc (t : Nat) (k : Nat) (v : W64) (s : State) (u : Nat) :
    (tileOf (applyUpd (.acc t k v) s) u).core = (tileOf s u).core := by
  simp only [tileOf_acc]
  by_cases h : u = t
  · simp only [if_pos h]; obtain rfl := h; rfl
  · simp only [if_neg h]
@[simp] theorem getS_acc (t : Nat) (k : Nat) (v : W64) (s : State) (u j : Nat) :
    getS (applyUpd (.acc t k v) s) u j = getS s u j := by
  simp only [getS, tileOf_acc]
  by_cases h : u = t
  · simp only [if_pos h]; obtain rfl := h; rfl
  · simp only [if_neg h]
@[simp] theorem getV_acc (t : Nat) (k : Nat) (v : W64) (s : State) (u j : Nat) :
    getV (applyUpd (.acc t k v) s) u j = getV s u j := by
  simp only [getV, tileOf_acc]
  by_cases h : u = t
  · simp only [if_pos h]; obtain rfl := h; rfl
  · simp only [if_neg h]
@[simp] theorem getP_acc (t : Nat) (k : Nat) (v : W64) (s : State) (u j : Nat) :
    getP (applyUpd (.acc t k v) s) u j = getP s u j := by
  simp only [getP, tileOf_acc]
  by_cases h : u = t
  · simp only [if_pos h]; obtain rfl := h; rfl
  · simp only [if_neg h]
@[simp] theorem getCsr_acc (t : Nat) (k : Nat) (v : W64) (s : State) (u j : Nat) :
    getCsr (applyUpd (.acc t k v) s) u j = getCsr s u j := by
  simp only [getCsr, tileOf_acc]
  by_cases h : u = t
  · simp only [if_pos h]; obtain rfl := h; rfl
  · simp only [if_neg h]
@[simp] theorem getR_accZero (t : Nat) (a : Nat) (s : State) (r : RegRef) :
    getR (applyUpd (.accZero t a) s) r = getR s r := (rfl)
@[simp] theorem getF_accZero (t : Nat) (a : Nat) (s : State) (f : FieldRef) :
    getF (applyUpd (.accZero t a) s) f = getF s f := (rfl)
@[simp] theorem flag_accZero (t : Nat) (a : Nat) (s : State) (f : FieldRef) :
    flag (applyUpd (.accZero t a) s) f = flag s f := (rfl)
@[simp] theorem hbmByte_accZero (t : Nat) (a : Nat) (s : State) (b : Nat) :
    hbmByte (applyUpd (.accZero t a) s) b = hbmByte s b := (rfl)
@[simp] theorem pondByte_accZero (t : Nat) (a : Nat) (s : State) (u b : Nat) :
    pondByte (applyUpd (.accZero t a) s) u b = pondByte s u b := (rfl)
@[simp] theorem core_accZero (t : Nat) (a : Nat) (s : State) (u : Nat) :
    (tileOf (applyUpd (.accZero t a) s) u).core = (tileOf s u).core := by
  simp only [tileOf_accZero]
  by_cases h : u = t
  · simp only [if_pos h]; obtain rfl := h; rfl
  · simp only [if_neg h]
@[simp] theorem getS_accZero (t : Nat) (a : Nat) (s : State) (u j : Nat) :
    getS (applyUpd (.accZero t a) s) u j = getS s u j := by
  simp only [getS, tileOf_accZero]
  by_cases h : u = t
  · simp only [if_pos h]; obtain rfl := h; rfl
  · simp only [if_neg h]
@[simp] theorem getV_accZero (t : Nat) (a : Nat) (s : State) (u j : Nat) :
    getV (applyUpd (.accZero t a) s) u j = getV s u j := by
  simp only [getV, tileOf_accZero]
  by_cases h : u = t
  · simp only [if_pos h]; obtain rfl := h; rfl
  · simp only [if_neg h]
@[simp] theorem getP_accZero (t : Nat) (a : Nat) (s : State) (u j : Nat) :
    getP (applyUpd (.accZero t a) s) u j = getP s u j := by
  simp only [getP, tileOf_accZero]
  by_cases h : u = t
  · simp only [if_pos h]; obtain rfl := h; rfl
  · simp only [if_neg h]
@[simp] theorem getCsr_accZero (t : Nat) (a : Nat) (s : State) (u j : Nat) :
    getCsr (applyUpd (.accZero t a) s) u j = getCsr s u j := by
  simp only [getCsr, tileOf_accZero]
  by_cases h : u = t
  · simp only [if_pos h]; obtain rfl := h; rfl
  · simp only [if_neg h]
@[simp] theorem getR_tileClear (t : Nat) (s : State) (r : RegRef) :
    getR (applyUpd (.tileClear t) s) r = getR s r := (rfl)
@[simp] theorem getF_tileClear (t : Nat) (s : State) (f : FieldRef) :
    getF (applyUpd (.tileClear t) s) f = getF s f := (rfl)
@[simp] theorem flag_tileClear (t : Nat) (s : State) (f : FieldRef) :
    flag (applyUpd (.tileClear t) s) f = flag s f := (rfl)
@[simp] theorem hbmByte_tileClear (t : Nat) (s : State) (b : Nat) :
    hbmByte (applyUpd (.tileClear t) s) b = hbmByte s b := (rfl)
@[simp] theorem pondByte_tileClear (t : Nat) (s : State) (u b : Nat) :
    pondByte (applyUpd (.tileClear t) s) u b = pondByte s u b := (rfl)
@[simp] theorem core_tileClear (t : Nat) (s : State) (u : Nat) :
    (tileOf (applyUpd (.tileClear t) s) u).core = (tileOf s u).core := by
  simp only [tileOf_tileClear]
  by_cases h : u = t
  · simp only [if_pos h]; obtain rfl := h; rfl
  · simp only [if_neg h]
@[simp] theorem getR_sys (y : Sys) (s : State) (r : RegRef) :
    getR (applyUpd (.sys y) s) r = getR s r := (rfl)
@[simp] theorem getF_sys (y : Sys) (s : State) (f : FieldRef) :
    getF (applyUpd (.sys y) s) f = getF s f := (rfl)
@[simp] theorem flag_sys (y : Sys) (s : State) (f : FieldRef) :
    flag (applyUpd (.sys y) s) f = flag s f := (rfl)
@[simp] theorem hbmByte_sys (y : Sys) (s : State) (b : Nat) :
    hbmByte (applyUpd (.sys y) s) b = hbmByte s b := (rfl)
@[simp] theorem pondByte_sys (y : Sys) (s : State) (u b : Nat) :
    pondByte (applyUpd (.sys y) s) u b = pondByte s u b := (rfl)
@[simp] theorem core_sys (y : Sys) (s : State) (u : Nat) :
    (tileOf (applyUpd (.sys y) s) u).core = (tileOf s u).core := (rfl)
@[simp] theorem getS_sys (y : Sys) (s : State) (u j : Nat) :
    getS (applyUpd (.sys y) s) u j = getS s u j := (rfl)
@[simp] theorem getV_sys (y : Sys) (s : State) (u j : Nat) :
    getV (applyUpd (.sys y) s) u j = getV s u j := (rfl)
@[simp] theorem getP_sys (y : Sys) (s : State) (u j : Nat) :
    getP (applyUpd (.sys y) s) u j = getP s u j := (rfl)
@[simp] theorem getCsr_sys (y : Sys) (s : State) (u j : Nat) :
    getCsr (applyUpd (.sys y) s) u j = getCsr s u j := (rfl)
@[simp] theorem accAt_sys (y : Sys) (s : State) (u j : Nat) :
    accAt (applyUpd (.sys y) s) u j = accAt s u j := (rfl)
@[simp] theorem hbmByte_reset (y : Sys) (s : State) (b : Nat) :
    hbmByte (applyUpd (.reset y) s) b = hbmByte s b := (rfl)
@[simp] theorem getR_out (m : Output) (s : State) (r : RegRef) :
    getR (applyUpd (.out m) s) r = getR s r := (rfl)
@[simp] theorem getF_out (m : Output) (s : State) (f : FieldRef) :
    getF (applyUpd (.out m) s) f = getF s f := (rfl)
@[simp] theorem flag_out (m : Output) (s : State) (f : FieldRef) :
    flag (applyUpd (.out m) s) f = flag s f := (rfl)
@[simp] theorem hbmByte_out (m : Output) (s : State) (b : Nat) :
    hbmByte (applyUpd (.out m) s) b = hbmByte s b := (rfl)
@[simp] theorem pondByte_out (m : Output) (s : State) (u b : Nat) :
    pondByte (applyUpd (.out m) s) u b = pondByte s u b := (rfl)
@[simp] theorem core_out (m : Output) (s : State) (u : Nat) :
    (tileOf (applyUpd (.out m) s) u).core = (tileOf s u).core := (rfl)
@[simp] theorem getS_out (m : Output) (s : State) (u j : Nat) :
    getS (applyUpd (.out m) s) u j = getS s u j := (rfl)
@[simp] theorem getV_out (m : Output) (s : State) (u j : Nat) :
    getV (applyUpd (.out m) s) u j = getV s u j := (rfl)
@[simp] theorem getP_out (m : Output) (s : State) (u j : Nat) :
    getP (applyUpd (.out m) s) u j = getP s u j := (rfl)
@[simp] theorem getCsr_out (m : Output) (s : State) (u j : Nat) :
    getCsr (applyUpd (.out m) s) u j = getCsr s u j := (rfl)
@[simp] theorem accAt_out (m : Output) (s : State) (u j : Nat) :
    accAt (applyUpd (.out m) s) u j = accAt s u j := (rfl)
@[simp] theorem getR_free  (s : State) (r : RegRef) :
    getR (applyUpd (.free) s) r = getR s r := (rfl)
@[simp] theorem getF_free  (s : State) (f : FieldRef) :
    getF (applyUpd (.free) s) f = getF s f := (rfl)
@[simp] theorem flag_free  (s : State) (f : FieldRef) :
    flag (applyUpd (.free) s) f = flag s f := (rfl)
@[simp] theorem hbmByte_free  (s : State) (b : Nat) :
    hbmByte (applyUpd (.free) s) b = hbmByte s b := (rfl)
@[simp] theorem pondByte_free  (s : State) (u b : Nat) :
    pondByte (applyUpd (.free) s) u b = pondByte s u b := (rfl)
@[simp] theorem core_free  (s : State) (u : Nat) :
    (tileOf (applyUpd (.free) s) u).core = (tileOf s u).core := (rfl)
@[simp] theorem getS_free  (s : State) (u j : Nat) :
    getS (applyUpd (.free) s) u j = getS s u j := (rfl)
@[simp] theorem getV_free  (s : State) (u j : Nat) :
    getV (applyUpd (.free) s) u j = getV s u j := (rfl)
@[simp] theorem getP_free  (s : State) (u j : Nat) :
    getP (applyUpd (.free) s) u j = getP s u j := (rfl)
@[simp] theorem getCsr_free  (s : State) (u j : Nat) :
    getCsr (applyUpd (.free) s) u j = getCsr s u j := (rfl)
@[simp] theorem accAt_free  (s : State) (u j : Nat) :
    accAt (applyUpd (.free) s) u j = accAt s u j := (rfl)

end Sys2Proof.Machine
end

