-- ==== Sys2Proof/Laws/Bits.lean ====
section
/-! SUPPORT. Bit fields: reading a field after a field is set. -/
namespace Sys2Proof.Machine

/-- Bit i of a field. -/
theorem testBit_bits (n hi lo i : Nat) :
    (bits n hi lo).testBit i = (decide (i < hi + 1 - lo) && n.testBit (i + lo)) := by
  unfold bits
  rw [Nat.testBit_mod_two_pow, Nat.testBit_div_two_pow]

theorem setBits_eq (n hi lo v : Nat) : setBits n hi lo v =
    2 ^ lo * (2 ^ (hi + 1 - lo) * (n / 2 ^ lo / 2 ^ (hi + 1 - lo)) + v % 2 ^ (hi + 1 - lo)) + n % 2 ^ lo := by
  have h1 := Nat.div_add_mod n (2 ^ lo)
  have h2 := Nat.div_add_mod (n / 2 ^ lo) (2 ^ (hi + 1 - lo))
  have h3 : 2 ^ lo * (n / 2 ^ lo) = 2 ^ lo * (2 ^ (hi + 1 - lo) * (n / 2 ^ lo / 2 ^ (hi + 1 - lo))) +
      (n / 2 ^ lo % 2 ^ (hi + 1 - lo)) * 2 ^ lo := by
    rw [Nat.mul_comm (_ % _), ← Nat.mul_add, h2]
  unfold setBits bits
  rw [Nat.mul_add, Nat.mul_comm _ (v % _)]
  omega

/-- Bit i once a field is set. -/
theorem testBit_setBits (n hi lo v i : Nat) :
    (setBits n hi lo v).testBit i = if lo ≤ i ∧ i < hi + 1 then v.testBit (i - lo) else n.testBit i := by
  have hp : n % 2 ^ lo < 2 ^ lo := Nat.mod_lt _ (Nat.two_pow_pos _)
  have hq : v % 2 ^ (hi + 1 - lo) < 2 ^ (hi + 1 - lo) := Nat.mod_lt _ (Nat.two_pow_pos _)
  rw [setBits_eq, Nat.testBit_two_pow_mul_add _ hp, Nat.testBit_two_pow_mul_add _ hq]
  simp only [Nat.testBit_mod_two_pow, Nat.testBit_div_two_pow]
  by_cases h1 : i < lo
  · rw [if_pos h1, if_neg (by omega)]; simp [h1]
  · rw [if_neg h1]
    by_cases h2 : i < hi + 1
    · rw [if_pos (by omega), if_pos (by omega)]; simp; omega
    · rw [if_neg (by omega), if_neg (by omega)]
      congr 1; omega

@[simp] theorem bits_setBits (n hi lo v : Nat) : bits (setBits n hi lo v) hi lo = v % 2 ^ (hi + 1 - lo) := by
  apply Nat.eq_of_testBit_eq
  intro i
  rw [testBit_bits, testBit_setBits, Nat.testBit_mod_two_pow]
  by_cases h : i < hi + 1 - lo
  · rw [if_pos (by omega), Nat.add_sub_cancel]
  · simp [h]

/-- A field reads as before once a field apart from it is set. -/
theorem bits_setBits_apart (n hi lo v hi' lo' : Nat) (h : hi' < lo ∨ hi < lo') :
    bits (setBits n hi lo v) hi' lo' = bits n hi' lo' := by
  apply Nat.eq_of_testBit_eq
  intro i
  rw [testBit_bits, testBit_bits, testBit_setBits]
  by_cases h2 : i < hi' + 1 - lo'
  · rw [if_neg (by omega)]
  · simp [h2]

theorem bits_lt (n hi lo : Nat) : bits n hi lo < 2 ^ (hi + 1 - lo) := Nat.mod_lt _ (Nat.two_pow_pos _)

theorem setBits_lt (n hi lo v w : Nat) (h : n < 2 ^ w) (hw : hi < w) : setBits n hi lo v < 2 ^ w := by
  apply Nat.lt_pow_two_of_testBit
  intro i hi'
  rw [testBit_setBits, if_neg (by omega)]
  exact Nat.testBit_lt_two_pow (Nat.lt_of_lt_of_le h (Nat.pow_le_pow_right (by omega) hi'))

theorem getR_lt (s : State) (r : RegRef) : getR s r < 2 ^ 64 := BitVec.isLt _

/-- A register after it is set. -/
theorem getR_put (s : State) (r : RegRef) (v : Nat) :
    getR (applyUpd (.reg r.off (BitVec.ofNat 64 v ^^^ r.rst)) s) r = v % 2 ^ 64 := by
  rw [getR_reg, if_pos rfl, BitVec.xor_assoc, BitVec.xor_self, BitVec.xor_zero, BitVec.toNat_ofNat]

/-- A field after it is set. -/
theorem getF_put (s : State) (f : FieldRef) (v : Nat) (h : f.hi < 64) :
    getF (applyUpd (fieldUpd s f v) s) f = v % 2 ^ (f.hi + 1 - f.lo) := by
  unfold getF fieldUpd
  rw [getR_put, Nat.mod_eq_of_lt (setBits_lt _ _ _ _ _ (getR_lt _ _) h), bits_setBits]

/-- A field of another register after a field is set. -/
theorem getF_put_off (s s' : State) (f g : FieldRef) (v : Nat) (h : g.r.off ≠ f.r.off) :
    getF (applyUpd (fieldUpd s' f v) s) g = getF s g := by
  unfold getF fieldUpd; rw [getR_reg, if_neg h]

/-- Another field of the register after a field is set. -/
theorem getF_put_apart (s : State) (f g : FieldRef) (v : Nat) (hr : g.r = f.r) (h : f.hi < 64)
    (ha : g.hi < f.lo ∨ f.hi < g.lo) : getF (applyUpd (fieldUpd s f v) s) g = getF s g := by
  unfold getF fieldUpd
  rw [hr, getR_put, Nat.mod_eq_of_lt (setBits_lt _ _ _ _ _ (getR_lt _ _) h), bits_setBits_apart _ _ _ _ _ _ ha]

/-! What setting a field leaves alone. -/

variable (s' s : State) (f : FieldRef) (v : Nat)

@[simp] theorem hbm_put : (applyUpd (fieldUpd s' f v) s).hbm = s.hbm := (rfl)
@[simp] theorem pond_put : (applyUpd (fieldUpd s' f v) s).pond = s.pond := (rfl)
@[simp] theorem tiles_put : (applyUpd (fieldUpd s' f v) s).tiles = s.tiles := (rfl)
@[simp] theorem sys_put : (applyUpd (fieldUpd s' f v) s).sys = s.sys := (rfl)
@[simp] theorem out_put : (applyUpd (fieldUpd s' f v) s).out = s.out := (rfl)
@[simp] theorem free_put : (applyUpd (fieldUpd s' f v) s).free = s.free := (rfl)
@[simp] theorem tileOf_put (t : Nat) : tileOf (applyUpd (fieldUpd s' f v) s) t = tileOf s t := (rfl)
@[simp] theorem getS_put (t i : Nat) : getS (applyUpd (fieldUpd s' f v) s) t i = getS s t i := (rfl)
@[simp] theorem getV_put (t i : Nat) : getV (applyUpd (fieldUpd s' f v) s) t i = getV s t i := (rfl)
@[simp] theorem getP_put (t i : Nat) : getP (applyUpd (fieldUpd s' f v) s) t i = getP s t i := (rfl)
@[simp] theorem getCsr_put (t i : Nat) : getCsr (applyUpd (fieldUpd s' f v) s) t i = getCsr s t i := (rfl)
@[simp] theorem accAt_put (t i : Nat) : accAt (applyUpd (fieldUpd s' f v) s) t i = accAt s t i := (rfl)
@[simp] theorem hbmByte_put (a : Nat) : hbmByte (applyUpd (fieldUpd s' f v) s) a = hbmByte s a := (rfl)
@[simp] theorem pondByte_put (t a : Nat) : pondByte (applyUpd (fieldUpd s' f v) s) t a = pondByte s t a := (rfl)

/-- Fields of a register at another offset. -/
@[simp] theorem getF_reg_off (off : Nat) (x : W64) (h : f.r.off ≠ off) : getF (applyUpd (.reg off x) s) f = getF s f := by
  unfold getF; rw [getR_reg, if_neg h]

end Sys2Proof.Machine
end

