-- ==== Sys2Proof/Laws/Inv.lean ====
section
/-! SUPPORT. What every update keeps: the canonical form, the queue, and what has been sent. -/
namespace Sys2Proof

open Sys2Proof.Machine

theorem tileOk_default : tileOk ({} : Tile) = true := by
  simp only [tileOk, smOk, smOkFrom, smGet, beq_self_eq_true, Bool.and_true]

theorem inv_setTile {s : State} (h : Inv s) (t : Nat) (g : Tile → Tile) (hg : ∀ x, tileOk x = true → tileOk (g x) = true) :
    Inv (setTile s t g) := by
  obtain ⟨h1, h2, h3, h4, h5⟩ := h
  refine ⟨h1, h2, h3, smOk_smSet _ _ _ _ h4, smSet_all _ _ _ _ _ h5 ?_⟩
  exact hg _ (smGet_all _ s.tiles tileOk t h5 tileOk_default)

theorem tileOk_clear (c : TileCore) : tileOk (clearTile c) = true := tileOk_default

/-- Every update keeps the canonical form. -/
theorem inv_applyUpd {s : State} (u : Upd) (h : Inv s) : Inv (applyUpd u s) := by
  cases u with
  | reg off v => exact ⟨smOk_smSet _ _ _ _ h.1, h.2.1, h.2.2.1, h.2.2.2⟩
  | hbm a l => exact ⟨h.1, smOk_smPut _ _ _ h.2.1, h.2.2.1, h.2.2.2⟩
  | pond t off l => exact ⟨h.1, h.2.1, smOk_smPut _ _ _ h.2.2.1, h.2.2.2⟩
  | pondZero t => exact ⟨h.1, h.2.1, smOk_smDrop _ _ _ _ h.2.2.1, h.2.2.2⟩
  | core t c => exact inv_setTile h t _ fun x hx => hx
  | csr t n v =>
    refine inv_setTile h t _ fun x hx => ?_
    simp only [tileOk, Bool.and_eq_true] at hx ⊢
    exact ⟨⟨⟨⟨⟨⟨smOk_smSet _ _ _ _ hx.1.1.1.1.1.1, hx.1.1.1.1.1.2⟩, hx.1.1.1.1.2⟩, hx.1.1.1.2⟩, hx.1.1.2⟩, hx.1.2⟩, hx.2⟩
  | sreg t i v =>
    simp only [applyUpd]
    split
    · exact h
    · refine inv_setTile h t _ fun x hx => ?_
      simp only [tileOk, Bool.and_eq_true, smGet_smSet] at hx ⊢
      rw [if_neg (Ne.symm ‹_›)]
      exact ⟨⟨⟨⟨⟨⟨hx.1.1.1.1.1.1, smOk_smSet _ _ _ _ hx.1.1.1.1.1.2⟩, hx.1.1.1.1.2⟩, hx.1.1.1.2⟩, hx.1.1.2⟩, hx.1.2⟩, hx.2⟩
  | vreg t i v =>
    refine inv_setTile h t _ fun x hx => ?_
    simp only [tileOk, Bool.and_eq_true] at hx ⊢
    exact ⟨⟨⟨⟨⟨⟨hx.1.1.1.1.1.1, hx.1.1.1.1.1.2⟩, smOk_smSet _ _ _ _ hx.1.1.1.1.2⟩, hx.1.1.1.2⟩, hx.1.1.2⟩, hx.1.2⟩, hx.2⟩
  | preg t i v =>
    simp only [applyUpd]
    split
    · exact h
    · refine inv_setTile h t _ fun x hx => ?_
      simp only [tileOk, Bool.and_eq_true, smGet_smSet] at hx ⊢
      rw [if_neg (Ne.symm ‹_›)]
      exact ⟨⟨⟨⟨⟨⟨hx.1.1.1.1.1.1, hx.1.1.1.1.1.2⟩, hx.1.1.1.1.2⟩, smOk_smSet _ _ _ _ hx.1.1.1.2⟩, hx.1.1.2⟩, hx.1.2⟩, hx.2⟩
  | acc t k v =>
    refine inv_setTile h t _ fun x hx => ?_
    simp only [tileOk, Bool.and_eq_true] at hx ⊢
    exact ⟨⟨⟨⟨⟨⟨hx.1.1.1.1.1.1, hx.1.1.1.1.1.2⟩, hx.1.1.1.1.2⟩, hx.1.1.1.2⟩, smOk_smSet _ _ _ _ hx.1.1.2⟩, hx.1.2⟩, hx.2⟩
  | accZero t a =>
    refine inv_setTile h t _ fun x hx => ?_
    simp only [tileOk, Bool.and_eq_true] at hx ⊢
    exact ⟨⟨⟨⟨⟨⟨hx.1.1.1.1.1.1, hx.1.1.1.1.1.2⟩, hx.1.1.1.1.2⟩, hx.1.1.1.2⟩, smOk_smDrop _ _ _ _ hx.1.1.2⟩, hx.1.2⟩, hx.2⟩
  | tileClear t => exact inv_setTile h t _ fun x _ => tileOk_clear _
  | sys y => exact h
  | reset y => exact ⟨rfl, h.2.1, rfl, rfl, rfl⟩
  | out m => exact h
  | free => exact h

/-- So does every list of updates. -/
theorem inv_applyLog {s : State} (l : List Upd) (h : Inv s) : Inv (applyLog l s) := by
  induction l with
  | nil => exact h
  | cons u l ih => exact inv_applyUpd u ih

@[simp] theorem pending_applyUpd (u : Upd) (s : State) : (applyUpd u s).pending = s.pending := by
  cases u <;> simp

/-- No command touches the queue. -/
@[simp] theorem pending_applyLog (l : List Upd) (s : State) : (applyLog l s).pending = s.pending := by
  induction l with
  | nil => rfl
  | cons u l ih => simp [ih]

/-- No update withdraws what has been sent. -/
theorem out_applyLog (l : List Upd) (s : State) : ∃ o, (applyLog l s).out = s.out ++ o := by
  induction l with
  | nil => exact ⟨[], by simp⟩
  | cons u l ih =>
    obtain ⟨o, e⟩ := ih
    cases u
    case out m => exact ⟨o ++ [m], by simp [applyUpd, e]⟩
    all_goals exact ⟨o, by simpa using e⟩

/-- Free values are taken in order. -/
theorem free_applyLog (l : List Upd) (s : State) : s.free ≤ (applyLog l s).free := by
  induction l with
  | nil => exact Nat.le_refl _
  | cons u l ih =>
    cases u
    case free => exact Nat.le_succ_of_le ih
    all_goals simpa using ih

end Sys2Proof
end

