-- ==== Sys2Proof/Laws/Tile.lean ====
section
/-! SUPPORT. The issue and the commit of an instruction, and the event counters. -/
namespace Sys2Proof.Machine

/-- The update of an event counter's register. -/
def isCtrUpd (u : Upd) : Prop := ∃ off v, u = .reg off v ∧ ctrOff off = true

theorem mem_touched {s : State} {base stride n i : Nat} (h : i ∈ touched s base stride n) : i < n := by
  simp only [touched, List.mem_filterMap] at h
  obtain ⟨p, _, e⟩ := h
  split at e
  · cases e
    have : p.1 - base < stride * n := by omega
    exact Nat.div_lt_of_lt_mul this
  · cases e

/-- A counter's count moves its register and nothing else. -/
theorem emits_ctrCount {k : Nat} (hk : k < 256) (n : Nat) : Emits isCtrUpd (ctrCount k n) := by
  have hv : ∀ x, isCtrUpd (.reg (F.TELEM_CTR_VALUE k).r.off x) := fun x => ⟨_, x, rfl, by
    simp [ctrOff, F.TELEM_CTR_VALUE, R.TELEM_CTR, D.TELEM_CTR, regRef, dotDims]; omega⟩
  have ho : ∀ x, isCtrUpd (.reg (F.TELEM_CTR_OVF k).r.off x) := hv
  refine emits_bind emits_cur fun s => ?_
  dsimp only
  exact emits_ite (fun _ => emits_putF hv) fun _ => emits_bind (emits_putF hv) fun _ => emits_putF ho

/-- An event moves the counters that count it, and nothing else. -/
theorem emits_countEv (b e i : Nat) (v : Option Nat) (n : Nat) : Emits isCtrUpd (countEv b e i v n) := by
  unfold countEv
  refine emits_bind emits_cur fun s => emits_forM fun k hk => ?_
  exact emits_ctrCount (mem_touched (List.mem_filter.1 (List.mem_filter.1 hk).1).1) n

/-- Only the event counters differ. -/
def ctrSame (s s' : State) : Prop :=
  (∀ r : RegRef, ctrOff r.off = false → getR s' r = getR s r) ∧ s'.hbm = s.hbm ∧ s'.pond = s.pond ∧
  s'.tiles = s.tiles ∧ s'.sys = s.sys ∧ s'.out = s.out ∧ s'.free = s.free ∧ s'.pending = s.pending

theorem ctrSame_refl (s : State) : ctrSame s s := ⟨fun _ _ => rfl, rfl, rfl, rfl, rfl, rfl, rfl, rfl⟩

theorem ctrSame_emits {α : Type} {m : M α} (h : Emits isCtrUpd m) (s : State) (l : List Upd) :
    ctrSame (applyLog l s) (applyLog (runM m s l).2 s) := by
  refine emits_rel h ctrSame ctrSame_refl ?_ s l
  rintro s u s' ⟨h1, h2⟩ ⟨off, v, rfl, ho⟩
  refine ⟨fun r hr => ?_, h2⟩
  rw [getR_reg, if_neg (by rintro rfl; simp [ho] at hr)]
  exact h1 r hr

/-- What an event leaves. -/
theorem ctrSame_countEv (b e i : Nat) (v : Option Nat) (n : Nat) (s : State) (l : List Upd) :
    ctrSame (applyLog l s) (applyLog (runM (countEv b e i v n) s l).2 s) :=
  ctrSame_emits (emits_countEv b e i v n) s l

/-- What ctrSame says of each reading of the state. -/
theorem ctrSame_reads {s s' : State} (h : ctrSame s s') :
    (∀ t, tileOf s' t = tileOf s t) ∧ (∀ t i, getS s' t i = getS s t i) ∧ (∀ t i, getV s' t i = getV s t i) ∧
    (∀ t i, getP s' t i = getP s t i) ∧ (∀ t i, getCsr s' t i = getCsr s t i) ∧ (∀ a, hbmByte s' a = hbmByte s a) ∧
    (∀ t a, pondByte s' t a = pondByte s t a) := by
  obtain ⟨_, h2, h3, h4, _⟩ := h
  simp [tileOf, getS, getV, getP, getCsr, hbmByte, pondByte, h2, h3, h4]

/-- The same for the parts of a tile and what lies around it. -/
theorem ctrSame_tile {s s' : State} (h : ctrSame s s') (t : Nat) :
    tileIs s' t (getS s t) (getV s t) (getP s t) (accAt s t) (getCsr s t) (tileOf s t).core ∧
    sameOthers s s' t ∧ sameMemory s s' ∧ sameSystem s s' := by
  obtain ⟨r1, r2, r3, r4, r5, r6, r7⟩ := ctrSame_reads h
  refine ⟨⟨r2 t, r3 t, r4 t, fun k => ?_, r5 t, by rw [r1]⟩, fun u _ => r1 u, ⟨r6, r7⟩, h.1, h.2.2.2.2.1, h.2.2.2.2.2.1,
    h.2.2.2.2.2.2.2⟩
  unfold accAt; rw [r1]

/-- An instruction that a ready tile issues runs. -/
theorem runM_issue {s : State} {t : Nat} {w : W64} {row : Bool} (m : M Unit) (l : List Upd)
    (h : tileReady (applyLog l s) t w = true) (hr : row = true) : runM (issue t row w m) s l = runM m s l := by
  simp only [tileReady, tileFetches, Bool.and_eq_true, beq_iff_eq, Bool.not_eq_true', fetches] at h
  obtain ⟨⟨⟨⟨h1, h2⟩, h3⟩, h4⟩, h5⟩ := h
  simp only [issue, runM_bind, runM_cur, runM_ite, h1, hr, h2, h3]
  split at h4
  · next e => simp [e, h5]
  · cases h4

/-- A word that is ILLEGAL by its encoding raises ILLEGAL with EADDR the word (03 R74, R94). -/
theorem runM_issue_illegal {s : State} {t : Nat} {w : W64} {row : Bool} (m : M Unit) (l : List Upd)
    (h : tileFetches (applyLog l s) t = true) (hr : row = true) (hw : legalWord w = false) :
    runM (issue t row w m) s l = runM (raise t xIllegal w) s l := by
  simp only [tileFetches, Bool.and_eq_true, beq_iff_eq, Bool.not_eq_true', fetches] at h
  obtain ⟨⟨⟨h1, h2⟩, h3⟩, h4⟩ := h
  simp only [issue, runM_bind, runM_cur, runM_ite, h1, hr, h2, h3]
  split at h4
  · next e => simp [e, hw]
  · cases h4

/-- Taking an exception with a handler (03 R96). -/
theorem after_raise {s : State} {t cause : Nat} {ea : W64} {l : List Upd} (h : handlerReady (applyLog l s) t = true) :
    ∃ S, ctrSame (applyLog l s) S ∧ applyLog (runM (raise t cause ea) s l).2 s =
      applyUpd (.core t { (tileOf (applyLog l s) t).core with
          pc := (getCsr (applyLog l s) t csrTVEC).setWidth 48, ih := true, state := .run, stall := .none, xlSince := none })
        (applyUpd (.csr t csrEADDR ea) (applyUpd (.csr t csrECAUSE (BitVec.ofNat 64 cause))
          (applyUpd (.csr t csrEPC ((tileOf (applyLog l s) t).core.pc.setWidth 64)) S))) := by
  simp only [handlerReady, Bool.and_eq_true, Bool.not_eq_true', bne_iff_ne, ne_eq] at h
  refine ⟨_, ctrSame_countEv 1 5 t (some (tileOf (applyLog l s) t).core.vi) 1 s l, ?_⟩
  simp only [raise, runM_bind, runM_cur, runM_ite, h.1, h.2, Bool.false_eq_true, false_or, if_false, runM_emit, applyLog_cons]

/-- The state after a commit. -/
theorem after_commitTo (t : Nat) (pc : BitVec 48) (s : State) (l : List Upd) :
    ctrSame (applyUpd (.core t (committed (tileOf (applyLog l s) t).core pc)) (applyLog l s))
      (applyLog (runM (commitTo t pc) s l).2 s) := by
  simp only [commitTo, runM_bind, runM_modCore, runM_cur]
  exact ctrSame_countEv _ _ _ _ _ s _

theorem after_commit (t : Nat) (s : State) (l : List Upd) :
    ctrSame (applyUpd (.core t (committed (tileOf (applyLog l s) t).core (nextPc (tileOf (applyLog l s) t).core.pc)))
      (applyLog l s)) (applyLog (runM (commit t) s l).2 s) := by
  simp only [commit, runM_bind, runM_cur]
  exact after_commitTo t _ s l

/-- The parts of a tile, the other tiles and the rest after a commit, given what they are before it. -/
theorem commitTo_step {s : State} {l : List Upd} {t : Nat} {pc : BitVec 48} {S C : Nat → W64} {V : Nat → BitVec 8192}
    {P : Nat → BitVec 1024} {A : Nat → W64} {c : TileCore}
    (hS : ∀ i, getS (applyLog l s) t i = S i) (hV : ∀ i, getV (applyLog l s) t i = V i)
    (hP : ∀ i, getP (applyLog l s) t i = P i) (hA : ∀ i, accAt (applyLog l s) t i = A i)
    (hC : ∀ i, getCsr (applyLog l s) t i = C i) (hc : (tileOf (applyLog l s) t).core = c)
    (ho : sameOthers s (applyLog l s) t) (hy : sameSystem s (applyLog l s)) :
    tileIs (applyLog (runM (commitTo t pc) s l).2 s) t S V P A C (committed c pc) ∧
    sameOthers s (applyLog (runM (commitTo t pc) s l).2 s) t ∧
    sameMemory (applyLog l s) (applyLog (runM (commitTo t pc) s l).2 s) ∧
    sameSystem s (applyLog (runM (commitTo t pc) s l).2 s) := by
  have h := after_commitTo t pc s l
  obtain ⟨⟨h1, h2, h3, h4, h5, h6⟩, h7, h8, h9⟩ := ctrSame_tile h t
  refine ⟨⟨?_, ?_, ?_, ?_, ?_, ?_⟩, ?_, ?_, ?_⟩
  · intro i; rw [h1]; simp [hS]
  · intro i; rw [h2]; simp [hV]
  · intro i; rw [h3]; simp [hP]
  · intro i; rw [h4]; simp [hA]
  · intro i; rw [h5]; simp [hC]
  · rw [h6]; simp [hc]
  · intro u hu; rw [h7 u hu, tileOf_core, if_neg hu, ho u hu]
  · exact ⟨fun a => by rw [h8.1]; simp, fun u b => by rw [h8.2]; simp⟩
  · obtain ⟨y1, y2, y3, y4⟩ := hy
    obtain ⟨z1, z2, z3, z4⟩ := h9
    exact ⟨fun r hr => by rw [z1 r hr]; simp [y1 r hr], by rw [z2]; simp [y2], by rw [z3]; simp [y3], by rw [z4]; simp⟩

theorem sameMemory_trans {a b c : State} (h : sameMemory a b) (k : sameMemory b c) : sameMemory a c :=
  ⟨fun x => (k.1 x).trans (h.1 x), fun x y => (k.2 x y).trans (h.2 x y)⟩

/-- With no matrix instruction pending nothing is waited for. -/
theorem runM_matWait_none (t : Nat) (p : MatOp → Bool) (s : State) (l : List Upd)
    (h : (tileOf (applyLog l s) t).core.mat = []) : runM (matWait t p) s l = ((), l) := by
  simp [matWait, h]
theorem runM_waitLoad_none (t : Nat) (ps : List Pa) (s : State) (l : List Upd)
    (h : (tileOf (applyLog l s) t).core.mat = []) : runM (waitLoad t ps) s l = ((), l) := by
  simp [waitLoad, matWait, h]
theorem runM_waitStore_none (t : Nat) (ps : List Pa) (s : State) (l : List Upd)
    (h : (tileOf (applyLog l s) t).core.mat = []) : runM (waitStore t ps) s l = ((), l) := by
  simp [waitStore, matDrain, matWait, h]

end Sys2Proof.Machine
end

