-- ==== Sys2Proof/Laws/Frame.lean ====
section
/-! SUPPORT. What the shared operations of the engines leave alone: memory, tiles and the registers of other blocks. -/
namespace Sys2Proof.Machine

/-- An update of a register of the blocks, of an event counter, of the system part, of what is sent or of the free
values. -/
def regsIn (rs : List Nat) : Upd → Prop
  | .reg off _ => ctrOff off = true ∨ offIn rs off = true
  | .sys _ => True
  | .out _ => True
  | .free => True
  | _ => False

theorem regsIn_mono {rs rs' : List Nat} (h : ∀ off, offIn rs off = true → offIn rs' off = true) (u : Upd)
    (hu : regsIn rs u) : regsIn rs' u := by
  cases u <;> first | exact hu | (exact hu.imp id (h _))

theorem sameMemory_refl (s : State) : sameMemory s s := ⟨fun _ => rfl, fun _ _ => rfl⟩

theorem onlyRegs_refl (s : State) (rs : List Nat) : onlyRegs s s rs :=
  ⟨sameMemory_refl s, fun _ => rfl, fun _ _ _ => rfl, rfl⟩

theorem onlyRegs_upd {rs : List Nat} {s s' : State} {u : Upd} (h : onlyRegs s s' rs) (hu : regsIn rs u) :
    onlyRegs s (applyUpd u s') rs := by
  obtain ⟨⟨h1, h2⟩, h3, h4, h5⟩ := h
  cases u with
  | reg off v =>
    refine ⟨⟨fun a => by simp [h1], fun t b => by simp [h2]⟩, h3, fun r hc ho => ?_, h5⟩
    rw [getR_reg, if_neg, h4 r hc ho]
    rintro rfl
    rcases hu with e | e
    · rw [e] at hc; cases hc
    · rw [e] at ho; cases ho
  | sys y => exact ⟨⟨h1, h2⟩, h3, h4, h5⟩
  | out m => exact ⟨⟨h1, h2⟩, h3, h4, h5⟩
  | free => exact ⟨⟨h1, h2⟩, h3, h4, h5⟩
  | hbm a l => exact hu.elim
  | pond t o l => exact hu.elim
  | pondZero t => exact hu.elim
  | core t c => exact hu.elim
  | csr t n v => exact hu.elim
  | sreg t i v => exact hu.elim
  | vreg t i v => exact hu.elim
  | preg t i v => exact hu.elim
  | acc t k v => exact hu.elim
  | accZero t a => exact hu.elim
  | tileClear t => exact hu.elim
  | reset y => exact hu.elim

/-- What an action that only updates such things leaves. -/
theorem only_of_emits {α : Type} {rs : List Nat} {m : M α} (h : Emits (regsIn rs) m) (s : State) (l : List Upd) :
    onlyRegs (applyLog l s) (applyLog (runM m s l).2 s) rs :=
  emits_rel h (fun a b => onlyRegs a b rs) (fun s => onlyRegs_refl s rs) (fun _ _ _ e p => onlyRegs_upd e p) s l

variable {rs : List Nat}

theorem fr_countEv (b e i : Nat) (v : Option Nat) (n : Nat) : Emits (regsIn rs) (countEv b e i v n) :=
  emits_mono (emits_countEv b e i v n) fun u h => by
    obtain ⟨off, v, rfl, ho⟩ := h
    exact Or.inl ho

theorem fr_send (m : Output) : Emits (regsIn rs) (send m) := emits_send trivial
theorem fr_modSys (g : Sys → Sys) : Emits (regsIn rs) (modSys g) := emits_modSys fun _ => trivial
theorem fr_putR (r : RegRef) (v : Nat) (h : offIn rs r.off = true) : Emits (regsIn rs) (putR r v) :=
  emits_putR fun _ => Or.inr h
theorem fr_putF (f : FieldRef) (v : Nat) (h : offIn rs f.r.off = true) : Emits (regsIn rs) (putF f v) :=
  emits_putF fun _ => Or.inr h
theorem fr_addSat (f : FieldRef) (n : Nat) (h : offIn rs f.r.off = true) : Emits (regsIn rs) (addSat f n) :=
  emits_bind emits_cur fun _ => fr_putF f _ h
theorem fr_event (a b c : Nat) : Emits (regsIn rs) (event a b c) := fr_send _
theorem fr_takeFree : Emits (regsIn rs) takeFree := emits_takeFree trivial
theorem fr_trigger (a b c d : Nat) : Emits (regsIn rs) (trigger a b c d) :=
  emits_bind emits_cur fun _ => fr_modSys _

theorem fr_evictLine (a : Nat) (x : HLine) : Emits (regsIn rs) (evictLine a x) := by
  unfold evictLine
  refine emits_bind emits_cur fun s => emits_ite (fun _ => emits_pure _) fun _ => ?_
  exact emits_bind (fr_modSys _) fun _ => emits_bind (fr_modSys _) fun _ => emits_bind (fr_send _) fun _ => emits_pure _

theorem fr_lineRoom : Emits (regsIn rs) lineRoom := by
  unfold lineRoom
  refine emits_bind emits_cur fun s => emits_ite (fun _ => emits_pure _) fun _ => ?_
  split
  · exact fr_evictLine _ _
  · exact emits_pure _

theorem fr_lineWrite (vi a off : Nat) (l : List Byte) : Emits (regsIn rs) (lineWrite vi a off l) := by
  unfold lineWrite
  refine emits_bind emits_cur fun s => ?_
  split
  · exact fr_modSys _
  · split
    · split
      · exact fr_modSys _
      · exact emits_bind (fr_modSys _) fun _ => fr_send _
      · exact fr_modSys _
    · refine emits_bind fr_lineRoom fun ok => emits_ite (fun _ => ?_) fun _ => fr_modSys _
      exact emits_bind (fr_modSys _) fun _ => fr_send _

theorem fr_slTouch (n : Nat) : Emits (regsIn rs) (slTouch n) := by
  unfold slTouch
  exact emits_bind emits_cur fun s => emits_ite (fun _ => fr_lineWrite _ _ _ _) fun _ => fr_modSys _

theorem fr_ctrChanged (c : Nat) : Emits (regsIn rs) (ctrChanged c) := by
  unfold ctrChanged
  exact emits_bind emits_cur fun s => emits_forM fun n _ => fr_slTouch n

/-- Registers that reporting an MSI-X vector may touch. -/
theorem fr_sendVec (d vec : Nat) : Emits (regsIn rs) (sendVec d vec) := by
  unfold sendVec
  exact emits_bind emits_cur fun s => emits_ite (fun _ => fr_modSys _) fun _ => emits_whenB fun _ => fr_send _

theorem fr_sendPf (vec : Nat) : Emits (regsIn rs) (sendPf vec) :=
  emits_bind emits_cur fun _ => fr_sendVec _ _

end Sys2Proof.Machine
end

