-- ==== Sys2Proof/Laws/Mem.lean ====
section
/-! SUPPORT. What a write at places does to every byte, and what it leaves. -/
namespace Sys2Proof.Machine

/-- A place that exists: a byte of HBM, or of the pond of a tile (05 R132). -/
def placeOk : Pa → Bool
  | .hbm _ => true
  | .pond _ off => decide (off < pondSize)

/-- The update that writes a byte at a place. -/
def paUpd (p : Pa) (b : Byte) : Upd :=
  match p with
  | .hbm a => .hbm a [b]
  | .pond t off => .pond t off [b]

/-- A byte read after one is written. -/
theorem paByte_paUpd (p q : Pa) (b : Byte) (s : State) (hp : placeOk p = true) (hq : placeOk q = true) :
    paByte (applyUpd (paUpd p b) s) q = if q = p then b else paByte s q := by
  cases p with
  | hbm a =>
    cases q with
    | hbm c =>
      simp only [paUpd, paByte, hbmByte_hbm, List.length_singleton, Pa.hbm.injEq]
      by_cases h : c = a
      · subst h; simp
      · rw [if_neg (by omega), if_neg h]
    | pond t off => simp [paUpd, paByte]
  | pond t off =>
    cases q with
    | hbm c => simp [paUpd, paByte]
    | pond u k =>
      have hp := of_decide_eq_true hp
      have hq := of_decide_eq_true hq
      simp only [pondSize] at hp hq
      simp only [paUpd, paByte, pondByte_pond, List.length_singleton, Pa.pond.injEq]
      by_cases h : u = t ∧ k = off
      · obtain ⟨rfl, rfl⟩ := h; simp
      · rw [if_neg (by omega), if_neg h]

theorem runM_paWrite_nil (s : State) (l : List Upd) : runM (paWrite []) s l = ((), l) := (rfl)

theorem runM_paWrite_cons (p : Pa) (b : Byte) (w : List (Pa × Byte)) (s : State) (l : List Upd) :
    runM (paWrite ((p, b) :: w)) s l = runM (paWrite w) s (paUpd p b :: l) := by
  cases p <;> rfl

/-- Updates of memory. -/
def isMemUpd (u : Upd) : Prop := ∃ p b, u = paUpd p b

theorem emits_paWrite (w : List (Pa × Byte)) : Emits isMemUpd (paWrite w) := by
  refine emits_forM fun p _ => ?_
  obtain ⟨q, b⟩ := p
  cases q
  · exact emits_emit ⟨.hbm _, b, rfl⟩
  · exact emits_emit ⟨.pond _ _, b, rfl⟩

/-- A write at places changes bytes of memory alone. -/
def memOnly (s s' : State) : Prop :=
  s'.regs = s.regs ∧ s'.tiles = s.tiles ∧ s'.sys = s.sys ∧ s'.out = s.out ∧ s'.free = s.free ∧ s'.pending = s.pending

theorem memOnly_emits {α : Type} {m : M α} (h : Emits isMemUpd m) (s : State) (l : List Upd) :
    memOnly (applyLog l s) (applyLog (runM m s l).2 s) := by
  refine emits_rel h memOnly (fun _ => ⟨rfl, rfl, rfl, rfl, rfl, rfl⟩) ?_ s l
  rintro s u s' ⟨h1, h2, h3, h4, h5, h6⟩ ⟨p, b, rfl⟩
  cases p <;> simp [paUpd, memOnly, h1, h2, h3, h4, h5, h6]

/-- A write gives every place one byte. -/
def oneByte (w : List (Pa × Byte)) : Prop := ∀ x ∈ w, ∀ y ∈ w, x.1 = y.1 → x.2 = y.2

/-- Reading a place after bytes are written, where every place takes one byte. -/
theorem paByte_paWrite (w : List (Pa × Byte)) : ∀ (s : State) (l : List Upd) (q : Pa), oneByte w →
    (∀ p ∈ w, placeOk p.1 = true) → placeOk q = true →
    (∀ b, (q, b) ∈ w → paByte (applyLog (runM (paWrite w) s l).2 s) q = b) ∧
    ((∀ b, (q, b) ∉ w) → paByte (applyLog (runM (paWrite w) s l).2 s) q = paByte (applyLog l s) q) := by
  induction w with
  | nil => intro s l q _ _ _; exact ⟨fun b h => by simp at h, fun _ => rfl⟩
  | cons p w ih =>
    intro s l q hn hp hq
    obtain ⟨p, b⟩ := p
    obtain ⟨ih1, ih2⟩ := ih s (paUpd p b :: l) q (fun x hx y hy => hn x (by simp [hx]) y (by simp [hy]))
      (fun x hx => hp x (by simp [hx])) hq
    have hr : paByte (applyLog (paUpd p b :: l) s) q = if q = p then b else paByte (applyLog l s) q := by
      rw [applyLog_cons, paByte_paUpd _ _ _ _ (hp (p, b) (by simp)) hq]
    rw [runM_paWrite_cons]
    refine ⟨fun c hc => ?_, fun hc => ?_⟩
    · by_cases hm : ∃ d, (q, d) ∈ w
      · obtain ⟨d, hd⟩ := hm
        rw [ih1 d hd]
        exact hn (q, d) (by simp [hd]) (q, c) hc rfl
      · rw [ih2 (fun d hd => hm ⟨d, hd⟩), hr]
        rcases List.mem_cons.1 hc with e | e
        · cases e; simp
        · exact absurd ⟨c, e⟩ hm
    · rw [ih2 (fun d hd => hc d (by simp [hd])), hr, if_neg]
      rintro rfl
      exact hc b (by simp)

theorem placeOk_pond (t off : Nat) (h : off < pondSize) : placeOk (.pond t off) = true := decide_eq_true h

/-- A translation gives a place that exists (05 R138, R144). -/
theorem pondXl_ok {s : State} {v : Nat} {self : Option Nat} {va : Nat} {p : Pa} (h : pondXl s v self va = .ok p) :
    placeOk p = true := by
  unfold pondXl at h
  split at h
  · split at h
    · next h1 _ _ =>
      rw [Xl.ok.injEq] at h; rw [← h]
      refine placeOk_pond _ _ ?_
      unfold pondSize; omega
    · cases h
  · split at h
    · next h2 =>
      split at h
      · rw [Xl.ok.injEq] at h; rw [← h]
        exact placeOk_pond _ _ h2.2.2
      · cases h
    · cases h

theorem stage2_ok {s : State} {wt : Bool} {v ipa : Nat} {p : Pa} (h : stage2 s wt v ipa = .ok p) : placeOk p = true := by
  unfold stage2 at h
  split at h
  · cases h
  · split at h
    · cases h
    · cases h; rfl

theorem s1entry_ok {s : State} {wt : Bool} {v va acc k e : Nat} {p : Pa} (h : s1entry s wt v va acc k e = .inl (.ok p)) :
    placeOk p = true := by
  unfold s1entry at h
  by_cases h1 : (!teV e) = true
  · rw [if_pos h1] at h; cases h
  rw [if_neg h1] at h
  by_cases h2 : teMalformed e k = true
  · rw [if_pos h2] at h; cases h
  rw [if_neg h2] at h
  by_cases h3 : teLeaf e = true
  · rw [if_pos h3, Sum.inl.injEq] at h
    by_cases h4 : teAllows e acc = true
    · rw [if_pos h4] at h; exact stage2_ok h
    · rw [if_neg h4] at h; cases h
  · rw [if_neg h3] at h; cases h

theorem s1read_ok {x : Xl} {k : Nat → Xl ⊕ Nat} {p : Pa} (h : s1read x k = .inl (.ok p)) :
    x = .ok p ∨ ∃ a, k a = .inl (.ok p) := by
  cases x with
  | ok q =>
    cases q with
    | hbm a => exact Or.inr ⟨a, h⟩
    | pond t o => left; simpa [s1read] using h
  | fault => cases h
  | mig => cases h

theorem s1level_ok {s : State} {wt : Bool} {v va acc k tb : Nat} {p : Pa}
    (h : s1level s wt v va acc k tb = .inl (.ok p)) : placeOk p = true := by
  unfold s1level at h
  rcases s1read_ok h with h | ⟨a, h⟩
  · exact stage2_ok h
  · exact s1entry_ok h

theorem s1walk_ok {s : State} {wt : Bool} {v va acc : Nat} {p : Pa} (ls : List Nat) : ∀ tb,
    s1walk s wt v va acc ls tb = .ok p → placeOk p = true := by
  induction ls with
  | nil => intro tb h; cases h
  | cons k ls ih =>
    intro tb h
    unfold s1walk at h
    generalize hx : s1level s wt v va acc k tb = x at h
    cases x with
    | inl y => rw [s1next] at h; rw [h] at hx; exact s1level_ok hx
    | inr n => exact ih _ h

theorem translate_ok {s : State} {v : Nat} {self : Option Nat} {va acc : Nat} {p : Pa}
    (h : translate s v self va acc = .ok p) : placeOk p = true := by
  unfold translate at h
  split at h
  · exact pondXl_ok h
  · split at h
    · exact s1walk_ok _ _ h
    · cases h

theorem translateAll_ok {s : State} {v : Nat} {self : Option Nat} {acc : Nat} (l : List Nat) : ∀ {ps : List Pa},
    translateAll s v self acc l = .ok ps → ps.length = l.length ∧ ∀ p ∈ ps, placeOk p = true := by
  induction l with
  | nil => intro ps h; cases h; simp
  | cons a l ih =>
    intro ps h
    unfold translateAll at h
    split at h
    · next p e =>
      split at h
      · next qs e2 =>
        cases h
        obtain ⟨h1, h2⟩ := ih e2
        refine ⟨by simp [h1], ?_⟩
        intro q hq
        rcases List.mem_cons.1 hq with rfl | hq
        · exact translate_ok e
        · exact h2 q hq
      · next h3 => exact absurd h (h3 _)
    · cases h
    · cases h

end Sys2Proof.Machine
end

