-- ==== Sys2Proof/Laws/Vector.lean ====
section
/-! SUPPORT. The elements of a vector register and the lanes of a predicate. -/
namespace Sys2Proof.Machine

theorem testBit_packW (w : Nat) (l : List Nat) (i : Nat) (hw : 0 < w) :
    (packW w l).testBit i = ((l.getD (i / w) 0) % 2 ^ w).testBit (i % w) := by
  induction l generalizing i with
  | nil => simp [packW]
  | cons x l ih =>
    have hx : x % 2 ^ w < 2 ^ w := Nat.mod_lt _ (Nat.two_pow_pos _)
    rw [packW, Nat.add_comm, Nat.testBit_two_pow_mul_add _ hx]
    split
    · next h => rw [Nat.div_eq_of_lt h, Nat.mod_eq_of_lt h]; rfl
    · next h =>
      rw [ih]
      have e : i / w = (i - w) / w + 1 := by
        rw [← Nat.div_eq_sub_div hw (by omega)]
      rw [e, ← Nat.mod_eq_sub_mod (by omega)]
      rfl

theorem packW_lt (w : Nat) (l : List Nat) : packW w l < 2 ^ (w * l.length) := by
  induction l with
  | nil => simp [packW]
  | cons x l ih =>
    have hx : x % 2 ^ w < 2 ^ w := Nat.mod_lt _ (Nat.two_pow_pos _)
    have e : 2 ^ (w * (l.length + 1)) = 2 ^ w * 2 ^ (w * l.length) := by rw [← Nat.pow_add]; congr 1; rw [Nat.mul_add]; omega
    rw [packW, List.length_cons, e]
    calc x % 2 ^ w + 2 ^ w * packW w l < 2 ^ w + 2 ^ w * packW w l := by omega
      _ = 2 ^ w * (packW w l + 1) := by rw [Nat.mul_add]; omega
      _ ≤ 2 ^ w * 2 ^ (w * l.length) := Nat.mul_le_mul_left _ ih

/-- Bit i of a register once its first elements are those of a list. -/
theorem getLsbD_packV (w : Nat) (l : List Nat) (old : BitVec 8192) (i : Nat) (hw : 0 < w) (hi : i < 8192) :
    (packV w l old).getLsbD i =
      if i < w * l.length then ((l.getD (i / w) 0) % 2 ^ w).testBit (i % w) else old.getLsbD i := by
  unfold packV
  rw [BitVec.getLsbD_ofNat, Nat.add_comm, Nat.mul_comm (old.toNat / _), Nat.testBit_two_pow_mul_add _ (packW_lt w l)]
  simp only [hi, decide_true, Bool.true_and]
  split
  · exact testBit_packW w l i hw
  · rw [Nat.testBit_div_two_pow, Nat.sub_add_cancel (by omega)]; rfl

/-- Bit i of element k. -/
theorem testBit_elem (v : BitVec 8192) (w k i : Nat) (hw : 0 < w) :
    (elem v w k).testBit i = (decide (i < w) && v.getLsbD (k * w + i)) := by
  unfold elem
  rw [testBit_bits, Nat.add_comm i]
  have : k * w + w - 1 + 1 - k * w = w := by omega
  rw [this]; rfl

/-- Element k of a register whose first elements are set to a list's. -/
theorem elem_packV (w : Nat) (l : List Nat) (old : BitVec 8192) (k : Nat) (hw : 0 < w) (hl : w * l.length ≤ 8192)
    (hk : k < l.length) : elem (packV w l old) w k = l.getD k 0 % 2 ^ w := by
  apply Nat.eq_of_testBit_eq
  intro i
  rw [testBit_elem _ _ _ _ hw, Nat.testBit_mod_two_pow]
  by_cases h : i < w
  · have h2 : k * w + i < w * l.length := by
      calc k * w + i < k * w + w := by omega
        _ = w * (k + 1) := by rw [Nat.mul_add, Nat.mul_comm]; omega
        _ ≤ w * l.length := Nat.mul_le_mul_left _ hk
    have e1 : (k * w + i) / w = k := by rw [Nat.mul_comm, Nat.mul_add_div hw, Nat.div_eq_of_lt h]; rfl
    have e2 : (k * w + i) % w = i := by rw [Nat.mul_comm, Nat.mul_add_mod, Nat.mod_eq_of_lt h]
    rw [getLsbD_packV _ _ _ _ hw (by omega), if_pos h2, e1, e2, Nat.testBit_mod_two_pow]
    simp [h]
  · simp [h]

theorem elem_lt (v : BitVec 8192) (w k : Nat) (hw : 0 < w) : elem v w k < 2 ^ w := by
  unfold elem
  have : k * w + w - 1 + 1 - k * w = w := by omega
  have h := bits_lt v.toNat (k * w + w - 1) (k * w)
  rwa [this] at h

/-- Element widths are between 4 and 64 bits. -/
theorem etWidth_pos (et : Nat) : 4 ≤ etWidth et ∧ etWidth et ≤ 64 := by
  unfold etWidth; split <;> decide

/-- VLMAX elements of a type fill a register at most. -/
theorem vlmax_fits (et : Nat) : etWidth et * vlmax et ≤ 8192 := by
  unfold vlmax
  have := Nat.mul_div_le 8192 (etWidth et)
  exact Nat.le_trans (Nat.mul_le_mul_left _ (Nat.min_le_right _ _)) this

theorem length_upto (n : Nat) : (upto n).length = n := List.length_range

theorem getD_map_upto (f : Nat → Nat) (n k : Nat) (h : k < n) : ((upto n).map f).getD k 0 = f k := by
  simp [upto, List.getD, h]

theorem length_vecElems (p : BitVec 1024) (lane : Nat) (zm : Bool) (old : BitVec 8192) (dw n : Nat) (res : Nat → Nat) :
    (vecElems p lane zm old dw n res).length = n := by simp [vecElems, upto]

/-- A bit of a sum of distinct powers of two. -/
theorem testBit_sumOf (p : Nat → Bool) (n i : Nat) :
    (sumOf (fun j => if p j = true then 2 ^ j else 0) (upto n)).testBit i = (decide (i < n) && p i) := by
  have hs : ∀ (f : Nat → Nat) (a b : List Nat), sumOf f (a ++ b) = sumOf f a + sumOf f b := by
    intro f a b
    induction a with
    | nil => simp [sumOf]
    | cons x a ih => simp [sumOf, ih, Nat.add_assoc]
  have key : ∀ n, sumOf (fun j => if p j = true then 2 ^ j else 0) (upto n) < 2 ^ n ∧
      ∀ i, (sumOf (fun j => if p j = true then 2 ^ j else 0) (upto n)).testBit i = (decide (i < n) && p i) := by
    intro n
    induction n with
    | zero => exact ⟨by simp [upto, sumOf], by simp [upto, sumOf]⟩
    | succ n ih =>
      obtain ⟨h1, h2⟩ := ih
      rw [upto, List.range_succ, hs]
      change sumOf _ (upto n) + _ < _ ∧ ∀ i, Nat.testBit (sumOf _ (upto n) + _) i = _
      have e : sumOf (fun j => if p j = true then 2 ^ j else 0) [n] = 2 ^ n * (if p n = true then 1 else 0) := by
        simp [sumOf] <;> (split <;> simp)
      rw [e]
      have e2 : 2 ^ (n + 1) = 2 * 2 ^ n := by rw [Nat.pow_succ, Nat.mul_comm]
      refine ⟨by split <;> omega, ?_⟩
      intro i
      rw [Nat.add_comm, Nat.testBit_two_pow_mul_add _ h1]
      split
      · next h => rw [h2]; simp [h]; omega
      · next h =>
        by_cases hn : i = n
        · subst hn; by_cases hp : p i = true <;> simp [hp]
        · have : ¬ i < n + 1 := by omega
          simp only [this, decide_false, Bool.false_and]
          have hz : (if p n = true then 1 else 0) < 2 ^ 1 := by split <;> decide
          exact Nat.testBit_lt_two_pow (Nat.lt_of_lt_of_le hz (Nat.pow_le_pow_right (by omega) (by omega)))
  exact (key n).2 i

/-- An instruction whose VL is not 0 runs as any other (03 R78). -/
theorem runM_vissue {s : State} {t : TileNo} {w : W64} {row : Bool} (m : M Unit) (l : List Upd)
    (h : tileReady (applyLog l s) t w = true) (hr : row = true) (hv : vlNow (applyLog l s) t ≠ 0) :
    runM (vissue t row w m) s l = runM m s l := by
  unfold vissue
  rw [runM_issue _ l h hr]
  simp only [runM_bind, runM_cur, if_neg hv]

/-- With VL = 0 it is no operation (03 R78). -/
theorem runM_vissue_zero {s : State} {t : TileNo} {w : W64} {row : Bool} (m : M Unit) (l : List Upd)
    (h : tileReady (applyLog l s) t w = true) (hr : row = true) (hv : vlNow (applyLog l s) t = 0) :
    runM (vissue t row w m) s l = runM (commit t) s l := by
  unfold vissue
  rw [runM_issue _ l h hr]
  simp only [runM_bind, runM_cur, if_pos hv]

end Sys2Proof.Machine
end

