-- ==== Sys2Proof/Tests/Slice0.lean ====
section
/-! SUPPORT. The model's own tests: ill-formed commands are refused, the spec's worked examples come out, and for every
statement a state and operands that meet its hypotheses. -/
namespace Sys2Proof.Tests

open Sys2Proof Sys2Proof.Machine

/- One test at a time: together they would wait for one another on threads of their own. -/
set_option Elab.async false

/-! Helpers. -/

/-- The state with register fields set. -/
def withF (l : List (FieldRef × Nat)) (s : State) : State :=
  l.foldl (fun s p =>
    let v := BitVec.ofNat 64 (setBits (getR s p.1.r) p.1.hi p.1.lo p.2) ^^^ p.1.r.rst
    { s with regs := smSet 0 s.regs p.1.r.off v }) s

/-- A core that runs in the own-pond alias. -/
def core0 : TileCore := { state := .run, pc := 0xFF0000000000#48 }

/-- The reset state with tile 0 as given. -/
def onTile (x : Tile) : State := { State.reset with tiles := [(0, x)] }

/-- The reset state with another system part. -/
def onSys (g : Sys → Sys) : State := { State.reset with sys := g State.reset.sys }

/-- The command answers a next state with a property. -/
def gives (c : Instr) (s : State) (p : State → Bool) : Bool :=
  match exec c s with
  | .next s' => p s'
  | _ => false

/-- A word from its fields: value and lowest bit. -/
def wd (l : List (Nat × Nat)) : W64 := BitVec.ofNat 64 (l.foldl (fun a p => a + p.1 * 2 ^ p.2) 0)

/-! Ill-formed commands. -/

/-- A header, a link frame and a frame of Divide. -/
def hdr0 : Hdr :=
  { ddev := 0, dvi := 0, kind := 0, dinc := 0, sdev := 0, svi := 0, sinc := 0, stamp := 0, epoch := 0, last := 0,
    k0 := 0, k1 := 0 }
def div0 : DivFrame :=
  { id := 7, input := 80, tc := 0, owner := 0, inc := 0, dests := [100], cells := 1, flow := .queue 0, hdr := hdr0,
    payload := [] }
def addr0 : Addr :=
  { ddev := 0x7FFF, dvi := 0, dinc := 0, sdev := 0, svi := 0, sinc := 0, stamp := 0, epoch := 0, tc := 0 }
def dma0 : DmaFrame := { queue := 0, seq := 0, offset := 0, dst := 0, thdr := List.replicate 8 0, data := [1] }
def metro0 : MetroHdr := { srcMac := 0, version := 1, path := 0, psn := 0 }
def msg0 (n : Nat) : LinkMsg := { bytes := List.replicate n 0, crc := 0, errored := false }

theorem test_ill_formed :
    [Instr.regWrite .spi 0x10 2 0, .regWrite .spi 0x12 4 0, .regWrite .spi 0x14 8 0, .regWriteLowerHalf .spi 4 0,
      .regWriteUpperHalf .spi 8 0, .regReadLowerHalf .spi 4, .regReadUpperHalf .spi 8, .regAccessBadWidth .spi 8 4 true,
      .dmaData addr0 { dma0 with thdr := [] }, .dmaData addr0 { dma0 with data := List.replicate 4097 0 },
      .frameAdmit { div0 with cells := 0 }, .frameAdmit { div0 with cells := 17 }, .frameAdmit { div0 with dests := [] },
      .frameAdmit { div0 with dests := [172] }, .metroData 0 metro0 { div0 with cells := 0 }, .cap 0 (msg0 63),
      .ident 0 (msg0 65), .probe 0 (msg0 0) 0, .probeReply 0 (msg0 63), .sqEntryFetched 0 (some [0]),
      .pushWrite 0 0 0 60 [0, 0, 0, 0, 0], .mereFree 0 0 137 0].all (fun c => !wellFormed c) = true := by
  decide +kernel

theorem test_well_formed :
    [Instr.regWrite .spi 0x10 8 0, .regWrite .spi 0x14 4 0, .regWriteLowerHalf .spi 8 0, .regWriteUpperHalf .spi 12 0,
      .regReadLowerHalf .spi 8, .regReadUpperHalf .spi 12, .regAccessBadWidth .spi 10 4 true, .dmaData addr0 dma0,
      .frameAdmit div0, .frameAdmit { div0 with cells := 16, dests := [171] }, .metroData 0 metro0 div0,
      .cap 0 (msg0 64), .ident 0 (msg0 64), .probe 0 (msg0 64) 0, .probeReply 0 (msg0 64), .sqEntryFetched 0 none,
      .sqEntryFetched 0 (some (List.replicate 8 0)), .pushWrite 0 0 0 60 [0, 0, 0, 0], .mereFree 4 0 136 0,
      .add 0 0].all wellFormed = true := by
  decide +kernel

/-! The spec's worked examples. -/

/-- 02, after R36: 0.1 and 500.0 in E4M3 and D8 under the overflow codes. -/
theorem test_narrow_examples :
    (narrow .e4m3 0 0 0 (decodeF .f32 0x3DCCCCCD)).code = 0x1D ∧ (narrow .e4m3 0 0 0 (decodeF .f32 0x43FA0000)).code = 0x7E ∧
    (narrow .e4m3 0 1 0 (decodeF .f32 0x43FA0000)).code = 0x7F ∧ (narrow .e4m3 0 2 0 (decodeF .f32 0x43FA0000)).code = 0x7E ∧
    (narrow .d8 0 0 0 (decodeF .f32 0x43FA0000)).code = 0x7F ∧ (narrow .d8 0 2 0 (decodeF .f32 0x43FA0000)).code = 0x7F ∧
    (narrow .d8 0 1 0 (decodeF .f32 0x43FA0000)).code = 0x80 := by
  decide +kernel

/-- 02, after R43: a block whose largest value is 0.003. -/
theorem test_block_example :
    let b := encodeBlock .e4m3 0 0 false (fun _ => 0) [decodeF .f64 0x3F689374BC6A7EFA, decodeF .f64 0x3E35798EE2308C3A]
    b.code = 0x6E ∧ b.elems = [0x7C, 0] ∧ b.crush = 1 := by
  decide +kernel

/-- The words of the ledger examples of 02, and their sum. -/
def exWords : List Int := [104857600000000, 1048576, -104857600000000]

theorem test_ledger_example :
    autoGrid 64 (decodeF .f32 0x4CBEBC20) = -20 ∧
    [0x4CBEBC20, 0x3F800000, 0xCCBEBC20].map (fun c => (toLedger (decodeF .f32 c) (-20) 64 0 0 0).word) = exWords ∧
    exWords.foldl (ledgerAdd 64) 0 = 1048576 ∧ (narrow .f32 0 0 0 (ledgerVal 64 (-20) 1048576)).code = 0x3F800000 := by
  decide +kernel

/-- 02, after R53: the words take width 48 and 193 bytes, and are read back. -/
theorem test_packed_example :
    widthCode 64 exWords = 48 ∧ (packBlock 64 exWords).length = 193 ∧
    (unpackBlock 64 (packBlock 64 exWords)).map (fun p => p.1.take 3) = some exWords := by
  decide +kernel

/-- A tile with an element of type I16 in V1 and in V2, FXR as given, all lanes active and VL = 1. -/
def fxTile (a b fxr : Nat) : State :=
  onTile { core := core0, csr := [(0, 1), (2, BitVec.ofNat 64 fxr)],
           v := [(1, BitVec.ofNat 8192 a), (2, BitVec.ofNat 8192 b)] }
/-- VRMULH V3 := V1 × V2 of type I16. -/
def wRmulh : W64 := wd [(0x7D, 56), (3, 51), (1, 46), (2, 41), (1, 32)]

/-- 03, after R89: VRMULH of I16. -/
theorem test_vrmulh_example :
    gives (.vrmulh 0 wRmulh) (fxTile 0x4000 0x6000 0) (fun s => getV s 0 3 == 0x3000) = true ∧
    [(0, 1), (1, 0), (2, 0)].all (fun p => gives (.vrmulh 0 wRmulh) (fxTile 1 0x4000 p.1) fun s => (getV s 0 3).toNat == p.2)
      = true ∧
    gives (.vrmulh 0 wRmulh) (fxTile 0x8000 0x8000 0) (fun s => getV s 0 3 == 0x7FFF && getCsr s 0 csrFFLAGS == 0x20)
      = true := by
  decide +kernel

/-- A VI with the first eight tiles. -/
def eightTiles : State := withF [(⟨R.MGMT_VI_TILES 0 0, 63, 0⟩, 0xFF)] State.reset

/-- 05, after R137: 0xFE00_0140_0040 is offset 0x40 of the pond of the sixth tile. -/
theorem test_pond_slot_example :
    (match translate eightTiles 0 none 0xFE0001400040 aWrite with
     | .ok (.pond t o) => t == 5 && o == 0x40
     | _ => false) = true := by
  decide +kernel

/-- A comparator with ALPHA = 4, FACTOR = 1.5, WARM passed and REF 2.0. -/
def cmpState : State :=
  withF [(F.TARN_VI_CMP_CFG_EN 0 0, 1), (F.TARN_VI_CMP_CFG_ALPHA 0 0, 4), (F.TARN_VI_CMP_CFG_WARM 0 0, 8),
    (F.TARN_VI_CMP_FACTOR_FACTOR 0 0, 0x3FC00000), (F.TARN_VI_CMP_STAT_SEEN 0 0, 8),
    (F.TARN_VI_CMP_REF_REF 0 0, 0x4000000000000000)] State.reset
/-- The state that updates lead to. -/
def after (m : M Unit) (s : State) : State := applyLog (logOf m s) s

/-- 08, after R260: 3.5 is a spike and leaves REF; 2.16 then moves it to 2.01. -/
theorem test_comparator_example :
    let s := after (cmpSample 0 0 0x400C000000000000) cmpState
    getF s (F.TARN_VI_CMP_STAT_SPIKES 0 0) = 1 ∧ getF s (F.TARN_VI_CMP_REF_REF 0 0) = 0x4000000000000000 ∧
    getF (after (cmpSample 0 0 0x400147AE147AE148) s) (F.TARN_VI_CMP_REF_REF 0 0) / 2 ^ 8 = 0x4000147AE147AE := by
  decide +kernel

/-- 15, after R445: the board controller sets the cap to 1,700 W; a frame cut short is counted, and one too long writes. -/
def spiWords : List W32 := [0x20000001, 0x00200000, 0x000006A4, spCrc [0x20000001, 0x00200000, 0x000006A4]]

theorem test_spi_example :
    gives (.spiWrite { words := spiWords, edges := 128 }) State.reset
      (fun s => getF s F.CLKPWR_PCAP_CAP == 1700 && getF s F.MGMT_SPI_STAT_FRAME_ERR == 0) = true ∧
    gives (.spiWrite { words := spiWords.take 3, edges := 100 }) State.reset
      (fun s => getF s F.CLKPWR_PCAP_CAP == 1900 && getF s F.MGMT_SPI_STAT_FRAME_ERR == 1) = true ∧
    gives (.spiWrite { words := spiWords, edges := 136 }) State.reset
      (fun s => getF s F.CLKPWR_PCAP_CAP == 1700 && getF s F.MGMT_SPI_STAT_OVERCLK == 1) = true := by
  decide +kernel

/-- CRC-32C of the nine digits, as used by iSCSI (07 R202). -/
theorem test_crc32c : crc32c [0x31, 0x32, 0x33, 0x34, 0x35, 0x36, 0x37, 0x38, 0x39] = 0xE3069283 := by decide +kernel

/-- MOVI writes its immediate and moves the PC; a write to S0 is discarded (03 R69, R80). -/
theorem test_movi :
    gives (.movi 0 (wd [(0x18, 56), (1, 50), (5, 0)])) (onTile { core := core0 })
      (fun s => getS s 0 1 == 5 && (tileOf s 0).core.pc == 0xFF0000000008#48) = true ∧
    gives (.movi 0 (wd [(0x18, 56), (5, 0)])) (onTile { core := core0 }) (fun s => getS s 0 0 == 0) = true := by
  decide +kernel

/-- DIV by zero gives all ones and the most negative number by -1 itself (03 R81). -/
theorem test_div_corners :
    gives (.div 0 (wd [(3, 50), (1, 44), (5, 26)])) (onTile { core := core0, s := [(1, 7)] })
      (fun s => getS s 0 3 == BitVec.allOnes 64) = true ∧
    gives (.div 0 (wd [(3, 50), (1, 44), (2, 38), (5, 26)]))
      (onTile { core := core0, s := [(1, 0x8000000000000000), (2, BitVec.allOnes 64)] })
      (fun s => getS s 0 3 == 0x8000000000000000) = true := by
  decide +kernel

/-! States and operands that meet the hypotheses of the statements: scalar and system instructions. -/

/-- Tile 0 at an instruction in its pond, S1 = 0xFF0000000100 and S2 = 2, with a trap vector. -/
def scalarT : State :=
  onTile { core := core0, csr := [(0, 1), (0x20, 0xFF0000000800)], s := [(1, 0xFF0000000100), (2, 2)] }
/-- A word of format S: SD 3, SA 1, SB 2. -/
def wS (op fn : Nat) : W64 := wd [(op, 56), (3, 50), (1, 44), (2, 38), (fn, 26)]
/-- Formats I and L: SD 3, SA 1, and the immediate. -/
def wI (op imm : Nat) : W64 := wd [(op, 56), (3, 50), (1, 44), (imm, 0)]
/-- Format B: SA 1, SB 2. -/
def wB (op imm : Nat) : W64 := wd [(op, 56), (1, 50), (2, 44), (imm, 0)]

theorem test_wit_ScalarFloatResult :
    Claim.f64Ops.all (fun c => tileReady scalarT 0 (wS 1 c.2.1) && fnIs 1 c.2.1 (wS 1 c.2.1)) = true ∧
    Claim.f32Ops.all (fun c => tileReady scalarT 0 (wS 2 c.2.1) && fnIs 2 c.2.1 (wS 2 c.2.1)) = true ∧
    Claim.cvtOps.all (fun c => tileReady scalarT 0 (wS 3 c.2.1) && fnIs 3 c.2.1 (wS 3 c.2.1)) = true := by
  decide +kernel

/-- With an offset of -1, a branch to the word before, and a jump to S2 = 0x100. -/
theorem test_wit_BranchAndJumpTarget :
    Claim.branchOps.all (fun c => tileReady scalarT 0 (wB c.2.1 0xFFFFFFFF) && opIs c.2.1 (wB c.2.1 0xFFFFFFFF)) = true ∧
    (tileReady scalarT 0 (wB 0x26 4) && opIs 0x26 (wB 0x26 4)) = true ∧
    (let w := wd [(0x27, 56), (3, 50), (1, 44)]
     tileReady scalarT 0 w = true ∧ opIs 0x27 w = true ∧ (Claim.jrTarget scalarT 0 w).toNat % 8 = 0) := by
  decide +kernel

theorem test_wit_ScalarIntegerResult :
    Claim.intOps.all (fun c => tileReady scalarT 0 (wS 0 c.2.1) && fnIs 0 c.2.1 (wS 0 c.2.1)) = true ∧
    Claim.immOps.all (fun c => tileReady scalarT 0 (wI c.2.1 0x80000000) && opIs c.2.1 (wI c.2.1 0x80000000)) = true ∧
    (tileReady scalarT 0 (wI 0x19 1) && opIs 0x19 (wI 0x19 1)) = true := by
  decide +kernel

/-- The last bytes of the pond. -/
theorem test_wit_ScalarMemoryResult :
    Claim.loadOps.all (fun c =>
      let w := wI c.2.1 (0x300000 - 0x100 - c.2.2.1)
      let l := addrs (Claim.addr scalarT 0 w) c.2.2.1
      tileReady scalarT 0 w && opIs c.2.1 w && (tileOf scalarT 0).core.mat == [] && Claim.addr scalarT 0 w % c.2.2.1 == 0 &&
        tileXlate scalarT 0 aRead l == .ok (l.map fun a => .pond 0 (a - 0xFF0000000000))) = true ∧
    Claim.storeOps.all (fun c =>
      let w := wI c.2.1 (0x300000 - 0x100 - c.2.2)
      let l := addrs (Claim.addr scalarT 0 w) c.2.2
      let ps := l.map fun a => Pa.pond 0 (a - 0xFF0000000000)
      tileReady scalarT 0 w && opIs c.2.1 w && (tileOf scalarT 0).core.mat == [] && Claim.addr scalarT 0 w % c.2.2 == 0 &&
        tileXlate scalarT 0 aWrite l == .ok ps && decide ps.Nodup) = true := by
  decide +kernel

theorem test_wit_ControlRegisterInstructionResult :
    (tileOf scalarT 0).core.mat = [] ∧
    Claim.csrNumbers.all (fun n => tileReady scalarT 0 (wI 0x40 n) && opIs 0x40 (wI 0x40 n) && Claim.csrNo (wI 0x40 n) == n)
      = true ∧
    Claim.csrRw.all (fun n => tileReady scalarT 0 (wI 0x41 n) && opIs 0x41 (wI 0x41 n) && Claim.csrNo (wI 0x41 n) == n &&
      wf (getS scalarT 0 (oSA (wI 0x41 n))) 3 0 == 0) = true ∧
    [0x42, 0x45, 0x46].all (fun n => tileReady scalarT 0 (wI n 0) && opIs n (wI n 0)) = true := by
  decide +kernel

/-- ILLEGAL from a reserved class and a set reserved field; TRAP, ERET outside a handler, CSRs that do not exist or are
not RW; a breakpoint; ERET in a handler. -/
def brkT : State := withF [(F.TILE_BRK_EN 0, 1), (F.TILE_BRK_ADDR 0, 0xFF0000000000 / 8)] scalarT
theorem test_wit_ExceptionEntryAndReturn :
    (tileFetches scalarT 0 && handlerReady scalarT 0 && !legalWord (wd [(0xC, 60)]) &&
      !legalWord (wS 0 0 + 1)) = true ∧
    [wI 0x43 7, wI 0x44 0, wI 0x40 0x33, wI 0x41 0x30].all (fun w => tileReady scalarT 0 w) = true ∧
    Claim.csrNo (wI 0x40 0x33) ∉ Claim.csrNumbers ∧ Claim.csrNo (wI 0x41 0x30) ∉ Claim.csrRw ∧
    Claim.intOps.all (fun c => canIssue brkT 0 && handlerReady brkT 0 && fnIs 0 c.2.1 (wS 0 c.2.1) &&
      breakAt brkT 0 (tileOf brkT 0).core.pc) = true ∧
    (let s := onTile { core := { core0 with ih := true }, csr := [(0x21, 0xFF0000000010)] }
     tileReady s 0 (wI 0x44 0) = true ∧ (tileOf s 0).core.ih = true) := by
  decide +kernel

/-- Addresses and a target 1 past an aligned one. -/
theorem test_wit_MisalignedAccessRaisesAlign :
    (Claim.loadOps.map (fun c => (c.2.1, c.2.2.1)) ++ Claim.storeOps.map (fun c => (c.2.1, c.2.2))).all (fun c =>
      c.2 == 1 || (tileReady scalarT 0 (wI c.1 1) && opIs c.1 (wI c.1 1) && Claim.addr scalarT 0 (wI c.1 1) % c.2 != 0))
      = true ∧
    (let s := { scalarT with tiles := [(0, { core := core0, csr := [(0x20, 0xFF0000000800)], s := [(2, 1)] })] }
     let w := wB 0x27 0
     tileReady s 0 w = true ∧ handlerReady s 0 = true ∧ opIs 0x27 w = true ∧ bSA w ≠ bSB w ∧
     (getS s 0 (bSB w)).toNat % 8 ≠ 0) := by
  decide +kernel

theorem test_wit_TimePhaseSnapResult :
    [0x47, 0x48, 0x49].all (fun n => tileReady scalarT 0 (wI n 5) && opIs n (wI n 5)) = true ∧ recMode scalarT 0 = 0 ∧
    flag scalarT (F.TELEM_VI_REC_CTL_PHASEEN 0) = false ∧
    (let s := withF [(F.TELEM_VI_REC_CTL_SNAPEN 0, 1), (F.TELEM_SNAP_CTL_EN, 4), (F.TELEM_VI_REC_CTL_MODE 0, 2),
        (F.TELEM_VI_REC_CTL_LIVETIME 0, 1)] scalarT
     tileReady s 0 (wI 0x48 5) = true ∧ tileReady s 0 (wI 0x49 5) = true ∧ recMode s 0 = 2 ∧
     flag s (F.TELEM_VI_REC_CTL_LIVETIME 0) = true ∧
     (flag s (F.TELEM_VI_REC_CTL_SNAPEN 0) && bit (getF s F.TELEM_SNAP_CTL_EN) 2) = true) := by
  decide +kernel

/-! Vector, matrix, tangent and tape instructions. -/

/-- Tile 0 with two elements in use. -/
def vecT (vl : Nat) : State :=
  onTile { core := core0, csr := if vl = 0 then [(0x20, 0xFF0000000800)]
                                 else [(0, BitVec.ofNat 64 vl), (0x20, 0xFF0000000800)],
           s := [(1, 0xFF0000000100), (2, 2)], v := [(4, 0x3F8000003F800000), (6, 0x4000000040000000)] }

/-- The element type of a test word, and its second type. -/
def tET (op : Nat) : Nat :=
  if op = 0x74 then 12 else if (0x5A ≤ op ∧ op ≤ 0x5E) then 2 else if 0x7B ≤ op ∧ op ≤ 0x7F then 1 else 9
def tET2 (op : Nat) : Nat :=
  if op = 0x73 then 8 else if op = 0x74 then 9 else if op = 0x75 then 12 else if op = 0x7F then 2 else 0
/-- VD 2, VA 4, VB 6, VC 8, SS 2; and format M with VD 2, SA 1. -/
def wV (op imm : Nat) : W64 :=
  if op / 16 = 6 then wd [(op, 56), (2, 51), (1, 45), (9, 37)]
  else wd [(op, 56), (2, 51), (4, 46), (6, 41), (8, 36), (tET op, 32), (2, 16), (tET2 op, 12), (imm, 0)]
def vReady (s : State) (op : Nat) : Bool := tileReady s 0 (wV op 0) && opIs op (wV op 0)

theorem test_wit_VectorPredicateResult :
    vlNow (vecT 1) 0 ≠ 0 ∧ (Claim.cmpOps.all fun c => vReady (vecT 1) c.2.1) = true ∧
    (Claim.predOps.all fun c => vReady (vecT 1) c.2.1) = true ∧ vReady (vecT 1) 0x88 = true := by
  decide +kernel

theorem test_wit_VectorLengthZeroIsNoOperation :
    vlNow (vecT 0) 0 = 0 ∧ (Claim.vecAll.all fun c => vReady (vecT 0) c.2) = true := by
  decide +kernel

/-- The opcodes of a list of instructions. -/
def opcodes {α : Type} (l : List ((TileNo → W64 → Instr) × Nat × α)) : List Nat := l.map fun c => c.2.1

theorem test_wit_VectorElementResult :
    vlNow (vecT 2048) 0 ≠ 0 ∧
    (opcodes Claim.vec2Ops ++ opcodes Claim.vec1Ops ++ opcodes Claim.vecBitOps ++ opcodes Claim.vecFxOps ++
      [0x57, 0x70, 0x71, 0x72, 0x73, 0x7F]).all (vReady (vecT 2048)) = true := by
  decide +kernel

theorem test_wit_VectorScalarAndScaleResult :
    (opcodes Claim.redOps ++ [0x89, 0x8A, 0x79, 0x7A, 0x75, 0x74]).all (vReady (vecT 2)) = true ∧
    (scaleQ (vecT 2) 0 (wV 0x74 0) 2 false).2.2.2 = 0 ∧
    (let s := withF [(F.MGMT_EXPERT_GLOBAL, 1)] (vecT 2)
     tileReady s 0 (wV 0x74 1) = true ∧ expertOn s (some (tileVi s 0)) = true ∧ (vImm (wV 0x74 1)).testBit 0 = true ∧
     (scaleQ s 0 (wV 0x74 1) 2 true).2.2.2 = 0) ∧
    tileReady (vecT 2) 0 (wV 0x74 1) = true ∧ expertOn (vecT 2) (some (tileVi (vecT 2) 0)) = false ∧
    handlerReady (vecT 2) 0 = true := by
  decide +kernel

/-- The places of a run of the pond of tile 0. -/
def pondRun (off n : Nat) : List Pa := (upto n).map fun i => .pond 0 (off + i)

/-- Two elements of F32 at a multiple of 256. -/
theorem test_wit_VectorMemoryResult :
    [0x60, 0x61, 0x62, 0x63, 0x64].all (fun op =>
      let w := wV op 0
      vReady (vecT 2) op && (tileOf (vecT 2) 0).core.mat == [] && otherKind (Claim.byteAddrs (vecT 2) 0 w) == none &&
        (getS (vecT 2) 0 (mSA w) + Claim.imm w).toNat % 256 == 0 &&
        tileXlate (vecT 2) 0 (if op ≤ 0x61 ∨ op = 0x64 then aRead else aWrite) (Claim.byteAddrs (vecT 2) 0 w) ==
          .ok (pondRun 0x100 8)) = true ∧
    (let l := (pondRun 0x100 8).zip (Claim.storedBytes (vecT 2) 0 (wV 0x62 0) (pondRun 0x100 8))
     ∀ x ∈ l, ∀ y ∈ l, x.1 = y.1 → x.2 = y.2) := by
  decide +kernel

/-- Tile 0 with dimensions in S3 and operands at S1 and S2. -/
def matT (d : W64) (mat : List MatOp) : State :=
  onTile { core := { core0 with mat := mat }, csr := [(0x20, 0xFF0000000800)],
           s := [(1, 0xFF0000000100), (2, 0xFF0000000200), (3, d)] }
/-- Format X: ACD 1, SA 1, SB 2, SM 3, F32 (or F64), and MROW of row r. -/
def wX (op et : Nat) : W64 := wd [(op, 56), (1, 54), (1, 48), (2, 42), (3, 36), (et, 32), (et, 28)]
def wRow (op r : Nat) : W64 := wd [(op, 56), (1, 54), (2, 49), (r, 7)]
/-- Dimensions M, N, K and the leading dimensions, by the fields of SM. -/
def dimsW (m n k ld : Nat) : W64 := wd [(m, 0), (n, 8), (k, 16), (ld, 24), (ld, 40)]

/-- MMA at the largest dimensions of F32, of F64 and with a zero dimension; MLD, MST and the rows. -/
theorem test_wit_MatrixResult_issue :
    [matT (dimsW 64 128 64 0x200) [], matT (dimsW 1 1 1 0x40) []].all (fun s =>
      [0x90, 0x91, 0x92, 0x93].all fun op =>
        let w := wX op 9
        let d := Claim.dims s 0 w
        tileReady s 0 w && opIs op w && (tileOf s 0).core.mat == [] && dimM d != 0 && dimN d != 0 && dimK d != 0 &&
          decide (dimM d ≤ 64) && decide (dimN d ≤ 128) && decide (dimK d ≤ 64) && !accF64 s 0 (xACD w) &&
          firstAlign s 0 (mmaOperand s 0 w d) == none && ownPondOff s 0 (getS s 0 1).toNat aRead == some 0x100 &&
          ownPondOff s 0 (getS s 0 2).toNat aRead == some 0x200) = true ∧
    (let s := matT (dimsW 64 128 0 0x200) []
     [0x90, 0x91, 0x92, 0x93, 0x95, 0x96].all (fun op => tileReady s 0 (wX op 9) && dimK (Claim.dims s 0 (wX op 9)) == 0)
       = true) ∧
    (let s := matT (dimsW 64 128 1 0x200) []
     [(0x95, aRead), (0x96, aWrite)].all (fun p => tileReady s 0 (wX p.1 9) && opIs p.1 (wX p.1 9) &&
       firstAlign s 0 (blockOperand s 0 (wX p.1 9) (Claim.dims s 0 (wX p.1 9)) p.2) == none) = true) := by
  decide +kernel

/-- An MMA, an MLD and an MST that stand in the matrix unit; rows 0 and 63, and row 64, which F32 does not have. -/
def matOpOf (op : Nat) : MatOp :=
  { w := wX op 9, dims := dimsW 1 2 1 0x40, a := 0x100, b := 0x200, ss := 0, ss1 := 0 }

theorem test_wit_MatrixResult_completion :
    [0x90, 0x95, 0x96].all (fun op =>
      let s := matT 0 [matOpOf op]
      enginesRun s && (tileOf s 0).core.mat == [matOpOf op] && oOP (matOpOf op).w == op &&
        dimM (matOpOf op).dims == 1 && dimN (matOpOf op).dims == 2) = true ∧
    (let s := matT 0 []
     [wX 0x94 9, wX 0x94 8, wRow 0x97 0, wRow 0x97 63, wRow 0x98 63, wRow 0x97 64, wRow 0x98 64].all (tileReady s 0) = true ∧
     [0, 63, 64].map (fun r => xRow (wRow 0x97 r)) = [0, 63, 64] ∧ accRows (accF64 s 0 1) = 64 ∧ handlerReady s 0 = true) := by
  decide +kernel

/-- A word of class 0xA: VD 2, VA 4, VB 6, VC 8, ET, PG 0, SS 2, ET2 and the immediate. -/
def wA (op et et2 imm : Nat) : W64 :=
  wd [(op, 56), (2, 51), (4, 46), (6, 41), (8, 36), (et, 32), (2, 16), (et2, 12), (imm, 0)]

theorem test_wit_TangentResult :
    (Claim.tanOps.all fun c => tileReady (vecT 2) 0 (wA c.2.1 10 9 0) && opIs c.2.1 (wA c.2.1 10 9 0)) = true ∧
    vlNow (vecT 2) 0 ≠ 0 ∧ etFmt 10 = some .f16 ∧ etFmt 9 = some .f32 ∧
    [wA 0xA6 9 8 0x900, wA 0xA7 12 9 0x900, wA 0xA8 9 12 0x900].all (fun w =>
      tileReady (vecT 2) 0 w && etFmt (qTan w) == some .f32) = true ∧
    (scaleQ (vecT 2) 0 (wA 0xA7 12 9 0x900) (Claim.n3 (vecT 2) 0 (wA 0xA7 12 9 0x900)) false).2.2.2 = 0 := by
  decide +kernel

/-- A tape of one page of the pond, with its head and two bytes of a trailer at 8. -/
def tapeT (head : Nat) (bytes : List (Nat × Byte)) : State :=
  let s := onTile { core := { core0 with tapeHead := head }, csr := [(0, 2)], s := [(2, 8)] }
  { withF [(F.TILE_TAPE_BASE_BASE 0, 0xFF0000001), (F.TILE_TAPE_SIZE_SIZE 0, 1)] s with pond := bytes }
/-- Places of n bytes of that tape. -/
def tapeRun (off n : Nat) : List Pa := (upto n).map fun i => .pond 0 (0x1000 + (off + i) % 4096)

/-- A push across the end of the segment, a trim within the used part and to the head, and the head. -/
theorem test_wit_TapePushTrimHeadResult :
    (let s := { tapeT 4088 [] with tiles := [(0, { core := { core0 with tapeHead := 4088, tapeTail := 4000 }, csr := [(0, 2)] })] }
     let len := payloadLen (Claim.nV s 0 (wA 0xA9 9 0 0)) 9 + 8
     tileReady s 0 (wA 0xA9 9 0 0) = true ∧ vlNow s 0 ≠ 0 ∧ tapeUsed s 0 + len < tapeSize s 0 ∧
     tileXlate s 0 aWrite (tapeAddrs s 0 (tapeHeadOf s 0) len) = .ok (tapeRun 4088 len) ∧ (tapeRun 4088 len).Nodup) ∧
    [0, 8, 16].all (fun head =>
      let s := tapeT 16 []
      let t := { s with tiles := [(0, { core := { core0 with tapeHead := 16 }, s := if head = 0 then [] else [(2, BitVec.ofNat 64 head)] })] }
      let x := wf (getS t 0 (vSS (wA 0xAB 0 0 0))) 39 0
      tileReady t 0 (wA 0xAB 0 0 0) && opIs 0xAB (wA 0xAB 0 0 0) && x == head && decide (x < tapeSize t 0) &&
        decide ((x + tapeSize t 0 - tapeTailOf t 0) % tapeSize t 0 ≤ tapeUsed t 0)) = true ∧
    (tileReady (tapeT 16 []) 0 (wA 0xAF 0 0 0) = true ∧ tapeSize (tapeT 16 []) 0 ≠ 0) := by
  decide +kernel

/-- A record of two F32 elements, and of one U8 block code. -/
theorem test_wit_TapePopAndAdjointResult :
    [(0xAA, 2, 9), (0xAC, 2, 9), (0xAD, 2, 9), (0xAE, 1, 4)].all (fun p =>
      let w := wA p.1 9 0 0
      let s := tapeT 16 [(0x1008, BitVec.ofNat 8 p.2.1), (0x100A, BitVec.ofNat 8 p.2.2)]
      tileReady s 0 w && opIs p.1 w && vlNow s 0 != 0 && (tileOf s 0).core.mat == [] && tapeSize s 0 != 0 && tapeUsed s 0 != 0 &&
        tileXlate s 0 aRead (tapeAddrs s 0 (tapeHeadOf s 0 + tapeSize s 0 - 8) 8) == .ok (tapeRun 8 8) &&
        ofBytes ((tapeRun 8 8).map (paByte s)) % 2 ^ 32 == p.2.1 + p.2.2 * 2 ^ 16 + vImm w * 2 ^ 20 &&
        Claim.recordAt s 0 p.2.1 p.2.2 == 0 &&
        tileXlate s 0 aRead (tapeAddrs s 0 0 (payloadLen p.2.1 p.2.2)) == .ok (tapeRun 0 8) &&
        Claim.nV s 0 w == 2 && cdiv (Claim.nV s 0 w) 32 == 1) = true ∧ etFmt 9 = some .f32 := by
  decide +kernel

/-! Signals, waits and DMA. -/

/-- VI 0, present, with counter 32,767, DMA queue 1,023 as its LQ 0 and room for 16 descriptors. -/
def viF : List (FieldRef × Nat) :=
  [(F.MGMT_VI_CTL_PRESENT 0, 1), (F.SIG_VI_CFG_BASE 0, 32767), (F.SIG_VI_CFG_COUNT 0, 1), (F.DMA_Q_CFG_EN 1023, 1),
    (F.DMA_Q_CFG_VI 1023, 0), (F.MGMT_VI_CFG_DESC 0, 1), (F.COL_VI_CFG_COUNT 0, 1), (F.COL_VI_CFG_BASE 0, 1023)]
/-- Tile 0 of that VI with S1 and S2, a route in S3, and more register fields. -/
def viT (l : List (FieldRef × Nat)) (s1 s2 s3 : Nat) : State :=
  let r := [(1, s1), (2, s2), (3, s3)].filterMap fun p => if p.2 = 0 then none else some (p.1, BitVec.ofNat 64 p.2)
  withF (viF ++ l) (onTile { core := core0, csr := [(0x20, 0xFF0000000800)], s := r })
/-- Format E: SD 4, SA 1, SB 2, SC and IMM16. -/
def wE (op sc im : Nat) : W64 := wd [(op, 56), (4, 50), (1, 44), (2, 38), (sc, 32), (im, 16)]

/-- VALUE at its largest, and at 0; SA outside the allotment. -/
theorem test_wit_SignalInstructionResult :
    [(0xB1, 0), (0xB2, 0), (0xB3, 0), (0xB4, 0), (0xB6, 0)].all (fun p => [0, 0xFFFFFFFF].all fun v =>
      let s := viT [(F.SIG_CTR_VALUE 32767, v)] 0 0xFFFFFFFF 0
      tileReady s 0 (wE p.1 p.2 0) && opIs p.1 (wE p.1 p.2 0) &&
        ctrOf s (tileVi s 0) (getS s 0 (oSA (wE p.1 p.2 0))).toNat == some 32767 && ctrVal s 32767 == v &&
        Claim.sbLow s 0 (wE p.1 p.2 0) == 0xFFFFFFFF) = true ∧
    Claim.sbLow (viT [] 0 0 0) 0 (wE 0xB1 0 0) = 0 ∧
    (Claim.sigOps.all fun c => let s := viT [] 1 1 0
      tileReady s 0 (wE c.2 0 0) && opIs c.2 (wE c.2 0 0) && ctrOf s 0 (getS s 0 1).toNat == none) = true := by
  decide +kernel

/-- A tile that sleeps on counter 32,767 with threshold 2, and VALUE. -/
def sleepT (value ovf timeout : Nat) : State :=
  let s := viT [(F.SIG_CTR_VALUE 32767, value), (F.SIG_CTR_OVF 32767, ovf)] 0 2 0
  let c : TileCore := { core0 with state := .stall, stall := .wait 32767 2 true 0 timeout 4 }
  { s with tiles := [(0, { core := c })],
           sys := { s.sys with dma := { s.sys.dma with waiters := [(32767, 0)] } } }

theorem test_wit_WaitResult :
    [(0, 0, 0), (2, 0, 0), (1, 1, 1)].all (fun p =>
      let s := viT [(F.SIG_CTR_VALUE 32767, p.1), (F.SIG_CTR_OVF 32767, p.2.1)] 0 2 0
      tileReady s 0 (wE 0xB6 3 p.2.2) && opIs 0xB6 (wE 0xB6 3 p.2.2) && ctrOf s 0 (getS s 0 1).toNat == some 32767 &&
        ctrVal s 32767 == p.1 && Claim.sbLow s 0 (wE 0xB6 3 p.2.2) == 2 &&
        (flag s (F.SIG_CTR_OVF 32767) == (p.2.1 == 1))) = true ∧
    [(0, 0, 1), (2, 0, 1), (1, 1, 1)].all (fun p =>
      let s := sleepT p.1 p.2.1 p.2.2
      enginesRun s && !s.sys.power.critHold && (tileOf s 0).core.state == .stall &&
        (tileOf s 0).core.stall == .wait 32767 2 true 0 1 4 &&
        (s.sys.dma.waiters.filter fun q => q.1 == 32767) == [(32767, 0)] && ctrVal s 32767 == p.1) = true := by
  decide +kernel

/-- A descriptor of two words of the pond, local, with every field at 0 but those given. -/
def descW (l : List (Nat × W64)) : List W64 :=
  l.foldl (fun d p => d.set p.1 p.2) [0xFF0000000000, 0xFF0000000100, 8, 0x80000, 0, 0, 0, 0]
/-- The bytes of a descriptor at offset 0x40 of the pond of tile 0. -/
def descBytes (l : List W64) : List (Nat × Byte) :=
  (indexed 0x40 (l.flatMap fun w => bytesOf 8 w.toNat)).filter fun p => p.2 != 0
/-- Tile 0 at offset 0 with S1 at the descriptor. -/
def putT (f : List (FieldRef × Nat)) (l : List W64) (core : TileCore) (q : List Desc) : State :=
  let s := viT (f ++ [(⟨R.MGMT_VI_TILES 0 0, 63, 0⟩, 1)]) 0xFF0000000040 0 0
  { s with tiles := s.tiles.map fun p => (p.1, { p.2 with core := core }), pond := descBytes l,
           sys := { s.sys with dma := { s.sys.dma with descs := q } } }
/-- An outstanding descriptor of queue 1,023. -/
def desc0 (words : List W64) (st : DState) : Desc :=
  { q := .dma 1023, seq := 0, vi := 0, inc := 0, words, state := st, pos := 0, src := 0, commit := 0, slot := 0,
    since := none, crc := 0 }

/-- The descriptor at the pond is read as it stands. -/
def offersB (s : State) (w : W64) (l : List W64) : Bool :=
  (getS s 0 (oSA w)).toNat % 64 == 0 && tileXlate s 0 aRead (addrs (getS s 0 (oSA w)).toNat 64) == .ok (pondRun 0x40 64) &&
    l == wordsOf ((pondRun 0x40 64).map (paByte s))
def acceptsB (s : State) (w : W64) (l : List W64) : Bool :=
  Claim.lqOf s 0 w == some 1023 && dmaCheck s (tileVi s 0) false true l == none &&
    decide (viOut s 0 < allotDesc s 0) && decide (qOut s (.dma 1023) < 2 ^ getF s (F.DMA_Q_CFG_DEPTH 1023)) &&
    !migHolds s 0 (resolveAlias s 0 l)

/-- Accepted; refused with RSVD; ALLOT; a full queue; and the issue again after a stall. -/
theorem test_wit_DmaPutResult :
    (let s := putT [] (descW []) core0 []
     (tileReady s 0 (wE 0xB0 0 0) && offersB s (wE 0xB0 0 0) (descW []) && acceptsB s (wE 0xB0 0 0) (descW []) &&
       dLen (descW []) != 0) = true) ∧
    (let s := putT [] (descW [(2, 0xFF00000000000000)]) core0 []
     (tileReady s 0 (wE 0xB0 0 0) && offersB s (wE 0xB0 0 0) (descW [(2, 0xFF00000000000000)]) &&
       dmaCheck s 0 false true (descW [(2, 0xFF00000000000000)]) == some 1) = true) ∧
    (let s := putT [(F.MGMT_VI_CFG_DESC 0, 0)] (descW []) core0 []
     (tileReady s 0 (wE 0xB0 0 0) && offersB s (wE 0xB0 0 0) (descW []) && dmaCheck s 0 false true (descW []) == none &&
       decide (allotDesc s 0 ≤ viOut s 0)) = true) ∧
    (let s := putT [(F.MGMT_VI_CFG_DESC 0, 2)] (descW []) core0 (List.replicate 16 (desc0 (descW []) .sent))
     (tileReady s 0 (wE 0xB0 0 0) && offersB s (wE 0xB0 0 0) (descW []) && dmaCheck s 0 false true (descW []) == none &&
       Claim.lqOf s 0 (wE 0xB0 0 0) == some 1023 && decide (viOut s 0 < allotDesc s 0) &&
       decide (2 ^ getF s (F.DMA_Q_CFG_DEPTH 1023) ≤ qOut s (.dma 1023))) = true) ∧
    (let w := wE 0xB0 0 0
     let s := putT [] (descW []) { core0 with state := .stall, stall := .engine w } []
     let s1 := applyUpd (.core 0 { (tileOf s 0).core with state := .run, stall := .none }) s
     ((tileOf s 0).core.state == .stall && (tileOf s 0).core.stall == .engine w && canIssue s1 0 &&
       offersB s1 w (descW []) && acceptsB s1 w (descW [])) = true) := by
  decide +kernel

/-- An image of a map of pod 0: this device is 0, and its port 0 leads to device 1 where `present`. -/
def img1 (present : Bool) : List Byte :=
  (upto 0x1241).map fun i => if i = 0x40 then 0x11#8 else if i = 0x1240 then (if present then 3#8 else 1#8) else 0#8
/-- The state with that map active. -/
def withMap (present : Bool) (s : State) : State :=
  let s := withF [(F.GLOBAL_TOPO_ACT_DEV, 0), (F.GLOBAL_TOPO_ACT_VALID, 1)] s
  { s with sys := { s.sys with topo := { s.sys.topo with active := some (img1 present) } } }

/-- SIGNAL and SIG_NACK at VI 0, for a counter that is there and one that is not; a write of SIG_CTR. -/
theorem test_wit_SignalCommandResult :
    (let s := viT [] 0 0 0
     enginesRun s = true ∧ addr0.tc = 0 ∧ epochOk s addr0.epoch.toNat = true ∧ destOk s addr0 = true ∧
     ctrOf s addr0.dvi 0 = some 32767 ∧ ctrOf s addr0.dvi 1 = none ∧ live s = true ∧
     destOk State.reset addr0 = false ∧ epochOk State.reset addr0.epoch.toNat = true) := by
  decide +kernel

/-- Signals to device 1: with and without the fence, behind a descriptor to it, and without a route. -/
theorem test_wit_RemoteSignalResult :
    (let w := wE 0xB5 3 0
     let wf := wE 0xB5 3 1
     let d := desc0 (descW [(3, 1)]) .sent
     let s := withMap true (viT [] 5 1 1)
     let busy := { s with sys := { s.sys with dma := { s.sys.dma with descs := [d] } } }
     [w, wf].all (fun x => tileReady s 0 x && tileReady busy 0 x && opIs 0xB5 x) = true ∧
     Claim.rDev s 0 w = 1 ∧ selfDev s = 0 ∧ reachable s 1 0 = true ∧ devDescs s 0 1 = [] ∧
     reachable busy 1 0 = true ∧ devDescs busy 0 1 = [(.dma 1023, 0)] ∧ (oImm16 wf).testBit 0 = true ∧
     (oImm16 w).testBit 0 = false ∧ reachable (viT [] 5 1 1) 1 0 = false ∧ tileReady (viT [] 5 1 1) 0 w = true) ∧
    (let h : HeldSig := { id := 3, vi := 0, inc := 0, dev := 1, dvi := 0, dinc := 0, ctr := 5, amount := 1, waits := [(.dma 0, 0)] }
     let s := onSys fun y => { y with dma := { y.dma with heldSigs := [h] } }
     enginesRun s = true ∧ s.sys.dma.heldSigs.find? (fun x => x.vi == 0 && x.id == 3) = some h ∧
     ∀ p ∈ h.waits, findDesc s p.1 p.2 = none) := by
  decide +kernel

/-- VI 0 whose slot 0 is tile 0, with a descriptor in queue 1,023. -/
def dmaT (d : Desc) : State :=
  let s := viT [(⟨R.MGMT_VI_TILES 0 0, 63, 0⟩, 1)] 0 0 0
  { s with sys := { s.sys with dma := { s.sys.dma with descs := [d] } } }
/-- Words between offsets 0 and 0x100 of the pond of slot 0: source, destination, bytes and route word. -/
def moveW (len dev : Nat) : List W64 :=
  [0xFE0000000000, 0xFE0000000100, BitVec.ofNat 64 len, BitVec.ofNat 64 dev, 0, 0, 0, 0]
def rawB (s : State) (d : Desc) : Bool :=
  (dCv s d.vi d.words).code == 0 && !(dCv s d.vi d.words).packed && !dSrcHm d.words && !dDstHm d.words &&
    decide (0 < dLen d.words) && decide (dLen d.words ≤ 4032) && d.pos == 0 && d.src == 0

/-- A local copy, one to device 1, one without bytes of each kind, and a lost one with and without a route. -/
theorem test_wit_DmaMovementResult :
    (let d := desc0 (moveW 8 0x80000) .queued
     let s := dmaT d
     enginesRun s = true ∧ startable s (.dma 1023) = some d ∧ rawB s d = true ∧ dLocal d.words = true ∧
     translateAll s 0 none aRead (addrs (dSrc d.words) 8) = .ok (pondRun 0 8) ∧
     translateAll s 0 none aWrite (addrs (dDst d.words) 8) = .ok (pondRun 0x100 8)) ∧
    (let d := desc0 (moveW 4032 1) .queued
     let s := withMap true (dmaT d)
     enginesRun s = true ∧ startable s (.dma 1023) = some d ∧ rawB s d = true ∧ dLocal d.words = false ∧
     translateAll s 0 none aRead (addrs (dSrc d.words) 4032) = .ok (pondRun 0 4032)) ∧
    [0x80000, 1].all (fun dev =>
      let d := desc0 (moveW 0 dev) .queued
      let s := dmaT d
      findDesc s (.dma 1023) 0 == some d && dLen d.words == 0 && (qDescs s (.dma 1023)).head? == some d &&
        dLocal d.words == (dev != 1) && !dSrcHm d.words) = true ∧
    (let d := desc0 (moveW 0 1) .lost
     reachable (withMap true (dmaT d)) (dDev d.words) 1 = true ∧ reachable (dmaT d) (dDev d.words) 1 = false ∧
     findDesc (dmaT d) (.dma 1023) 0 = some d ∧ findDesc (withMap true (dmaT d)) (.dma 1023) 0 = some d) := by
  decide +kernel

/-- An inbound transfer of one byte, whose bytes have landed. -/
def key0 : XferKey := keyOf addr0 dma0
def rx0 : Rx :=
  { key := key0, vi := 0, inc := 0, thdr := (List.replicate 8 0).set 3 1, dst := 0, status := 0, written := [(0, 1)], spill := [],
    mere := [], edge := none, acked := false, done := false, since := none }

theorem test_wit_DmaLandingResult :
    (let s := dmaT (desc0 (moveW 8 1) .sent)
     let a := { addr0 with tc := 5 }
     let f := { dma0 with dst := 0xFE0000000100#64, thdr := (List.replicate 8 0).set 3 1 }
     enginesRun s = true ∧ epochOk s a.epoch.toNat = true ∧ destOk s a = true ∧ findRx s (keyOf a f) = none ∧
     thBad f.thdr = false ∧ (thCv f.thdr).code = 0 ∧ thDsigEn f.thdr = false ∧ f.data ≠ [] ∧
     translateAll s a.dvi none aWrite (addrs (f.dst.toNat % 2 ^ 48 + f.offset) f.data.length) = .ok (pondRun 0x100 1)) ∧
    (let s := onSys fun y => { y with dma := { y.dma with rxs := [rx0] } }
     enginesRun s = true ∧ findRx s key0 = some rx0 ∧ rx0.done = false ∧ rx0.spill = [] ∧ rxFull rx0 = true ∧
     rx0.edge = none) ∧
    (let d := desc0 (moveW 8 0x80000) .sent
     let s := dmaT d
     let k : XferKey := { sdev := 0x7FFF, svi := 0, sinc := 0, queue := 1023, seq := 0 }
     findRx s k = none ∧ findDesc s (.dma 1023) k.seq = some d ∧ k.sdev = selfDev s ∧ k.svi = d.vi ∧ k.sinc = d.inc ∧
     dLocal d.words = true ∧ dSrcHm d.words = false ∧ d.state = .sent) ∧
    (let d := desc0 (moveW 8 1) .sent
     let s := dmaT d
     let a := { addr0 with sdev := 1 }
     enginesRun s = true ∧ epochOk s a.epoch.toNat = true ∧ destOk s a = true ∧ doneDesc s a 1023 0 = some d ∧
     flag s (F.DMA_Q_ERR_VALID 1023) = false) := by
  decide +kernel

/-! Collectives. -/

/-- A collective descriptor: COUNT, F32 to F32, one token slot, and ARG. -/
def collW (count arg : Nat) : List W64 :=
  [0xFE0000000000, 0xFE0000000100, BitVec.ofNat 64 count, 0x99, 0x40100010001, wd [(0xFE0000000200, 0), (arg, 48)], 0, 0]
/-- Context 1,023 of VI 0 in a state, with N ranks, this one, CUT, and every feature. -/
def grpF (st n rank cut : Nat) : List (FieldRef × Nat) :=
  [(F.COL_GRP_CTL_STATE 1023, st), (F.COL_GRP_RANK_N 1023, n), (F.COL_GRP_RANK_RANK 1023, rank),
    (F.COL_GRP_CFG_CUT 1023, cut), (F.COL_GRP_CFG_FEAT 1023, 1023), (F.COL_GRP_CFG_REALIGN 1023, 14),
    (F.COL_GRP_CFG_WEIGHT 1023, 1), (F.COL_GRP_CFG_STALL 1023, 100), (F.COL_GRP_SEQ_SEQPOS 1023, 1),
    (⟨R.MGMT_VI_TILES 0 0, 63, 0⟩, 1)]
/-- Tile 0 with a descriptor, and the group's part as given. -/
def grpT (st n rank cut : Nat) (l : List W64) (x : Grp) : State :=
  let s := viT (grpF st n rank cut) 0xFF0000000040 0 0
  { s with pond := descBytes l, sys := { s.sys with col := { s.sys.col with grps := if x = {} then [] else [(1023, x)] } } }

/-- Accepted for each operation; refused with STATE; stalled with 16 live generations. -/
theorem test_wit_CollectiveIssueResult :
    Claim.collOps.all (fun c =>
      let cut := if c.2 = 0xBF then 2 else 1
      let s := grpT 2 2 0 cut (collW 32 0) {}
      let full := grpT 2 2 0 cut (collW 32 0) { gens := (upto 16).map fun i => { num := i } }
      [s, full].all (fun s => tileReady s 0 (wE c.2 0 0) && opIs c.2 (wE c.2 0 0) && offersB s (wE c.2 0 0) (collW 32 0) &&
        Claim.grpIn s 0 (wE c.2 0 0) == some 1023 && collCheck s 0 c.2 (some 1023) (collW 32 0) == none) &&
      liveCount s 1023 == 0 && !(grpSt s 1023).barrierDue && (grpSt s 1023).early == [] &&
        !migHoldsColl s 0 (resolveColl s 0 (collW 32 0)) && liveCount full 1023 == 16 &&
      (let r := grpT 3 2 0 cut (collW 32 0) {}
       tileReady r 0 (wE c.2 0 0) && offersB r (wE c.2 0 0) (collW 32 0) &&
         collCheck r 0 c.2 (Claim.grpIn r 0 (wE c.2 0 0)) (collW 32 0) == some 0x13)) = true := by
  decide +kernel

/-- Context 1,023 with its member table, devices 0 and 1, at IPA 0, which lies at DPA 0; devices of the map of `withMap`. -/
def tableT (st n rank : Nat) (more : List (FieldRef × Nat)) (x : Grp) : State :=
  let s := withMap true (viT (grpF st n rank 1 ++ [(F.MGMT_VI_CFG_HBM 0, 1)] ++ more) 0 0 0)
  { s with hbm := [(8, 1)],
           sys := { s.sys with faults := { s.sys.faults with s2 := [{ vi := 0, page := 0, frame := 0, mig := false }] }
                               col := { s.sys.col with grps := if x = {} then [] else [(1023, x)] } } }
def tbl0 : List W64 := [0, 1]

/-- CREATE and REJOIN with N = 0, with a table that repeats a member, and with a good one; CLOSE in every state that takes
it; LEAVE. -/
theorem test_wit_GroupOpeningAndClosing :
    (let s := tableT 0 0 0 [] {}
     enginesRun s = true ∧ grpOwner s 1023 = some 0 ∧ grpState s 1023 = stFree ∧ cfgBad s 1023 = true) ∧
    (let s := { tableT 0 2 1 [] {} with hbm := [] }
     grpState s 1023 = stFree ∧ cfgBad s 1023 = false ∧ readTable s 0 1023 = none) ∧
    (let s := tableT 0 2 1 [] {}
     enginesRun s = true ∧ grpOwner s 1023 = some 0 ∧ grpState s 1023 = stFree ∧ cfgBad s 1023 = false ∧
     readTable s 0 1023 = some tbl0 ∧ gidTaken s 0 1023 tbl0 = false ∧ tableAbsent s tbl0 = false ∧ grpRank s 1023 ≠ 0) ∧
    [1, 2, 3, 5].all (fun st => let s := tableT st 2 0 [] { members := tbl0 }
      enginesRun s && grpState s 1023 == st) = true ∧
    (let s := tableT 2 2 0 [] { members := tbl0 }
     destOk s addr0 = true ∧ ctxOf s addr0.dvi 0 = some 1023 ∧ epochOk s 0 = true) := by
  decide +kernel

/-- JOINs: without a context, the first of two, and the last, which agrees; ACCEPT and REFUSE; EXCLUDE of rank 32,767; the
timeouts. -/
def joined (l : List Join) : Grp := { members := tbl0, joins := l }
def join0 (rank : Nat) : Join := Claim.joinOf addr0 rank 1023 (BitVec.ofNat 32 (groupCrc (tableT 1 2 0 [] {}) 1023 tbl0))

theorem test_wit_GroupMembershipResult :
    (let s := viT [] 0 0 0
     enginesRun s = true ∧ destOk s addr0 = true ∧ epochOk s 0 = true ∧ ctxOf s addr0.dvi 9 = none) ∧
    [[], [join0 0]].all (fun l =>
      let s := tableT 1 2 0 [] (joined l)
      ctxOf s addr0.dvi 0 == some 1023 && grpState s 1023 == stJoining && coordinator s 1023 == grpRank s 1023 &&
        !(grpSt s 1023).rejoin && decide (1 < grpN s 1023) && (grpSt s 1023).joins.all (fun i => i.rank != 1)) = true ∧
    (let s := tableT 1 2 0 [] (joined [join0 0])
     let l := (grpSt s 1023).joins ++ [join0 1]
     l.length = grpN s 1023 ∧ (∀ j ∈ l, j.crc = groupCrc s 1023 (grpSt s 1023).members) ∧
     Nat.land (grpFeat s 1023) (l.foldl (fun c j => Nat.land c j.caps) (2 ^ 16 - 1)) = grpFeat s 1023 ∧
     placementOk s 1023 (grpSt s 1023).members = true) ∧
    (let s := tableT 2 2 0 [] (joined [])
     ctxOf s addr0.dvi 0 = some 1023 ∧ grpState s 1023 = stActive ∧ (grpSt s 1023).gens = []) := by
  decide +kernel

/-- Generation 5, an ALLGATH of 64 elements, with the part as given; and its group of two in a state. -/
def gen5 (st : GState) : Gen := { num := 5, op := 0xBA, words := collW 64 0, state := st }
def genT (gst rank : Nat) (x : Gen) : State := tableT gst 2 rank [] { members := tbl0, gens := [x] }

/-- ABORT that ends and that stops; ABORT_GO; ABORT_ACK; the timeouts; RING_STALL. -/
theorem test_wit_GenerationAbortResult :
    (let s := genT 2 1 (gen5 .running)
     enginesRun s = true ∧ destOk s addr0 = true ∧ epochOk s 0 = true ∧ ctxOf s addr0.dvi 0 = some 1023 ∧
     findGen s 1023 5 = some (gen5 .running) ∧ newerAttempt 1 0 = true ∧ coordinator s 1023 ≠ grpRank s 1023 ∧
     (grpSt s 1023).members[coordinator s 1023]? = some 0) ∧
    (let x := { gen5 .aborting with attempt := 1 }
     let s := genT 2 1 x
     findGen s 1023 5 = some x ∧ x.attempt = (1#8).toNat ∧ x.replays % 256 ≠ x.attempt ∧ 1 < grpN s 1023 ∧ 1 ∉ x.acks ∧
     1 ∉ (grpSt s 1023).excluded) ∧
    (let x := { gen5 .aborting with attempt := 1, acks := [0] }
     let s := genT 2 0 x
     enginesRun s = true ∧ findGen s 1023 5 = some x ∧ x.replays % 256 ≠ x.attempt ∧
     coordinator s 1023 = grpRank s 1023 ∧ grpState s 1023 = stActive ∧
     ((upto (grpN s 1023)).filter fun k => !(x.acks.contains k || (grpSt s 1023).excluded.contains k)) = [1] ∧
     ((upto (grpN s 1023)).find? fun k => [1].contains k) = some 1 ∧ 1 ≠ grpRank s 1023 ∧
     (grpSt s 1023).members[1]? = some 1) ∧
    (let s := genT 2 0 (gen5 .running)
     findGen s 1023 5 = some (gen5 .running) ∧ flag s (F.COL_GRP_CFG_STALLPOL 1023) = false) := by
  decide +kernel

/-- A launch with one token of each kind left; a status record in the pond; CREDIT; the last ARRIVE; counts; the last token
of each refill; the barrier. -/
theorem test_wit_GenerationProgressResult :
    (let x := gen5 .issued
     let s := tableT 2 2 0 [] { members := tbl0, gens := [x], tokens := 1 }
     enginesRun s = true ∧ findGen s 1023 5 = some x ∧ 0 < (grpSt s 1023).tokens ∧ 0 < s.sys.col.devTokens ∧
     grpDrains s 1023 (dataTc x) = false ∧ genGrid s 1023 x = some (some 0) ∧ opTokens x.op = false ∧
     cCount x.words ≠ 0) ∧
    [GState.committed, .ended].all (fun st =>
      let s := genT 2 0 (gen5 st)
      findGen s 1023 5 == some (gen5 st) && grpState s 1023 == stActive && !colParked s 1023 5 markStat &&
        cStat (gen5 st).words != 0 &&
        translateAll s (grpVi s 1023) none aWrite (addrs (cStat (gen5 st).words) 8) == .ok (pondRun 0x200 8)) = true ∧
    (let x : Gen := { num := 5, op := 0xBA, words := collW 0 0, state := .running, arrive := [0] }
     let s := genT 2 0 x
     ctxOf s addr0.dvi 0 = some 1023 ∧ findGen s 1023 5 = some x ∧ x.digest = 0 ∧ cCount x.words = 0 ∧
     ∀ r < grpN s 1023, r = 1 ∨ r ∈ x.arrive) ∧
    (let x : Gen := { num := 5, op := 0xBD, words := collW 1 0, state := .running }
     findGen (genT 2 0 x) 1023 5 = some x ∧ opTokens x.op = true ∧ x.counts = [] ∧ grpN (genT 2 0 x) 1023 = 2) ∧
    (let s := onSys fun y => { y with col := { y.col with devTokens := 63 } }
     enginesRun s = true ∧ s.sys.col.devTokens < 64) ∧
    (let s := tableT 2 2 0 [] { members := tbl0, tokens := 15 }
     enginesRun s = true ∧ (grpSt s 1023).tokens < 16) ∧
    (let b : Gen := { num := 5, barrier := true }
     let s := tableT 2 2 0 [(F.SIG_ARR_ARRIVED 32767, 3)] { members := tbl0, gens := [b], ctrs := [32767] }
     enginesRun s = true ∧ liveGens (grpSt s 1023).gens = [b] ∧ (grpSt s 1023).ctrs = [32767] ∧
     smGet 0 s.sys.dma.expected 32767 = 0 ∧ getF s (F.SIG_ARR_ARRIVED 32767) ≠ 0 ∧
     flag s (F.COL_GRP_CFG_REPORT_ONLY 1023) = false) := by
  decide +kernel

/-- The last chunk of this rank's part with credit of both ranks; the other rank's part, which ends the vector; a landed
chunk. -/
theorem test_wit_ChunkMovementResult :
    (let x := { gen5 .running with credits := [(0, 1), (1, 1)] }
     let s := genT 2 0 x
     enginesRun s = true ∧ findGen s 1023 5 = some x ∧ cCount x.words ≠ 0 ∧ chunkCount x.op x.words = 1 ∧
     sendsChunk s 1023 x 0 = true ∧ x.sent = [] ∧ credited s 1023 x 0 = true ∧ colParked s 1023 5 0 = false ∧
     genRed s 1023 x = none ∧ cScl x.words = false ∧ opTokens x.op = false ∧ cSet x.words = cDet x.words ∧
     opReduces x.op = false ∧ 1 < grpN s 1023 ∧ (Claim.chunkAt s 1023 x 0).2 = 128 ∧
     translateAll s (grpVi s 1023) none aRead (addrs (Claim.chunkAt s 1023 x 0).1 128) = .ok (pondRun 0 128)) ∧
    (let x := gen5 .running
     let s := genT 2 0 x
     let a := { addr0 with tc := 3 }
     let f : ColFrame := { gid := 0, gen := 5, attempt := 0, contributor := 1, chunk := 0, first := 1, digest := 0,
                           payload := List.replicate 128 7, tok := none }
     let m := meet (chunkSpan x.op x.words f.chunk) (landSpan s 1023 x)
     let i := (Claim.landAt s 1023 x f).1
     enginesRun s = true ∧ epochOk s a.epoch.toNat = true ∧ destOk s a = true ∧ ctxOf s a.dvi 0 = some 1023 ∧
     findGen s 1023 5 = some x ∧ f.attempt.toNat = x.attempt ∧ f.digest.toNat = x.digest ∧ chunkDone x 0 = false ∧
     x.spill = [] ∧ m.1 ≤ i ∧ i < m.2 ∧ f.payload.length = (m.2 - i) * etBytes (cSet x.words) ∧
     translateAll s (grpVi s 1023) none aWrite (addrs (Claim.landAt s 1023 x f).2 128) = .ok (pondRun 0x180 128)) ∧
    (let x := { gen5 .running with landed := [(0, 0), (0, 1)] }
     let s := genT 2 0 x
     enginesRun s = true ∧ findGen s 1023 5 = some x ∧ opTokens x.op = false ∧ cCount x.words ≠ 0 ∧
     chunkDone x 0 = false ∧ x.spill = [] ∧ chunkLanded s 1023 x 0 = true ∧ landsChunk s 1023 x 0 = true) := by
  decide +kernel

/-! Translation, fault service, saves and host accesses. -/

/-- The own-pond alias and slots at both ends, an offset past a pond, an address past the slots and between the two
windows, and addresses below them. -/
theorem test_wit_AddressTranslation :
    (let s := viT [(⟨R.MGMT_VI_TILES 0 0, 63, 0⟩, 1)] 0 0 0
     slotTile s 0 0 = some 0 ∧ slotTile s 0 143 = none ∧ flag s (F.MMU_VI_S1ROOT_EN 0) = false ∧ allotHbm s 0 = 0 ∧
     translate s 0 (some 0) 0xFF00002FFFFF 0 = .ok (.pond 0 0x2FFFFF) ∧ translate s 0 none 0xFF0000000000 0 = .fault 4 0 0 0 ∧
     translate s 0 none 0xFE00002FFFFF 0 = .ok (.pond 0 0x2FFFFF) ∧ translate s 0 none 0xFE0000300000 0 = .fault 4 0 0 0 ∧
     translate s 0 none 0xFE0024000000 0 = .fault 4 0 0 0 ∧ translate s 0 none 0xFEFFFFFFFFFF 0 = .fault 4 0 0 0 ∧
     translate s 0 (some 0) 0xFF0000300000 0 = .fault 4 0 0 0 ∧ translate s 0 none 0xFDFFFFFFFFFF 0 = .fault 1 0 0 0) := by
  decide +kernel

/-- A record of VI 0 with tile 0 parked on it. -/
def recOf (since : Nat) : FaultRec :=
  { id := 9, va := 0x1000, ipa := 0, code := 1, agent := 0, stage := 0, access := 0, level := 0, inc := 0, source := 0,
    merged := 0, tFirst := since, inRing := true, live := true, parked := [⟨.tile 0, since, 0x1000⟩] }
def parkT (since time : Nat) : State :=
  let s := viT [(F.MGMT_EXPERT_GLOBAL, 1)] 0 0 0
  { s with tiles := [(0, { core := { core0 with state := .stall, stall := .xlate }, csr := [(0x20, 0xFF0000000800)] })],
           sys := { s.sys with mmu := [(0, { recs := [recOf since] })], telem := { s.sys.telem with time := time * 65536 } } }

theorem test_wit_FaultServiceResult :
    (let s := parkT 0 0
     enginesRun s = true ∧ ((mmuSt s 0).recs.filter fun x => x.live && x.id == 9) = [recOf 0] ∧
     (recOf 0).parked = [⟨.tile 0, 0, 0x1000⟩] ∧ (tileOf s 0).core.stall = .xlate ∧ handlerReady s 0 = true ∧
     ((mmuSt s 0).recs.filter fun x => x.live).length = 1 ∧ ∀ x ∈ (mmuSt s 0).recs, x.live = true → x.id ≠ 8) ∧
    (let s := State.reset
     enginesRun s = true ∧ (1#8).toNat ≠ viInc s 0 ∧ heldRecs s 0 = [] ∧ (mmuSt s 0).waiting = [] ∧
     (mmuSt s 0).invals.length < 16) ∧
    (let s := onSys fun y => { y with mmu := [(0, { invals := List.replicate 16 (0, false) })] }
     16 ≤ (mmuSt s 0).invals.length) := by
  decide +kernel

/-- The limit of 10,000 µs is passed by 1 ns. -/
theorem test_wit_ServiceLimitResult :
    (let s := parkT 0 10000001
     expertOn s none = true ∧ live s = true ∧ overLimit s 0 = true ∧ overLimit (parkT 0 10000000) 0 = false ∧
     viPresent s 0 = true ∧ viState s 0 ≠ 2 ∧ viState s 0 ≠ 3 ∧ (viFaultSt s 0).lastDone = none) := by
  decide +kernel

/-- Tile 0 of VI 0, whose IPA 0 lies at DPA 0, with a save area at 0 where the allotment holds it. -/
def saveT (c : TileCore) (hbm : Nat) : State :=
  let s := viT [(F.MGMT_VI_CFG_HBM 0, hbm)] 0 0 0
  { s with tiles := [(0, { core := c })], hbm := [(0, 1)],
           sys := { s.sys with faults := { s.sys.faults with s2 := [{ vi := 0, page := 0, frame := 0, mig := false }] } } }

theorem test_wit_SaveAndRestoreResult :
    (enginesRun (saveT core0 1) = true ∧ saveFits (saveT core0 1) 0 = true ∧ saveFits (saveT core0 0) 0 = false ∧
     (tileOf (saveT core0 1) 0).core.saving = none ∧ (tileOf (saveT core0 1) 0).core.mat = []) ∧
    (tileOf (saveT { core0 with saving := some (.preempt 0) } 1) 0).core.saving = some (.preempt 0) ∧
    (tileOf (saveT { core0 with saving := some (.restore 0) } 1) 0).core.saving = some (.restore 0) ∧
    (let s := saveT { core0 with state := .preempt } 1
     enginesRun s = true ∧ (tileOf s 0).core.state = .preempt ∧ saveFits s 0 = true ∧
     imageOk (ipaRead s 0 (saveBase s 0) imageSize) = true) := by
  decide +kernel

/-- Host links with an aperture of 2 MiB on VI 0's IPA 0, and a CXL.mem slice. -/
def hostT (l : List (FieldRef × Nat)) (mig : Bool) : State :=
  let s := withF (viF ++ [(F.MGMT_VI_CFG_HBM 0, 1), (F.HOST_LINK_LINKUP 1, 1), (F.HOST_LINK_CXL 1, 1),
    (F.HOST_LINK_MEMEN 1, 1), (F.HOST_AP_EN 15, 1), (F.HOST_AP_SIZE 15, 1)] ++ l) State.reset
  { s with sys := { s.sys with faults := { s.sys.faults with s2 := [{ vi := 0, page := 0, frame := 7, mig := mig }] } } }

theorem test_wit_HostMemoryAccessResult :
    (let s := hostT [] false
     live s = true ∧ flag s (F.HOST_LINK_LINKUP 1) = true ∧ bar2At s 0 = .ok 0x7000 ∧ bar2At s 4095 = .ok 0x7FFF) ∧
    (let s := hostT [(F.HOST_CXLMEM_SIZE 0, 1)] false
     flag s (F.HOST_LINK_CXL 1) = true ∧ flag s (F.HOST_LINK_MEMEN 1) = true ∧
     (addrs 0x0FFFFFFF 1).map (cxlAt s) = [0x0FFFFFFF].map some ∧
     (cxlRun 0x0FFFFFFF (.read 2)).find? (fun x => cxlAt s x == none) = some 0x10000000 ∧
     (cxlRun 0x10000000 (.write [1])).find? (fun x => cxlAt s x == none) = some 0x10000000) ∧
    (let s := hostT [] true
     live s = true ∧ dpaExists (11718749 * 4096) = true ∧ (s2Entry s 0 0).2 = true ∧ s.sys.faults.hbmRetiring = [] ∧
     dpaExists (11718750 * 4096) = false) := by
  decide +kernel

/-! Tarn, Divide, Mere. -/

/-- Generation 5 as an ALLRED of 32 elements summed in a ledger; its cell of contributor 1, words 3. -/
def red5 : Gen := { num := 5, op := 0xB8, words := collW 32 0, state := .running }
def tarnT (b : List TWin) : State :=
  let s := withF [(F.TARN_UNIT_CFG_EN 95, 1)] (genT 2 0 red5)
  { s with sys := { s.sys with tarn := { s.sys.tarn with units := if b.isEmpty then [] else [(95, { blocks := b })] } } }
def cell1 (i : Nat) : TarnCell :=
  { vi := 0, inc := 0, ctx := 1023, gen := 5, attempt := 0, chunk := 0, block := 0, contributor := i, count := 2,
    payload := Red.encode (.ledger 64) { words := List.replicate 32 3 } }

/-- The first and the last contribution; a cell of a VI that is absent. -/
theorem test_wit_TarnContributionResult :
    [([], Claim.blockOf (cell1 1) red5 64, false),
      ([Claim.counted 64 0 (Claim.blockOf (cell1 0) red5 64) (List.replicate 32 2)],
        Claim.counted 64 0 (Claim.blockOf (cell1 0) red5 64) (List.replicate 32 2), true)].all (fun p =>
      let s := tarnT p.1
      let c := cell1 1
      enginesRun s && unitHealthy s 95 && tagOk s 0 0 && grpOwner s 1023 == some 0 && findGen s 1023 5 == some red5 &&
        genRed s 1023 red5 == some (.ledger 64) && (unitSt s 95).blocks == p.1 && !p.2.1.bitmap.testBit 1 &&
        sameBlock p.2.1 (Claim.blockOf c red5 64) && !p.2.1.spilled &&
        (readContrib (.ledger 64) (tarnElems red5 0 0) c.payload).map (·.words) == some (List.replicate 32 3) &&
        (let b := Claim.counted 64 1 p.2.1 (List.replicate 32 3)
         storesHold s [b] && blockDone b == p.2.2)) = true ∧
    (let s := tarnT []
     unitHealthy s 95 = true ∧ (cell1 1023).contributor < 1024 ∧ tagOk s 15 0 = false) := by
  decide +kernel

/-- A spilled block; a deep sum of 32 elements; an idle unit with no error and with one. -/
theorem test_wit_TarnUnitResult :
    (let b := { Claim.blockOf (cell1 1) red5 64 with spilled := true, mere := [(4, 0)] }
     let s := tarnT [b]
     enginesRun s = true ∧ (unitSt s 95).blocks = [b] ∧ b.spilled = true ∧
     storesHold s [{ b with spilled := false, mere := [] }] = true) ∧
    (let s := withF [(F.COL_GRP_CFG_MODE 1023, 1)] (tarnT [])
     findGen s 1023 5 = some red5 ∧ genRed s 1023 red5 = some (.deep false) ∧ red5.state = .running ∧
     deepUnit s 1023 5 = none ∧
     (unitRing s (tarnPtr s (dieOfGrp 1023))).find? (fun i => decide (deepUsed (unitSt s i) + deepNeed s 1023 red5 ≤ 34)) =
       some 0) ∧
    [0, 1].all (fun e => let s := withF [(F.TARN_UNIT_ERR_VALID 95, e)] (tarnT [])
      live s && (unitSt s 95).blocks == [] && (unitSt s 95).deepSlots == [] &&
        flag s (F.TARN_UNIT_ERR_VALID 95) == (e == 1)) = true := by
  decide +kernel

/-- VI 0, which is present, sends from input 80; a held frame for die 1; a frame with residue. -/
def divT (l : List (FieldRef × Nat)) (g : DivSys → DivSys) : State :=
  let s := viT l 0 0 0
  { s with sys := { s.sys with div := g s.sys.div } }
def df0 : DFrame := { f := div0, die := 0, residue := [100], unacked := [], admitted := 0, landing := false }

theorem test_wit_FrameBufferResult :
    (let s := divT [(F.DIVIDE_OWN_CFG_MIN 0 0, 1)] id
     live s = true ∧ (∀ m < 16, flag s (F.DIVIDE_MIR_CFG_EN m) = false) ∧ destDies div0 = [(0, [100])] ∧
     frameStale s div0 = false ∧ admits s 0 0 0 1 = true ∧ outDown s 100 = false ∧
     frameStale s { div0 with inc := 1 } = true) ∧
    (let s := divT [(F.DIVIDE_OWN_CFG_MIN 0 0, 0), (F.DIVIDE_OWN_CFG_MAX 0 0, 0)] id
     frameStale s div0 = false ∧ admits s 0 0 0 1 = false) ∧
    (let h : HFrame := { f := div0, dies := [(0, [100])] }
     let s := divT [(F.DIVIDE_OWN_CFG_MIN 0 0, 1)] fun y => { y with held := [h] }
     s.sys.div.held.find? (fun x => x.f.id == 7) = some h ∧ admits s 0 0 0 1 = true) ∧
    (let s := divT [] fun y => { y with frames := [df0] }
     s.sys.div.frames.filter (fun x => x.f.id == 7) = [df0] ∧ df0.residue ≠ [] ∧
     ∀ d ∈ s.sys.div.frames, d.f.id = 7 → d.f.hdr.kind ≠ 3 ∧ isTransit d.f = false) := by
  decide +kernel

/-- Instances of classes 1 and 4 at the ends of their range; a normal decision between requesters 0 and 15, and none; a
grant of class 0 with its frame; grants of classes 1 and 2. -/
def arbI (k : Fin 5) (i : Nat) (a : Arb) : State :=
  divT [] fun y => { y with arbs := [(arbKey { cls := k, inst := i }, a)] }

theorem test_wit_ArbitrationResult :
    (let s := divT [] id
     live s = true ∧ arbExists { cls := 1, inst := 95 } = true ∧ arbExists { cls := 2, inst := 255 } = true ∧
     arbExists { cls := 3, inst := 7295 } = true ∧ (arbSt s { cls := 1, inst := 95 }).emergency = false ∧
     ((arbChoose s 1 (arbSt s { cls := 1, inst := 95 }) (Claim.readyOf { cls := 1, inst := 95 } 5)).map
       fun r => r.2.1) = some false ∧
     arbChoose s 1 (arbSt s { cls := 1, inst := 95 }) (Claim.readyOf { cls := 1, inst := 95 } 0) = none) ∧
    (let i : ArbRef := { cls := 0, inst := 100 }
     let s := divT [] fun y => { y with frames := [df0], arbs := [(arbKey i, { grant := some 0, frame := some 7 })] }
     arbExists i = true ∧ (arbSt s i).emergency = false ∧ (arbSt s i).grant = some 0 ∧ (arbSt s i).frame = some 7 ∧
     s.sys.div.frames.find? (fun x => x.f.id == 7 && x.residue.contains 100) = some df0) ∧
    [(1, 95), (2, 255)].all (fun p =>
      let s := arbI p.1 p.2 { grant := some 15 }
      (arbSt s { cls := p.1, inst := p.2 }).grant == some 15 && !(arbSt s { cls := p.1, inst := p.2 }).emergency) = true := by
  decide +kernel

/-- One free buffer of 64 KiB within MIN of owner 136, and of owner 0; a pool without; buffers of an owner and of another;
a landing frame. -/
theorem test_wit_MereBufferResult :
    (let s := withF [(F.MERE_POOL_CFG_COUNT 4 0, 1), (F.MERE_OWN_MIN_MIN 136 4, 1)] State.reset
     enginesRun s = true ∧ mereStale s 136 0 = false ∧ poolOf 65536 = 4 ∧ mereGrants s 136 4 = true ∧
     mereGrants s 0 4 = false ∧ mereStale s 127 1 = true ∧ mereStale s 0 0 = false) ∧
    (let s := onSys fun y => { y with mere := [{ pool := 4, index := 0, owner := 136, inc := 0 }] }
     enginesRun s = true ∧ mereStale s 136 0 = false ∧ flag s F.MERE_ERR_VALID = false ∧
     (s.sys.mere.find? fun b => b.pool == 4 && b.index == 0) = some { pool := 4, index := 0, owner := 136, inc := 0 } ∧
     mereStale s 135 0 = false ∧ ∀ b ∈ s.sys.mere, ¬ (b.pool = 0 ∧ b.index = 9)) ∧
    (let d := { df0 with landing := true }
     let s0 := withF [(F.MERE_POOL_CFG_COUNT 4 0, 1), (F.MERE_OWN_MIN_MIN 0 4, 1)] (divT [] fun y => { y with frames := [d] })
     s0.sys.div.frames.filter (fun x => x.landing && x.f.owner == 0 && x.f.tc == 0) = [d] ∧
     mereStale s0 (mereOwner 0 0) 0 = false ∧ mereGrants s0 (mereOwner 0 0) 4 = true) := by
  decide +kernel

/-! Ports. -/

/-- Hyora port 63 in a state, its PLL in a state, and more. -/
def portT (st pll : Nat) (l : List (FieldRef × Nat)) (h : PortH) : State :=
  let s := withF ([(F.PORT_STAT_PSTATE 63, st), (F.PORT_ENG_STAT_PLL 7, pll)] ++ l) State.reset
  { s with sys := { s.sys with ports := if h = {} then [] else [(63, h)] } }

/-- Every state with the PLL in lock and not; both kinds of port. -/
theorem test_wit_PortCommandResult :
    [psOff, psPendingCal, psTraining, psUp, psTest, psDown, psFailedLock].all (fun st => [1, 2].all fun pll =>
      let s := portT st pll [(F.EDGE_STAT_PSTATE 7, st)] {}
      let s := { s with sys := { s.sys with edgePll := [(7, pll)] } }
      live s && ppState s (.hyora 63) == st && ppState s (.edge 7) == st && pllState s (pllOf (.hyora 63)) == pll &&
        pllState s (pllOf (.edge 7)) == pll) = true := by
  decide +kernel

/-- A PLL that settles with a port that waits for it, one in lock with a port UP, and a port that trains. -/
theorem test_wit_PllAndTrainingResult :
    (let s := portT psPendingCal 1 [] { held := some 1 }
     live s = true ∧ pllState s (.engine 7) = 1 ∧ PhyPort.hyora 63 ∈ pllPorts (.engine 7) ∧
     ppState s (.hyora 63) = psPendingCal ∧ ppHeld s (.hyora 63) = some 1) ∧
    (let s := portT psUp 2 [] {}
     pllState s (.engine 7) = 2 ∧ ppState s (.hyora 63) = psUp) ∧
    ppState (portT psTraining 2 [] {}) (.hyora 63) = psTraining := by
  decide +kernel

def cw0 (e : Nat) : Codeword := { symErrors := e, mark := 0xA5C3, llane := 0, seq := 0, lmc := 0, blocks := [] }

/-- The fourth mark; 15 and 16 symbol errors in lock; a timeout with a spare; a window at its threshold and past it; an
alarm. -/
theorem test_wit_LaneReceiveResult :
    (let s := portT psTraining 2 [] { lanes := [(3, { markRun := 3 })] }
     live s = true ∧ portPs s 63 = psTraining ∧ laneMap s 63 3 ≠ 255 ∧ flag s (F.PORT_LANE_STAT_CW 63 3) = false ∧
     3 ≤ (laneSt s 63 3).markRun ∧ flag s (F.PORT_LANE_STAT_BLK 63 3) = false ∧ laneUsable s 63 3 = true ∧
     freeSpare s (63 / 8) = some 33) ∧
    (let s := portT psUp 2 [(F.PORT_LANE_STAT_CW 63 3, 1)] { lanes := [(3, { hdrRun := 63, uncWin := 4 })] }
     portPs s 63 = psUp ∧ flag s (F.PORT_LANE_STAT_CW 63 3) = true ∧ flag s (F.PORT_LANE_STAT_BLK 63 3) = false ∧
     (cw0 16).mark = 0xA5C3 ∧ 15 < (cw0 16).symErrors ∧ (laneSt s 63 3).hdrRun < 64 ∧ (cw0 15).symErrors ≤ 15 ∧
     4 ≤ (laneSt s 63 3).uncWin) ∧
    (let s := portT psUp 2 [] {}
     (laneSt s 63 3).symbols ≤ getF s (F.PORT_SWAP_THR_SWAPTHR 63) ∧ (laneSt s 63 3).uncWin < 4) := by
  decide +kernel

/-- Every message at a port that trains, or is UP; a spare free and none; a set that takes effect. -/
theorem test_wit_LaneMessageResult :
    [(1, psTraining), (2, psTraining), (2, psUp), (3, psUp), (4, psUp), (5, psUp), (6, psUp), (6, psTraining)].all
      (fun p => let s := portT p.2 2 [] {}
        live s && laneMsgOk (laneMsg p.1 0x300) p.1 && portPs s 63 == p.2 && laneMap s 63 3 != 255 &&
          (upto 4).all (fun l => laneUsable s 63 l && !(laneSt s 63 l).held && !(laneSt s 63 l).swapping) &&
          freeSpare s 7 == some 33) = true ∧
    Claim.msgLane (laneMsg 4 0x300) = 3 ∧
    (let s := portT psUp 2 [] {}
     let s := withF [(⟨R.PORT_LANE_MAP 63, 7, 0⟩, 33), (⟨R.PORT_LANE_MAP 63, 15, 8⟩, 32)] s
     freeSpare s 7 = none ∧ laneMap s 63 3 ≠ 255) ∧
    (let s := portT psUp 2 [] { lanes := [(3, { farSwap := true })], swapQueue := [3] }
     (laneSt s 63 3).farSwap = true ∧ (portSt s 63).swapQueue = [3]) ∧
    (let s := portT psUp 2 [(F.PORT_STAT_RXSET 63, 3)] { txNext := some (12, 255) }
     live s = true ∧ portPs s 63 = psUp ∧ (portSt s 63).txNext = some (12, (255#8).toNat) ∧
     (portSt s 63).rxNext = none ∧ (portSt s 63).swapQueue = [] ∧ 2 ≤ widthOf 12 ∧
     2 ≤ widthOf (getF s (F.PORT_STAT_RXSET 63))) := by
  decide +kernel

/-- The generator and checker in TEST, with periodic injection; the FEC injection of lane 3. -/
theorem test_wit_PrbsAndInjectionResult :
    (let s := portT psTest 2 [(⟨R.PORT_PRBS_CTL 63, 31, 28⟩, 14)] {}
     let c := getR s (prbsCtl (.hyora 63))
     live s = true ∧ ppState s (.hyora 63) = psTest ∧ c.testBit 31 = true ∧ c.testBit 30 = true ∧ bits c 29 28 = 2) ∧
    (let s := portT psUp 2 [(F.PORT_FEC_INJ_EN 63, 1), (F.PORT_FEC_INJ_LANE 63, 3)] {}
     live s = true ∧ portPs s 63 = psUp ∧ flag s (F.PORT_FEC_INJ_EN 63) = true ∧ getF s (F.PORT_FEC_INJ_LANE 63) = 3 ∧
     (getR s (prbsCtl (.hyora 63))).testBit 30 = false) := by
  decide +kernel

/-- Edge port 7 in a state and mode. -/
def edgeT (st mode : Nat) (l : List (FieldRef × Nat)) : State :=
  let s := withF ([(F.EDGE_STAT_PSTATE 7, st), (F.EDGE_CTL_MODE 7, mode)] ++ l) State.reset
  { s with sys := { s.sys with edgePll := [(7, 2)] } }

theorem test_wit_EdgePortResult :
    [(psDown, 0, 0), (psDown, 0, 1), (psTraining, 1, 0), (psTraining, 3, 0), (psUp, 2, 0)].all (fun p =>
      let s := edgeT p.1 p.2.1 [(F.EDGE_STAT_MODPRES 7, 1), (F.EDGE_CTL_AUTOUP 7, p.2.2)]
      live s && flag s (F.EDGE_STAT_MODPRES 7) && (flag s (F.EDGE_CTL_AUTOUP 7) == (p.2.2 == 1)) && edgePs s 7 == p.1 &&
        edgeMode s 7 == p.2.1 && pllState s (.edge 7) == 2) = true := by
  decide +kernel

/-! Links, topology and metro spans. -/

/-- A frame with its CRC. -/
def withCrc (f : LinkFrame) : LinkFrame :=
  { f with crc := BitVec.ofNat 32 (crc32c (hdrBytes f.hdr ++ cellBytes f)) }
/-- A frame of class 0 for device 1 with a SEQ, received whole. -/
def lf0 (seq : Nat) (err : Bool) : LinkFrame :=
  withCrc
    { seq := BitVec.ofNat 16 seq, tc := 0, cells := 1, dataBlocks := 36, errored := err, sofInside := false, crc := 0,
      hdr := { hdr0 with ddev := 1, kind := 1 }, payload := [5] }
/-- Port 63 UP with its link in a state, ports 0 and 63 mapped, room for owner 17. -/
def linkT (ls : Nat) (l : List (FieldRef × Nat)) (k : Link) : State :=
  let s := withMap true (portT psUp 2 ([(F.PORT_LINK_STAT_LSTATE 63 , ls), (F.PORT_STAT_PSTATE 0, psUp),
    (F.DIVIDE_OWN_CFG_MIN 17 0, 1)] ++ l) {})
  { s with sys := { s.sys with links := if k = {} then [] else [(63, k)] } }

theorem crcByte_lt (c : Nat) (b : Byte) (h : c < 2 ^ 32) : crcByte c b < 2 ^ 32 := by
  have hb : ∀ x : Nat, x < 2 ^ 32 → crcBit x < 2 ^ 32 := fun x hx => by
    unfold crcBit
    split
    · exact Nat.xor_lt_two_pow (by omega) (by decide)
    · omega
  have h0 : Nat.xor c b.toNat < 2 ^ 32 := Nat.xor_lt_two_pow h (by have := b.isLt; omega)
  simp only [crcByte]
  repeat (first | exact h0 | apply hb)

theorem crc32c_lt (l : List Byte) : crc32c l < 2 ^ 32 := by
  have h : ∀ (l : List Byte) (c : Nat), c < 2 ^ 32 → l.foldl crcByte c < 2 ^ 32 := fun l => by
    induction l with
    | nil => exact fun _ h => h
    | cons b l ih => exact fun c h => ih _ (crcByte_lt c b h)
  exact Nat.xor_lt_two_pow (h l _ (by decide)) (by decide)

theorem withCrc_errored (f : LinkFrame) :
    frameErrored (withCrc f) = (f.errored || f.sofInside || f.dataBlocks != 4 + 32 * f.cells) := by
  have h : (withCrc f).crc.toNat = crc32c (hdrBytes f.hdr ++ cellBytes f) := by
    rw [withCrc, BitVec.toNat_ofNat, Nat.mod_eq_of_lt (crc32c_lt _)]
  have e : cellBytes (withCrc f) = cellBytes f := rfl
  simp only [frameErrored, h, e]
  simp [withCrc]

theorem test_wit_LinkFrameGood (seq : Nat) : frameErrored (lf0 seq false) = false := by
  rw [lf0, withCrc_errored]
  rfl

/-- An errored frame, one in order for port 0, and one 32 behind a gap. -/
theorem test_wit_LinkFrameReceipt :
    (let s := linkT lsActive [] { expect := 65535 }
     let f := lf0 65535 false
     let d := Claim.onward s 63 0 f
     live s = true ∧ portPs s 63 = psUp ∧ linkCarries s 63 0 = true ∧ linkFrames s 63 = true ∧
     frameErrored (lf0 65535 true) = true ∧ (linkSt s 63).nakFor = none ∧
     f.seq.toNat = (linkSt s 63).expect ∧ (linkSt s 63).ahead = [] ∧ kindClass f.hdr.kind.toNat f.tc = true ∧
     route s f.hdr.sdev.toNat f.hdr.ddev.toNat f.tc = .port 0 ∧
     (∀ m < 16, flag s (F.DIVIDE_MIR_CFG_EN m) = false) ∧ destDies d = [(0, [0])] ∧
     admits s 0 d.owner d.tc d.cells = true ∧ outDown s 0 = false) ∧
    (let s := linkT lsActive [(F.PORT_LINK_STAT_SACKON 63, 1)] { expect := 65535 }
     let f := lf0 31 false
     (f.seq.toNat + 65536 - (linkSt s 63).expect) % 65536 = 32 ∧ flag s (F.PORT_LINK_STAT_SACKON 63) = true) := by
  decide +kernel

/-- Bodies of ACK, NAK and CRED; a frame sent before; returned credit; a replay with credit, and REPLAYMAX passed. -/
theorem test_wit_LinkFrameReturn :
    (let x : Sent := { seq := 65535, id := 7, tc := 0, cells := 1, at_ := 0 }
     let k : Link := { sent := [x], seen := true, freedC := [(7, 1)], changedC := [(0, 1)] }
     let d := { df0 with residue := [], unacked := [63] }
     let s0 := linkT lsActive [(F.PORT_LINK_CRED_PEER 63 0, 1)] k
     let s := { s0 with sys := { s0.sys with div := { s0.sys.div with frames := [d] } } }
     linkFrames s 63 = true ∧ bits (0x10000 : Nat) 55 49 = 0 ∧ (0x10000 : Nat).testBit 16 = true ∧
     (1 ≤ (0 + 65536 - x.seq) % 65536 ∧ (0 + 65536 - x.seq) % 65536 < 32768) ∧ bits (0x7FFFFFF : Nat) 55 27 = 0 ∧
     (linkSt s 63).seen = true ∧ 0 < smGet 0 (linkSt s 63).freedC 7 ∧ 0 < smGet 0 (linkSt s 63).changedC 0 ∧
     nowNs s + 1 ≤ smGet 0 (linkSt s 63).changedC 0 + 10000 ∧ (linkSt s 63).sent = [x] ∧
     (linkSt s 63).replays < Claim.replayMax s 63 ∧
     s.sys.div.frames.find? (fun d => d.f.id == 7 && d.unacked.contains 63) = some d ∧ creditFor s 63 0 1 = true) ∧
    (let s := linkT lsActive [] { sent := [{ seq := 0, id := 7, tc := 0, cells := 1, at_ := 0 }], replays := 255 }
     Claim.replayMax s 63 ≤ (linkSt s 63).replays ∧ pllState s (pllOf (.hyora 63)) = 2) := by
  decide +kernel

/-- A good message of a number with nonce 9. -/
def lmsg (k : Nat) : LinkMsg :=
  let b := (upto 64).map fun i => if i = 0 then BitVec.ofNat 8 k else if i = 4 then 9#8 else 0#8
  { bytes := b, crc := BitVec.ofNat 32 (crc32c b), errored := false }

theorem test_wit_LinkMessageResult :
    [(1, lsCapex), (2, lsIdent), (3, lsActive), (4, lsActive)].all (fun p =>
      let s := linkT p.2 [] { nonces := [9] }
      let m := lmsg p.1
      live s && linkMsgs s 63 && !m.errored && m.bytes.length == 64 && crc32c m.bytes == m.crc.toNat &&
        msgNum m 0 1 == p.1 && (linkSt s 63).nonces.contains (msgNum m 4 2) && portLs s 63 == p.2) = true ∧
    ((linkSt (linkT lsActive [] {}) 63).rtts.length = 0 ∧
     (linkSt (linkT lsActive [] { rtts := [1, 2] }) 63).rtts.length = 2 ∧
     (linkT lsCapex [] {}).sys.div.frames = []) := by
  decide +kernel

/-- A sweep of the leader, and of another device; a swept map before and after T_act; an armed one. -/
def topoT (l : List (FieldRef × Nat)) (t : TopoSys) : State :=
  let s := withF l State.reset
  { s with sys := { s.sys with topo := t } }

theorem test_wit_TopologyResult :
    (let w : Sweep := { start := 0, dirty := false, image := img1 false }
     let s := topoT [(F.GLOBAL_TOPO_SWEEP_LEADER, 1), (F.GLOBAL_TOPO_SWEEP_RESULT, swRunning)]
       { sweep := some w, staleAt := some 0 }
     live s = true ∧ flag s F.GLOBAL_TOPO_SWEEP_LEADER = true ∧ s.sys.topo.staleAt.isSome = true ∧
     sweepResult s = swRunning ∧ s.sys.topo.sweep.map (fun w => podSlots w.image) = some [0]) ∧
    (let w : Sweep := { start := 0, dirty := true, image := [] }
     let s := topoT [] { sweep := some w }
     s.sys.topo.sweep = some w ∧ flag s F.GLOBAL_TOPO_SWEEP_LEADER = false) ∧
    [0, 1].all (fun t =>
      let s := topoT [(F.GLOBAL_TOPO_TACT_TACT, t)] { swept := some [1], armed := [(t, [1])] }
      s.sys.topo.swept == some [1] && !flag s F.GLOBAL_TOPO_ACT_VALID && decide (nowNs s < t) == (t == 1) &&
        firstArmed s.sys.topo.armed == some ((t, [1]), [])) = true := by
  decide +kernel

/-- Edge port 7 in metro mode, its path in a state; a header of its path; a frame for device 1. -/
def pathT (st : Nat) (m : Metro) : State :=
  let s := withMap true (edgeT psUp 1 [(F.EDGE_METRO_STAT_PATHST 7, st), (F.DIVIDE_OWN_CFG_MIN 17 0, 1),
    (F.PORT_STAT_PSTATE 0, psUp)])
  { s with sys := { s.sys with metros := if m = {} then [] else [(7, m)] } }
def mf0 : DivFrame := { div0 with hdr := { hdr0 with ddev := 1, kind := 1 } }

theorem test_wit_MetroPathResult :
    (let s := pathT paUp {}
     let f := Claim.pathOnward s 7 0 mf0
     live s = true ∧ edgePs s 7 = psUp ∧ edgeMode s 7 = 1 ∧ metro0.version = 1 ∧
     metro0.path.toNat = getF s (F.EDGE_METRO_PEER_PATH 7) ∧ pathSt s 7 = paUp ∧
     metro0.psn.toNat = (metroSt s 7).cum ∧ (metroSt s 7).ahead = [] ∧ (metroSt s 7).unsacked < 31 ∧
     kindClass mf0.hdr.kind.toNat mf0.tc = true ∧ route s mf0.hdr.sdev.toNat mf0.hdr.ddev.toNat mf0.tc = .port 0 ∧
     (∀ m < 16, flag s (F.DIVIDE_MIR_CFG_EN m) = false) ∧ destDies f = [(0, [0])] ∧
     admits s 0 f.owner f.tc f.cells = true ∧ outDown s 0 = false) ∧
    (let m := { metro0 with psn := 1 }
     let s := pathT paUp { rxMere := [(4, 0)] }
     (m.psn.toNat + 2 ^ 32 - (metroSt s 7).cum) % 2 ^ 32 = 1 ∧
     rxPages ((metroSt s 7).ahead ++ [(m.psn.toNat, mf0)]) ≤ (metroSt s 7).rxMere.length) ∧
    [paProbing, paFailed].all (fun st => let s := pathT st {}
      metro0.srcMac.toNat == getF s (F.EDGE_METRO_PEER_MAC 7) && pathSt s 7 == st && edgePs s 7 == psUp) = true ∧
    [0, 255].all (fun n =>
      let x : MSent := { psn := 9, frame := mf0, at_ := 0, count := n, bytes := 288 }
      let s := pathT paUp { unsacked := 1, sent := [x] }
      pathSt s 7 == paUp && decide (0 < (metroSt s 7).unsacked) && (metroSt s 7).sent.find? (fun x => x.psn == 9) == some x &&
        decide (max 1 (getF s (F.EDGE_METRO_CFG_RTXMAX 7)) ≤ x.count) == (n == 255)) = true := by
  decide +kernel

/-! The host interface. -/

/-- Line 64 in a state, or in the eviction buffer. -/
def lineT (l : List (Nat × HLine)) (e : List Evict) : State :=
  onSys fun y => { y with host := { y.host with lines := l, evicts := e } }
def line0 (st : LineSt) : HLine := { st, data := List.replicate 64 1, update := [(63, [7])], at_ := 0, vi := 0 }

theorem test_wit_CacheLineResult :
    (let s := lineT [] []
     live s = true ∧ lineOf 127 = 64 ∧ evictAt s 64 = none ∧ lineAt s 64 = none) ∧
    [LineSt.m, .e, .s, .rdOwn].all (fun st => let s := lineT [(64, line0 st)] []
      evictAt s 64 == none && lineAt s 64 == some (line0 st) && s.sys.host.lineWait == [] &&
        decide (s.sys.host.evicts.length < 32) && (line0 st).update != []) = true ∧
    (let e : Evict := { addr := 64, dirty := true, data := [1], lost := false, pulled := false, waiting := [], vi := 0 }
     let s := lineT [] [e]
     evictAt s 64 = some e ∧ e.waiting = [] ∧ s.sys.host.lineWait = []) := by
  decide +kernel

/-- Host queue 511, the one queue of VI 0 on link 1, in a mode, and its state. -/
def hqT (mode : Nat) (l : List (FieldRef × Nat)) (h : Hq) : State :=
  let s := viT ([(F.HOST_Q_CFG_EN 511, 1), (F.HOST_Q_CFG_MODE 511, mode), (F.HOST_VI_CFG_LINK 0, 1),
    (F.HOST_VI_CFG_QBASE 0, 511), (F.HOST_VI_CFG_QCOUNT 0, 1), (F.HOST_LINK_LINKUP 1, 1)] ++ l) 0 0 0
  { s with sys := { s.sys with host := { s.sys.host with hqs := if h = {} then [] else [(511, h)] } } }

/-- A doorbell at both sides of the ring's end; a push window half full and completed, with 64 outstanding and without. -/
theorem test_wit_HostQueueResult :
    (let s := hqT 0 [] { sqtail := 5 }
     enginesRun s = true ∧ pageQueue s 1 0 0 = some 511 ∧ hqTakes s 511 0 = true ∧ sqSize s 511 = 16 ∧
     hqOwner s 511 = some 0 ∧ viOut s 0 < allotDesc s 0 ∧ (15#32).toNat ≠ getF s (F.HOST_Q_STAT_SQHEAD 511) ∧
     hqLink 511 = 1 ∧ flag s (F.HOST_LINK_LINKUP 1) = true ∧
     getF s (F.HOST_Q_STAT_SQHEAD 511) ≠ (hqSt s 511).sqtail) ∧
    (let s := hqT 1 [] {}
     enginesRun s = true ∧ hqTakes s 511 1 = true ∧ hqOut s 511 < 64 ∧ (hqSt s 511).pushed = [] ∧
     viOut s 0 < allotDesc s 0) ∧
    (let s := hqT 1 [] { done := List.replicate 64 { seq := 0, status := 0, refusal := 0 } }
     hqTakes s 511 1 = true ∧ 64 ≤ hqOut s 511) := by
  decide +kernel

/-- A completed descriptor; EN off and on, with descriptors left and without; a link up and down; a changed line. -/
theorem test_wit_HostQueueStateResult :
    (let e : CqE := { seq := 0, status := 0, refusal := 0 }
     let s := hqT 0 [] { done := [e] }
     live s = true ∧ hqOwner s 511 = some 0 ∧ (hqSt s 511).done = [e] ∧ (hqSt s 511).pushed = [] ∧
     (hqSt s 511).clearing = false ∧ flag s (F.HOST_Q_CFG_EN 511) = true ∧ getF s (F.HOST_Q_STAT_ERR 511) ≠ 4 ∧
     flag s (F.HOST_Q_CFG_CC 511) = false ∧ flag s (F.HOST_LINK_LINKUP (hqLink 511)) = true ∧ hqOut s 511 ≠ 0 ∧
     (getF s (F.HOST_Q_STAT_CQTAIL 511) + 1) % cqSize s 511 ≠ (hqSt s 511).cqhead % cqSize s 511) ∧
    (hqOut (hqT 0 [] {}) 511 = 0 ∧ flag (hqT 0 [] {}) (F.HOST_Q_CFG_EN 511) = true ∧
     511 ∈ viHqs (hqT 0 [] {}) 0 ∧ flag State.reset (F.HOST_Q_CFG_EN 511) = false ∧
     (onSys fun y => { y with boot := { y.boot with linksTrain := true } }).sys.boot.linksTrain = true) ∧
    (let s := hqT 0 [(F.HOST_SL_BIND_EN 255, 1)] {}
     let s := { s with sys := { s.sys with host := { s.sys.host with slDirty := [255] } } }
     flag s (F.HOST_SL_BIND_EN 255) = true ∧ 255 ∈ s.sys.host.slDirty ∧ smGet 0 s.sys.host.slAt 255 = 0 ∧
     flag s (F.HOST_LINK_LINKUP (slLink s 255)) = true) := by
  decide +kernel

/-! Faults. -/

/-- VI 0 in a state, with its part as given. -/
def faultT (st : Nat) (h : ViH) : State :=
  let s := viT [(F.FAULT_VI_CTL_STATE 0, st)] 0 0 0
  { s with sys := { s.sys with faults := { s.sys.faults with vis := if h = {} then [] else [(0, h)] } } }

/-- A VI that may be reset, a deferred one whose time has come, and one in reset of which nothing is left. -/
theorem test_wit_ContainmentAndResetResult :
    (let s := faultT 1 {}
     live s = true ∧ contained s = false ∧ viPresent s 0 = true ∧ viState s 0 ≠ 2 ∧ viState s 0 ≠ 3 ∧
     (viFaultSt s 0).lastDone = none) ∧
    (let s := faultT 1 { deferred := some 5 }
     (viFaultSt s 0).deferred = some 5 ∧ viPresent s 0 = true ∧ viState s 0 = 1) ∧
    (let s := faultT 2 { unload := true }
     viState s 0 = 2 ∧ quiesce s 0 = 0 ∧ (viFaultSt s 0).unload = true ∧ contained s = false) := by
  decide +kernel

/-- A tile that runs with spares and without, one that does not; a drained migration of a tile in position 0; one that
drains. -/
theorem test_wit_MigrationResult :
    (let s := viT [] 0 0 0
     enginesRun s = true ∧ getF s F.FAULT_TILE_MIG_STATUS ≠ 1 ∧ tileRuns s 0 = true ∧ tileRuns s 151 = false ∧
     spareTiles s ≠ [] ∧ posOf s 0 = some 0) ∧
    (let s := { viT [] 0 0 0 with tiles := (0, { core := core0 }) :: ([72, 73, 74, 75, 148, 149, 150, 151].map fun t =>
        (t, { core := { state := .fenced } })) }
     tileRuns s 0 = true ∧ spareTiles s = []) ∧
    (let s := { viT [] 0 0 0 with tiles := [(0, { core := { core0 with state := .preempt } })] }
     let m : Mig := { old := 0, new := 151, start := 0, drained := true }
     let s := { s with sys := { s.sys with faults := { s.sys.faults with mig := some m } } }
     s.sys.faults.mig = some m ∧ (tileOf s 0).core.state = .preempt ∧ 151 ∈ spareTiles s ∧ posOf s 0 = some 0 ∧
     smOk 0 s.regs = true ∧ smOk 0 s.hbm = true ∧ smOk 0 s.pond = true ∧ smOk {} s.tiles = true ∧
     s.tiles.all (fun p => tileOk p.2) = true) ∧
    (let d := desc0 (moveW 8 0x80000) .queued
     let s := dmaT d
     let m : Mig := { old := 0, new := 151, start := 0, drained := false }
     let s := { s with sys := { s.sys with faults := { s.sys.faults with mig := some m } } }
     s.sys.faults.mig = some m ∧ m.drained = false ∧ migPending s 0 = true) := by
  decide +kernel

/-- An error in the pond of a VI's tile, and the second within 24 h in a spare's. -/
theorem test_wit_HealthEventResult :
    (let s := faultT 1 {}
     live s = true ∧ (tileOf s 0).core.vi < 16 ∧ (tileOf s 0).core.state = .run ∧ viPresent s 0 = true ∧
     viState s 0 = 1 ∧ (viFaultSt s 0).lastDone = none) ∧
    (let s := onSys fun y => { y with faults := { y.faults with pondErrs := [(151, [0])] } }
     (tileOf s 151).core.state = .off ∧ posOf s 151 = none ∧ Claim.pondPast s 151 = [0]) := by
  decide +kernel

/-! Telemetry. -/

/-- Every source; a value that waits for its pulse; VIs idle and not; PPS_OUT. -/
def timeT (src : Nat) (l : List (FieldRef × Nat)) (pps : Option Nat) : State :=
  let s := withF ((F.TELEM_TIME_CTL_SRC, src) :: l) State.reset
  { s with sys := { s.sys with telem := { s.sys.telem with ppsSet := pps, time := 65536 * 1000 } } }

theorem test_wit_GlobalTimeResult :
    [0, 1, 2].all (fun src => [none, some 1000, some (2 ^ 64 - 1)].all fun pps => [0, 1].all fun out =>
      let s := timeT src [(F.TELEM_TIME_CTL_PPSOUT, out)] pps
      live s && timeSrc s == src && s.sys.telem.ppsSet == pps && allIdle s && nowNs s == 1000 &&
        (flag s F.TELEM_TIME_CTL_PPSOUT == (out == 1))) = true ∧
    (let s := timeT 0 [(F.MGMT_VI_CTL_PRESENT 0, 1), (F.FAULT_VI_CTL_STATE 0, 1)] none
     live s = true ∧ allIdle s = false) := by
  decide +kernel

/-- Every source enabled and none; an armed time; a counter at its threshold; a latch with and without a record; records
with room and without; an idle stream. -/
def snapT (l : List (FieldRef × Nat)) (g : TelemSys → TelemSys) : State :=
  let s := withF l State.reset
  { s with sys := { s.sys with telem := g s.sys.telem } }

theorem test_wit_SnapshotResult :
    (let s := snapT [(F.TELEM_SNAP_CTL_EN, 15), (F.TELEM_SNAP_STAT_ARMED, 1), (F.TELEM_CTR_CFG_THREN 255, 1),
        (F.TELEM_CTR_CFG_EN 255, 1)] fun t => { t with time := 65536 * 9 }
     live s = true ∧ snapEn s 0 = true ∧ snapEn s 1 = true ∧ snapEn s 3 = true ∧ nowNs s = 9 ∧
     flag s F.TELEM_SNAP_STAT_ARMED = true ∧ flag s (F.TELEM_CTR_CFG_THREN 255) = true ∧
     flag s (F.TELEM_CTR_CFG_EN 255) = true ∧ getF s (F.TELEM_CTR_CFG_THR 255) ≤ getF s (F.TELEM_CTR_VALUE 255) ∧
     255 ∉ s.sys.telem.triggered ∧ snapEn State.reset 0 = false) ∧
    [0, 1].all (fun b =>
      let x : Trig := { tl := 0, sources := 32, tag := 0, tile := 0, vi := 0 }
      let s := snapT [(F.TELEM_SNAP_STAT_BUSY, b)] fun t => { t with trigs := [x] }
      s.sys.telem.trigs == [x] && (flag s F.TELEM_SNAP_STAT_BUSY == (b == 1))) = true ∧
    [0, 50].all (fun tail =>
      let s := snapT [(F.TELEM_SNAP_RTAIL_TAIL, tail)] fun t => { t with record := some (List.replicate 3328 0) }
      (s.sys.telem.record.map List.length == some (52 * 64)) &&
        (ringFits (1024 * 2 ^ getF s F.TELEM_SNAP_RBASE_SIZE) (getF s F.TELEM_SNAP_RHEAD_HEAD)
          (getF s F.TELEM_SNAP_RTAIL_TAIL) 52 == (tail == 0))) = true ∧
    (let s := State.reset
     (recSt s 0).gaps = 0 ∧ (∀ t < 152, tileVi s t = 0 → (tileOf s t).core.state ≠ .stall) ∧ s.sys.dma.descs = [] ∧
     s.sys.dma.rxs = []) := by
  decide +kernel

/-! Boot and profiles. -/

/-- CRC-32C with its running value made a number at each byte. -/
def crcStep : List Byte → Nat → Nat
  | [], c => c
  | b :: l, c => match crcByte c b with
    | 0 => crcStep l 0
    | n + 1 => crcStep l (n + 1)

theorem crc32c_eq (l : List Byte) : crc32c l = Nat.xor (crcStep l 0xFFFFFFFF) 0xFFFFFFFF := by
  have h : ∀ (l : List Byte) (c : Nat), l.foldl crcByte c = crcStep l c := fun l => by
    induction l with
    | nil => exact fun _ => rfl
    | cons b l ih =>
      intro c
      rw [List.foldl_cons, ih]
      show crcStep l (crcByte c b) = match crcByte c b with
        | 0 => crcStep l 0
        | n + 1 => crcStep l (n + 1)
      generalize crcByte c b = x
      cases x <;> rfl
  rw [crc32c, h]

/-- An image of a format with a body, and its CRC at byte 12. -/
def sealed (magic len : Nat) (body : List Byte) : List Byte :=
  let f := fun c => bytesOf 4 magic ++ bytesOf 4 1 ++ bytesOf 4 len ++ bytesOf 4 c ++ body
  f (Nat.xor (crcStep (f 0) 0xFFFFFFFF) 0xFFFFFFFF)
/-- Fields that a profile sets above their reset values. -/
def profF : List (FieldRef × Nat) :=
  [1, 2, 3, 4, 5, 6].map (fun c => (F.DIVIDE_OWN_CFG_MIN 16 c, 512)) ++
  [(F.DIVIDE_OWN_CFG_MIN 17 0, 4096), (F.DIVIDE_OWN_CFG_MIN 17 1, 4096), (F.DIVIDE_OWN_CFG_MIN 17 7, 1024),
    (F.MERE_OWN_MIN_MIN 136 2, 64), (F.MERE_POOL_CFG_COUNT 2 0, 64), (F.MERE_POOL_CFG_BASE 2 0, 0xD00),
    (F.DIVIDE_MIR_RBASE_BASE, 1), (F.TELEM_SNAP_RBASE_BASE, 17), (F.TALUS_CFG_BASE 0, 0x100), (F.TALUS_CFG_BASE 1, 0x700)]
def profImg : List Byte :=
  sealed 0x50464C31 448 (List.replicate 48 0 ++ profF.flatMap fun p =>
    bytesOf 4 p.1.r.off ++ bytesOf 4 8 ++ bytesOf 8 (setBits 0 p.1.hi p.1.lo (2 ^ 64 - 1)) ++
      bytesOf 8 (setBits 0 p.1.hi p.1.lo p.2))
/-- The state in a boot stage with images of profiles in flash. -/
def bootT (stage : Nat) (l : List (FieldRef × Nat)) (profs : SMap (List Byte)) : State :=
  let s := withF ((F.MGMT_BOOT_STAT_STAGE, stage) :: l) State.reset
  { s with sys := { s.sys with boot := { s.sys.boot with flashProfiles := profs } } }

theorem test_wit_ProfileHead : profHeadOk profImg = true := by
  simp only [profHeadOk, crc32c_eq]
  decide +kernel

theorem test_wit_ProfileEntries : (profEntries profImg).all entryOk = true := by decide +kernel

theorem test_wit_ProfileShadow :
    shadowCodes ((profEntries profImg).foldl entryApply (shadowBase (bootT 4 [] [(0, profImg)]))) = [] := by
  decide +kernel

/-- The boot's stages; a slot that verifies, given that its signature is valid; none that does. -/
theorem test_wit_BootResult :
    (let s := bootT 1 [] []
     s.sys.power.tripped = false ∧ s.sys.boot.inReset = false ∧ clocked s = true ∧ bootStage s = 1 ∧
     slotOk s 0 = false ∧ slotOk s 1 = false) ∧
    (let s := bootT 2 [] []
     bootStage s = 2 ∧ s.sys.boot.fused = [] ∧ posOf s 151 = none ∧ (tileOf s 151).core.state ≠ .fenced) ∧
    bootStage (bootT 3 [] []) = 3 := by
  decide +kernel

theorem test_wit_BootSlot (l : List Byte) (hl : l ≠ []) (h : Config.signatureValid l = true) :
    let s := { bootT 1 [] [] with sys := { (bootT 1 [] []).sys with
      boot := { (bootT 1 [] []).sys.boot with flashImages := [(0, l)] } } }
    slotOk s 0 = true ∧ slotOk s 1 = false := by
  have e : l.isEmpty = false := by cases l with
    | nil => exact absurd rfl hl
    | cons _ _ => rfl
  refine ⟨?_, rfl⟩
  show (!l.isEmpty && (Config.signatureValid l && decide (0 ≤ Config.imageVersion l))) = true
  simp [e, h]

/-- A load while READY, with VIs idle and not, of an empty slot and of a bad image; one at boot; MGMT_EXPERT. -/
theorem test_wit_ProfileResult :
    (let s := bootT 5 [] [(1, [0])]
     live s = true ∧ flag s F.MGMT_PROF_STAT_BUSY = false ∧ bootStage s = 5 ∧ allIdle s = true ∧
     smGet [] s.sys.boot.flashProfiles 0 = [] ∧ smGet [] s.sys.boot.flashProfiles 1 = [0] ∧ profHeadOk [0] = false) ∧
    allIdle (bootT 5 [(F.MGMT_VI_CTL_PRESENT 0, 1), (F.FAULT_VI_CTL_STATE 0, 1)] []) = false ∧
    (let s := bootT 4 [] [(0, profImg)]
     live s = true ∧ bootStage s = 4 ∧ s.sys.boot.sel = 0 ∧ (smGet [] s.sys.boot.flashProfiles 0).length = 448) ∧
    (adminPath (.bar0 0) = true ∧ adminPath .spi = false ∧ flag State.reset F.MGMT_EXPERT_LOCK = false) := by
  decide +kernel

/-- A manifest of VI 0 at IPA 0, its code page of 1 GiB at VA 0 and its tables at IPA 0x1000 and 0x2000. -/
def mf0_ : List Byte := sealed 0x4D4E4631 0 (List.replicate 32 0 ++ [1] ++ List.replicate 79 0)
def loadT (l : List (FieldRef × Nat)) (loaded : Nat) : State :=
  let s := withF ([(F.MGMT_VI_CTL_PRESENT 0, 1), (F.MGMT_VI_CTL_LOADED 0, loaded), (F.MGMT_VI_CFG_HBM 0, 1),
    (⟨R.MGMT_VI_TILES 0 0, 63, 0⟩, 1), (F.MMU_VI_S1ROOT_EN 0, 1), (F.MMU_VI_S1ROOT_ROOT 0, 1)] ++ l) State.reset
  { s with hbm := (indexed 0 mf0_).filter (fun p => p.2 != 0) ++ [(0x1000, 1), (0x1001, 0x20), (0x2000, 19)],
           sys := { s.sys with faults := { s.sys.faults with
             s2 := [0, 1, 2].map fun i => { vi := 0, page := i, frame := i, mig := false } } } }

theorem test_wit_Manifest :
    let s := loadT [] 0
    ipaRead s 0 (manifestIpa s 0) 128 = mf0_ ∧ viPresent s 0 = true ∧ viLoaded s 0 = false ∧ viState s 0 = 0 ∧
    fqFits s 0 = true ∧ (loadChecks s 0 mf0_).all (fun p => p.2) = true ∧ manifestIpa s 0 + 128 ≤ allotHbm s 0 := by
  decide +kernel

theorem test_wit_ManifestOk : manifestOk mf0_ = true := by
  simp only [manifestOk, crc32c_eq]
  decide +kernel

/-- VIs present, absent with good allotments and with a clock out of range; loaded ones. -/
theorem test_wit_VirtualInstanceResult :
    (let l := [(F.MGMT_VI_CFG_HBM 0, 1), (⟨R.MGMT_VI_TILES 0 0, 63, 0⟩, 1)]
     let s := withF l State.reset
     live s = true ∧ viPresent s 0 = false ∧ createCodes s 0 = [] ∧
     createCodes (withF ((F.CLKPWR_TCLK_MAX 0, 899) :: l) State.reset) 0 = [4]) ∧
    (let s := loadT [] 1
     viPresent s 0 = true ∧ viLoaded s 0 = true ∧ viState s 0 = 0 ∧ loadCode s 0 [] ≠ 0 ∧
     (viFaultSt s 0).lastDone = none) := by
  decide +kernel

/-! Maintenance and management. -/

def maintT (l : List (FieldRef × Nat)) (running queued : List Maint) : State :=
  let s := withF l State.reset
  { s with sys := { s.sys with boot := { s.sys.boot with running, queued } } }

/-- Targets in range and not; conflicts with room in the queue and without; a waiting and a running activity of each
kind; a window that is open and one that is not. -/
theorem test_wit_MaintenanceResult :
    (let s := maintT [] [] []
     clocked s = true ∧ maintTargetOk s 15 0 = false ∧ maintTargetOk s 0 8 = false ∧ maintTargetOk s 0 7 = true ∧
     (∀ p ∈ enginePorts 7, canHold s p = false) ∧ posOf s 151 = none ∧ (tileOf s 151).core.state ≠ .fenced) ∧
    [0, 8].all (fun n =>
      let m : Maint := { act := 0, tag := 9, target := 7, start := 0 }
      let s := maintT [] [m] (List.replicate n m)
      s.sys.boot.running.any (maintConflict m) && s.sys.boot.queued.length == n) = true ∧
    (let m : Maint := { act := 5, tag := 255, target := 1, start := 0 }
     let s := maintT [] [] [m]
     s.sys.boot.queued = [m] ∧ m.tag = (255#8).toNat ∧ s.sys.boot.running = []) ∧
    [0, 3, 4, 5].all (fun a =>
      let m : Maint := { act := a, tag := 255, target := 151, start := 0 }
      let s := maintT [] [m] []
      s.sys.boot.running.filter (fun r => r.tag == 255) == [m] &&
        s.sys.boot.running.find? (fun r => r.tag == 255) == some m && s.sys.boot.queued == []) = true ∧
    (let s := maintT [(F.MGMT_MAINT_WIN_EN 7, 1), (F.MGMT_MAINT_WIN_ACT 7, 9), (F.MGMT_MAINT_WIN_LEN 7, 1440)] [] []
     live s = true ∧ [(0, 7), (3, 151)].all (fun p => windowOpen s p.1 && maintTargetOk s p.1 p.2 &&
       maintDue s p.1 p.2 && !maintThere s p.1 p.2) = true ∧ windowOpen s 1 = false) := by
  decide +kernel

/-- Frames and datagrams that write and read offset 0x200000; their paths; a stage in which SPDM answers; a link in boot
and after it. -/
def w0 (op : Nat) : W32 := BitVec.ofNat 32 (op * 2 ^ 28)
theorem test_wit_ManagementResult :
    (let s := bootT 5 [(F.HOST_LINK_LINKUP 1, 1), (F.HOST_LINK_CXL 1, 1)] []
     let s := { s with sys := { s.sys with boot := { s.sys.boot with linksTrain := true } } }
     answers s .spi = true ∧ answers s .mgmt = true ∧ live s = true ∧ clocked s = true ∧ 2 ≤ bootStage s ∧
     bootStage s = 5 ∧ s.sys.boot.linksTrain = true ∧ flag s (F.HOST_LINK_LINKUP 1) = true ∧
     flag s (F.HOST_LINK_CXL 1) = true ∧ epochOk s addr0.epoch.toNat = true ∧
     gives (.regReadLowerHalf .spi 0x200000) s (fun u => u.out.getLast? == some (.readData .spi 1900)) = true ∧
     gives (.regReadLowerHalf .mgmt 0x200000) s (fun u => u.out.getLast? == some (.readData .mgmt 1900)) = true) ∧
    (spOp (w0 2).toNat = 2 ∧ spN (w0 2).toNat = 1 ∧ spOp (w0 1).toNat = 1 ∧ spN (w0 1).toNat = 1 ∧
     spOff (0x200000#32).toNat = 0x200000 ∧ spCrc [w0 2, 0x200000, 7] ≠ spCrc [w0 2, 0x200000, 7] + 1) := by
  decide +kernel

/-! Power, clocks and temperature. -/

/-- Caps passed and kept, with a step that waits and without. -/
def powerT (l : List (FieldRef × Nat)) (p : PowerSys) : State :=
  let s := withF l State.reset
  { s with sys := { s.sys with power := p } }

theorem test_wit_PowerControlResult :
    (let s := powerT [] {}
     let t := powerT [] { avs := some 1600 }
     clocked s = true ∧ live s = true ∧ getF s F.CLKPWR_PCAP_CAP = 1900 ∧ getF s F.CLKPWR_PWR_CEIL = 1700 ∧
     s.sys.power.avs = none ∧ s.sys.power.throttling = false ∧ s.sys.power.wanted = none ∧ live t = true ∧
     t.sys.power.avs = some 1600 ∧ t.sys.power.wanted = none) ∧
    [1000, 2000].all (fun c => getF (powerT [(F.CLKPWR_PWR_CEIL, c)] {}) F.CLKPWR_PWR_CEIL == c) = true := by
  decide +kernel

theorem test_wit_ThermalResult :
    (let s := powerT [] {}
     clocked s = true ∧ getF s F.CLKPWR_THERM_THROT = 105 ∧ getF s F.CLKPWR_THERM_CRIT = 115) ∧
    (let s := powerT [] { throttling := true }
     clocked s = true ∧ s.sys.power.throttling = true ∧ s.sys.power.avs = none ∧ getF s F.CLKPWR_PWR_CEIL = 1700) := by
  decide +kernel

/-- The reference in use and the other one, valid and lost, with failover on and off; a device that stands, or is held. -/
theorem test_wit_ReferenceAndRailResult :
    [0, 1].all (fun a => [0, 1].all fun f => [0, 1].all fun los =>
      let s := powerT [(F.CLKPWR_REF_ACTIVE, a), (F.CLKPWR_REF_FAILOVER, f), (losOf (1 - a), los)] {}
      !s.sys.power.tripped && clocked s && getF s F.CLKPWR_REF_ACTIVE == a && flag s F.CLKPWR_REF_FAILOVER == (f == 1) &&
        flag s (losOf (1 - a)) == (los == 1)) = true ∧
    (let s := powerT [] { stopped := true }
     s.sys.power.stopped = true ∧ s.sys.boot.inReset = false ∧ s.sys.power.tripped = false) ∧
    (let s := onSys fun y => { y with boot := { y.boot with inReset := true } }
     s.sys.boot.inReset = true ∧ s.sys.power.tripped = false) := by
  decide +kernel

/-! Registers, and every step. -/

/-- PORT_SWAP_THR_63 of 32 bits, and both halves of MERE_OWN_MIN_136_2 of 64, with the latch set and not. -/
theorem test_wit_RegisterAccessResult :
    (let o := (R.PORT_SWAP_THR 63).off
     answers State.reset (.bar0 0) = true ∧ o % 4 = 0 ∧ placeOf State.reset (.bar0 0) o = .reg o ∧
     (regs32 o).map (fun p => (p.1.base, p.2.1, p.2.2, p.1.width)) = [(D.PORT_SWAP_THR.base, [63], 0, 32)] ∧
     (mgmtActs ++ writeActs).all (fun q => q.1 != D.PORT_SWAP_THR.base) = true ∧ 0x190 ≤ o) ∧
    (let o := (R.MERE_OWN_MIN 136 2).off
     o % 8 = 0 ∧ placeOf State.reset (.bar0 0) o = .reg o ∧ placeOf State.reset (.bar0 0) (o + 4) = .reg (o + 4) ∧
     (regs32 o).map (fun p => (p.1.base, p.2.1, p.2.2, p.1.width)) = [(D.MERE_OWN_MIN.base, [136, 2], 0, 64)] ∧
     (regs32 (o + 4)).map (fun p => (p.1.base, p.2.1, p.2.2, p.1.width)) = [(D.MERE_OWN_MIN.base, [136, 2], 4, 64)] ∧
     (regs64 o).map (fun p => (p.1.base, p.2)) = [(D.MERE_OWN_MIN.base, [136, 2])] ∧
     (mgmtActs ++ writeActs).all (fun q => q.1 != D.MERE_OWN_MIN.base) = true ∧ 0x190 ≤ o ∧
     (let s := onSys fun y => { y with latches := [(2 * pathNo (.bar0 0), (o, 5)), (2 * pathNo (.bar0 0) + 1, (o, 6))] }
      latch64 s (.bar0 0) false = (o, (5#32).toNat) ∧ latch64 s (.bar0 0) true = (o, 6)) ∧
     (latch64 State.reset (.bar0 0) true).1 ≠ o) := by
  decide +kernel

/-- An idle step in time and without the clocks; a step that keeps the canonical form. -/
theorem test_wit_Steps :
    (State.reset.pending = [] ∧ State.reset.sys.power.stopped = false ∧ State.reset.sys.boot.inReset = false ∧
     (powerT [] { stopped := true }).sys.power.stopped = true ∧ openCtrs State.reset = [] ∧
     openCtrs (powerT [(F.TELEM_CTR_CFG_EN 3, 1), (F.TELEM_CTR_CFG_BLOCK 3, 10), (F.TELEM_CTR_CFG_EVENT 3, 1)] {}) = [3]) ∧
    (let s := { viT [] 1 2 0 with pending := [.add 0 (wd [(0, 56)])] }
     (smOk 0 s.regs && smOk 0 s.hbm && smOk 0 s.pond && smOk {} s.tiles && s.tiles.all (fun p => tileOk p.2)) = true ∧
     (match step s with | .next s' => s'.pending == [] | _ => false) = true) := by
  decide +kernel

/-- The two stops: an access of the host, and a frame that moves, to memory that does not exist. -/
theorem test_stops :
    (match exec (.cxlMemAccess 0 0 (.read 1)) State.reset with | .fault (.noSuchAddress _) => true | _ => false) = true ∧
    (match exec (.frameMigrateDone 0 0 11718750) State.reset with | .fault (.noSuchAddress _) => true | _ => false) = true := by
  decide +kernel

end Sys2Proof.Tests
end

section
/-! Exceptions of scalar instructions: the handler's entry, and the misaligned accesses and jumps of 03 R82. -/
namespace Sys2Proof.Machine

/-! The sign-extended immediate. -/

theorem toI_eq_toInt (k n : Nat) : toI k n = (BitVec.ofNat k n).toInt := by
  rw [BitVec.toInt_eq_toNat_cond, BitVec.toNat_ofNat, Int.natCast_emod, Int.natCast_pow]
  unfold toI
  by_cases h : 2 * (n % 2 ^ k) < 2 ^ k
  · rw [if_pos h, if_neg (Nat.not_le.2 h)]; rfl
  · rw [if_neg h, if_pos (Nat.le_of_not_lt h)]; rfl

theorem ofNat_wf_imm (w : W64) : BitVec.ofNat 32 (wf w 31 0) = w.setWidth 32 := by
  apply BitVec.eq_of_toNat_eq
  rw [BitVec.toNat_ofNat, BitVec.toNat_setWidth]
  unfold wf bits
  omega

theorem oImm_eq_toInt (w : W64) : oImm w = (w.setWidth 32).toInt := by
  rw [oImm, toI_eq_toInt, ofNat_wf_imm]

theorem w64I_oImm (w : W64) : w64I (oImm w) = Claim.imm w := by
  rw [w64I_eq, oImm_eq_toInt]
  rfl

theorem memAddr_eq (s : State) (t : TileNo) (w : W64) : memAddr s t w = Claim.addr s t w := by
  simp only [memAddr, effAddr, Claim.addr, w64I_oImm]

theorem pc_aligned_of_tileReady {s : State} {t : TileNo} {w : W64} (h : tileReady s t w = true) :
    (tileOf s t).core.pc.toNat % 8 = 0 := by
  simp only [tileReady, tileFetches, Bool.and_eq_true, beq_iff_eq] at h
  obtain ⟨⟨⟨_, hpc⟩, _⟩, _⟩ := h
  exact hpc

/-- A PC-relative target is whole instructions away from an aligned PC, and 48 bits hold whole instructions. -/
theorem target_aligned {s : State} {t : Nat} {w : W64} (h : (tileOf s t).core.pc.toNat % 8 = 0) :
    (Claim.target s t w).toNat % 8 = 0 := by
  unfold Claim.target
  rw [BitVec.toNat_add, BitVec.toNat_setWidth, BitVec.toNat_mul]
  have h8 : (8 : W64).toNat = 8 := rfl
  rw [h8]
  omega

/-! Entering the handler. -/

/-- A raised exception enters the handler of a tile that can take it (03 R95, R96). -/
theorem raise_entersHandler {s : State} {t cause : Nat} {ea : W64} (h : handlerReady s t = true) :
    Claim.entersHandler s (applyLog (runM (raise t cause ea) s []).2 s) t (BitVec.ofNat 64 cause) ea := by
  obtain ⟨S, hS, e⟩ := after_raise (cause := cause) (ea := ea) (l := []) h
  obtain ⟨⟨hs, hv, hp, ha, hc, _⟩, hothers, ⟨hhbm, hpond⟩, hregs, hsys, hout, hpending⟩ := ctrSame_tile hS t
  rw [e]
  exact ⟨⟨fun i => by simp [hs], fun i => by simp [hv], fun i => by simp [hp], fun k => by simp [ha],
      fun n => by simp [hc, Claim.put], by simp⟩,
    fun u hu => by simp [tileOf_core, tileOf_csr, hu, hothers u hu],
    ⟨fun a => by simp [hhbm], fun u b => by simp [hpond]⟩,
    fun r hr => by simp [hregs r hr], by simp [hsys], by simp [hout], by simp [hpending]⟩

/-- An instruction that comes to raising an exception enters the handler. -/
theorem act_entersHandler {s : State} {t cause : Nat} {ea : W64} {m : M Unit} (h : handlerReady s t = true)
    (hm : runM m s [] = runM (raise t cause ea) s []) :
    ∃ s', act m s = .next s' ∧ Claim.entersHandler s s' t (BitVec.ofNat 64 cause) ea :=
  ⟨_, act_eq m s, by rw [hm]; exact raise_entersHandler h⟩

/-! Misaligned accesses (03 R82). -/

section
variable {s : State} {t : TileNo} {w : W64} (h : tileReady s t w = true)
include h

theorem runM_load_misaligned {op n : Nat} (f : Nat → W64) (hop : opIs op w = true) (ha : Claim.addr s t w % n ≠ 0) :
    runM (load t w op n f) s [] = runM (raise t xAlign (BitVec.ofNat 64 (Claim.addr s t w))) s [] := by
  unfold load
  rw [runM_issue _ [] h hop]
  simp only [runM_bind, runM_cur, applyLog_nil, memAddr_eq, if_pos ha]

theorem runM_store_misaligned {op n : Nat} (hop : opIs op w = true) (ha : Claim.addr s t w % n ≠ 0) :
    runM (store t w op n) s [] = runM (raise t xAlign (BitVec.ofNat 64 (Claim.addr s t w))) s [] := by
  unfold store
  rw [runM_issue _ [] h hop]
  simp only [runM_bind, runM_cur, applyLog_nil, memAddr_eq, if_pos ha]

theorem jr_misaligned (hh : handlerReady s t = true) (hop : opIs 0x27 w = true) (hr : bSA w = 0 ∨ bSA w ≠ bSB w)
    (ha : (getS s t (bSB w)).toNat % 8 ≠ 0) :
    ∃ s', exec (.jr t w) s = .next s' ∧ Claim.entersHandler s s' t 2 (getS s t (bSB w)) := by
  have hlink : ¬(bSA w ≠ 0 ∧ bSA w = bSB w) := fun ⟨hne, heq⟩ => hr.elim hne fun hab => hab heq
  refine act_entersHandler (cause := xAlign) hh ?_
  rw [runM_issue _ [] h hop]
  simp only [runM_bind, runM_cur, applyLog_nil, if_neg hlink, if_pos ha]

end

/-- Every scalar load is the shared load of its opcode and width. -/
theorem loadOps_exec : ∀ c ∈ Claim.loadOps, ∃ f, ∀ t w s, exec (c.1 t w) s = act (load t w c.2.1 c.2.2.1 f) s := by
  simp only [Claim.loadOps, List.forall_mem_cons, List.not_mem_nil, false_imp_iff, implies_true, and_true]
  and_intros <;> exact ⟨_, fun _ _ _ => rfl⟩

/-- Every scalar store is the shared store of its opcode and width. -/
theorem storeOps_exec : ∀ c ∈ Claim.storeOps, ∀ t w s, exec (c.1 t w) s = act (store t w c.2.1 c.2.2) s := by
  simp only [Claim.storeOps, List.forall_mem_cons, List.not_mem_nil, false_imp_iff, implies_true, and_true]
  and_intros <;> exact fun _ _ _ => rfl

/-- Settles O7: a misaligned access comes to raising ALIGN, which enters the handler; a PC-relative target is a multiple
of 8 with the PC. -/
theorem misalignedAccessRaisesAlign : Obligations.MisalignedAccessRaisesAlign := by
  intro s t w h
  refine ⟨fun hh => ⟨fun c hc hop ha => ?load, fun c hc hop ha => ?store, jr_misaligned h hh⟩,
    target_aligned (pc_aligned_of_tileReady h)⟩
  case load =>
    obtain ⟨f, hexec⟩ := loadOps_exec c hc
    rw [hexec]
    exact act_entersHandler hh (runM_load_misaligned h f hop ha)
  case store =>
    rw [storeOps_exec c hc]
    exact act_entersHandler hh (runM_store_misaligned h hop ha)

end Sys2Proof.Machine
end

section
/-! Vector instructions with VL = 0 (03 R78). -/
namespace Sys2Proof.Machine

/-- The commit of an instruction that has changed nothing leaves the PC alone moved on. -/
theorem vecStep_commit (s : State) (t : Nat) :
    Claim.vecStep s (applyLog (runM (commit t) s []).2 s) t (getS s t) (getV s t) (getP s t) (getCsr s t) := by
  simp only [commit, runM_bind, runM_cur, applyLog_nil]
  exact commitTo_step (l := []) (fun _ => rfl) (fun _ => rfl) (fun _ => rfl) (fun _ => rfl) (fun _ => rfl) rfl
    (fun _ _ => rfl) ⟨fun _ _ => rfl, rfl, rfl, rfl⟩

/-- Every word of an instruction issues through `vissue` under its opcode: whatever it does with registers and memory
comes after the test of VL. -/
def IssuesAsVector (c : (TileNo → W64 → Instr) × Nat) : Prop :=
  ∀ t w, ∃ m, ∀ s, exec (c.1 t w) s = act (vissue t (opIs c.2 w) w m) s

/-- So do all vector instructions of 03 R83-R93, by the shared operation of their family: `vecOp` under arithmetic and
bitwise instructions, `vecFx`, `vecCmp`, `predLogic`, `vecRed` and `vmem`; the others by themselves. -/
theorem vecAll_issuesAsVector : ∀ c ∈ Claim.vecAll, IssuesAsVector c := by
  simp only [Claim.vecAll, Claim.vec2Ops, Claim.vec1Ops, Claim.vecBitOps, Claim.vecFxOps, Claim.cmpOps, Claim.predOps,
    Claim.redOps, List.forall_mem_append, List.forall_mem_map, List.forall_mem_cons, List.not_mem_nil, false_imp_iff,
    implies_true, and_true]
  and_intros <;> exact fun _ _ => ⟨_, fun _ => rfl⟩

/-- Settles O10: every vector instruction tests VL at its issue and with VL = 0 only commits. -/
theorem vectorLengthZeroIsNoOperation : Obligations.VectorLengthZeroIsNoOperation := by
  intro c hc s t w h hop hvl
  obtain ⟨m, hexec⟩ := vecAll_issuesAsVector c hc t w
  refine ⟨_, (hexec s).trans (act_eq _ s), ?_⟩
  rw [runM_vissue_zero m [] h hop hvl]
  exact vecStep_commit s t

end Sys2Proof.Machine
end

section
/-! The matrix unit: what its instructions keep, and what a block of writes leaves. -/
namespace Sys2Proof.Machine

/-! The frame: nothing but accumulators, CSRs and the core of one tile. -/

/-- An update of accumulators, of CSRs or of the core of tile t, or of an event counter. -/
def matUpd (t : Nat) : Upd → Prop
  | .reg off _ => ctrOff off = true
  | .core u _ | .csr u _ _ | .acc u _ _ | .accZero u _ => u = t
  | _ => False

/-- Two states differ in what such updates change and in nothing else. -/
def matFrame (s s' : State) (t : Nat) : Prop :=
  Claim.accStep s s' t (accAt s' t) (getCsr s' t) (tileOf s' t).core

theorem matFrame_refl (s : State) (t : Nat) : matFrame s s t :=
  ⟨⟨fun _ => rfl, fun _ => rfl, fun _ => rfl, fun _ => rfl, fun _ => rfl, rfl⟩, fun _ _ => rfl, sameMemory_refl s,
    fun _ _ => rfl, rfl, rfl, rfl⟩

/-- A change of a tile that keeps its S, V and P registers. -/
theorem matFrame_setTile {s s' : State} {t : Nat} {g : Tile → Tile} (h : matFrame s s' t)
    (hg : ∀ x, (g x).s = x.s ∧ (g x).v = x.v ∧ (g x).p = x.p) : matFrame s (setTile s' t g) t := by
  obtain ⟨⟨hs, hv, hp, _, _, _⟩, hothers, hmemory, hsystem⟩ := h
  obtain ⟨gs, gv, gp⟩ := hg (tileOf s' t)
  have ht : tileOf (setTile s' t g) t = g (tileOf s' t) := by rw [tileOf_setTile, if_pos rfl]
  refine ⟨⟨fun i => ?_, fun i => ?_, fun i => ?_, fun _ => rfl, fun _ => rfl, rfl⟩, fun u hu => ?_, hmemory, hsystem⟩
  · rw [← hs, getS, getS, ht, gs]
  · rw [← hv, getV, getV, ht, gv]
  · rw [← hp, getP, getP, ht, gp]
  · rw [tileOf_setTile, if_neg hu, hothers u hu]

theorem matFrame_upd {s s' : State} {t : Nat} {u : Upd} (h : matFrame s s' t) (hu : matUpd t u) :
    matFrame s (applyUpd u s') t := by
  cases u with
  | reg off v =>
    obtain ⟨⟨hs, hv, hp, _, _, _⟩, hothers, hmemory, hregs, hsystem⟩ := h
    refine ⟨⟨hs, hv, hp, fun _ => rfl, fun _ => rfl, rfl⟩, hothers, hmemory, fun r hr => ?_, hsystem⟩
    rw [getR_reg, if_neg (by rintro rfl; exact absurd hu (by simp [matUpd, hr])), hregs r hr]
  | core v c => obtain rfl := hu; exact matFrame_setTile h fun _ => ⟨rfl, rfl, rfl⟩
  | csr v n x => obtain rfl := hu; exact matFrame_setTile h fun _ => ⟨rfl, rfl, rfl⟩
  | acc v k x => obtain rfl := hu; exact matFrame_setTile h fun _ => ⟨rfl, rfl, rfl⟩
  | accZero v a => obtain rfl := hu; exact matFrame_setTile h fun _ => ⟨rfl, rfl, rfl⟩
  | _ => exact hu.elim

/-- What an action that only makes such updates leaves. -/
theorem matFrame_emits {t : Nat} {m : M Unit} (h : Emits (matUpd t) m) (s : State) (l : List Upd) :
    matFrame (applyLog l s) (applyLog (runM m s l).2 s) t :=
  emits_rel h (fun a b => matFrame a b t) (fun s => matFrame_refl s t) (fun _ _ _ e p => matFrame_upd e p) s l

/-- The frame with the accumulators, CSRs and core that are then found. -/
theorem accStep_of_frame {s s' : State} {t : Nat} {A C : Nat → W64} {c : TileCore} (h : matFrame s s' t)
    (hA : ∀ k, accAt s' t k = A k) (hC : ∀ n, getCsr s' t n = C n) (hc : (tileOf s' t).core = c) :
    Claim.accStep s s' t A C c := by
  obtain ⟨⟨hs, hv, hp, _, _, _⟩, hrest⟩ := h
  exact ⟨⟨hs, hv, hp, hA, hC, hc⟩, hrest⟩

/-- A commit moves the PC on and keeps the rest of what the instruction has left. -/
theorem accStep_commit {s : State} {t : TileNo} {l : List Upd} {A C : Nat → W64} {c : TileCore}
    (h : Claim.accStep s (applyLog l s) t A C c) :
    Claim.accStep s (applyLog (runM (commit t) s l).2 s) t A C (committed c (nextPc c.pc)) := by
  obtain ⟨⟨hs, hv, hp, hA, hC, hc⟩, hothers, hmemory, hsystem⟩ := h
  obtain ⟨htile, hothers', hmemory', hsystem'⟩ :=
    commitTo_step (pc := nextPc c.pc) hs hv hp hA hC hc hothers hsystem
  simp only [commit, runM_bind, runM_cur, hc]
  exact ⟨htile, hothers', sameMemory_trans hmemory hmemory', hsystem'⟩

/-! The steps of a matrix instruction make such updates. -/

theorem emitsMat_ctr {t : Nat} {m : M Unit} (hm : Emits isCtrUpd m) : Emits (matUpd t) m :=
  emits_mono hm fun _ ⟨_, _, hu, ho⟩ => hu ▸ ho

theorem emitsMat_modCore (t : Nat) (g : TileCore → TileCore) : Emits (matUpd t) (modCore t g) :=
  emits_modCore fun _ => rfl

theorem emitsMat_setFlags (t fl : Nat) : Emits (matUpd t) (setFlags t fl) :=
  emits_bind emits_cur fun _ => emits_ite (fun _ => emits_pure ()) fun _ => emits_emit rfl

theorem emitsMat_setTag (t a : Nat) (f64 zero : Bool) : Emits (matUpd t) (setTag t a f64 zero) :=
  emits_bind (emits_whenB fun _ => emits_emit rfl) fun _ => emitsMat_modCore t _

/-! What a tile reads as after the shared steps. -/

section
variable (s : State) (l : List Upd) (t : Nat)

/-- Flags are added to FFLAGS; no flags leave it as it is (03 R71). -/
@[simp] theorem getCsr_setFlags (fl n : Nat) :
    getCsr (applyLog (runM (setFlags t fl) s l).2 s) t n = Claim.addFlags (applyLog l s) t fl n := by
  simp only [setFlags, runM_bind, runM_cur, runM_ite, Claim.addFlags, Claim.put]
  by_cases h : fl = 0
  · subst h
    by_cases hn : n = csrFFLAGS <;> simp [hn]
  · simp [h]

@[simp] theorem accAt_setFlags (fl k : Nat) :
    accAt (applyLog (runM (setFlags t fl) s l).2 s) t k = accAt (applyLog l s) t k := by
  simp only [setFlags, runM_bind, runM_cur, runM_ite]
  split <;> simp

@[simp] theorem core_setFlags (fl : Nat) :
    (tileOf (applyLog (runM (setFlags t fl) s l).2 s) t).core = (tileOf (applyLog l s) t).core := by
  simp only [setFlags, runM_bind, runM_cur, runM_ite]
  split <;> simp

/-- The tag of an accumulator in the core. -/
def tagged (c : TileCore) (a : Nat) (f64 : Bool) : TileCore :=
  { c with tags := BitVec.ofNat 4 (setBits c.tags.toNat a a (b2n f64)) }

@[simp] theorem core_setTag (a : Nat) (f64 zero : Bool) :
    (tileOf (applyLog (runM (setTag t a f64 zero) s l).2 s) t).core = tagged (tileOf (applyLog l s) t).core a f64 := by
  cases zero <;> simp [setTag, tagged]

@[simp] theorem getCsr_setTag (a : Nat) (f64 zero : Bool) (n : Nat) :
    getCsr (applyLog (runM (setTag t a f64 zero) s l).2 s) t n = getCsr (applyLog l s) t n := by
  cases zero <;> simp [setTag]

@[simp] theorem accAt_setTag (a : Nat) (f64 zero : Bool) (k : Nat) :
    accAt (applyLog (runM (setTag t a f64 zero) s l).2 s) t k =
      if zero = true ∧ k / 8192 = a then 0 else accAt (applyLog l s) t k := by
  have hk : (a * 8192 ≤ k ∧ k < (a + 1) * 8192) ↔ k / 8192 = a := by omega
  cases zero <;> simp [setTag, hk]

end

/-! Writes of a list: the last writer wins. -/

section
variable {α γ : Type} {g : State → γ} {f : α → Upd} {as : List α}

theorem read_forM_untouched (h : ∀ a ∈ as, ∀ s, g (applyUpd (f a) s) = g s) (s : State) (l : List Upd) :
    g (applyLog (runM (as.forM fun a => emit (f a)) s l).2 s) = g (applyLog l s) :=
  emits_same (P := fun u => ∃ a ∈ as, u = f a) (emits_forM fun a ha => emits_emit ⟨a, ha, rfl⟩) g
    (fun _ s ⟨a, ha, hu⟩ => hu ▸ h a ha s) s l

/-- A reading that some update sets to x, and every other leaves or sets to x as well, is x after the list. -/
theorem read_forM_written {x : γ} (hex : ∃ a ∈ as, ∀ s, g (applyUpd (f a) s) = x)
    (hall : ∀ a ∈ as, (∀ s, g (applyUpd (f a) s) = x) ∨ ∀ s, g (applyUpd (f a) s) = g s) (s : State) (l : List Upd) :
    g (applyLog (runM (as.forM fun a => emit (f a)) s l).2 s) = x := by
  induction as generalizing l with
  | nil => simp at hex
  | cons a as ih =>
    have htail : ∀ b ∈ as, (∀ s, g (applyUpd (f b) s) = x) ∨ ∀ s, g (applyUpd (f b) s) = g s :=
      fun b hb => hall b (List.mem_cons_of_mem a hb)
    by_cases hlater : ∃ b ∈ as, ∀ s, g (applyUpd (f b) s) = x
    · exact ih hlater htail _
    · have huntouched : ∀ b ∈ as, ∀ s, g (applyUpd (f b) s) = g s :=
        fun b hb => (htail b hb).resolve_left fun hx => hlater ⟨b, hb, hx⟩
      obtain ⟨b, hb, hx⟩ := hex
      obtain rfl : b = a := (List.mem_cons.1 hb).resolve_right fun hmem => hlater ⟨b, hmem, hx⟩
      rw [runM_forM_cons, read_forM_untouched huntouched, runM_emit, applyLog_cons, hx]

end

/-! Accumulator elements written in turn. -/

/-- For every item of a list, an element of accumulator storage is set. -/
def accWrites {α : Type} (t : Nat) (as : List α) (key : α → Nat) (val : α → W64) : M Unit :=
  as.forM fun i => emit (.acc t (key i) (val i))

theorem emitsMat_accWrites {α : Type} (t : Nat) (as : List α) (key : α → Nat) (val : α → W64) :
    Emits (matUpd t) (accWrites t as key val) :=
  emits_forM fun _ _ => emits_emit rfl

section
variable {α : Type} (s : State) (l : List Upd) (t : Nat) {as : List α} {key : α → Nat} {val : α → W64}

@[simp] theorem getCsr_accWrites (n : Nat) :
    getCsr (applyLog (runM (accWrites t as key val) s l).2 s) t n = getCsr (applyLog l s) t n :=
  read_forM_untouched (g := fun s => getCsr s t n) (fun _ _ _ => by simp) s l

@[simp] theorem core_accWrites :
    (tileOf (applyLog (runM (accWrites t as key val) s l).2 s) t).core = (tileOf (applyLog l s) t).core :=
  read_forM_untouched (g := fun s => (tileOf s t).core) (fun _ _ _ => by simp) s l

theorem accAt_accWrites_same {i : α} (hi : i ∈ as) (hinj : ∀ j ∈ as, key j = key i → j = i) :
    accAt (applyLog (runM (accWrites t as key val) s l).2 s) t (key i) = val i := by
  refine read_forM_written (g := fun s => accAt s t (key i)) ⟨i, hi, fun s => by simp⟩ (fun j hj => ?_) s l
  by_cases hkey : key j = key i
  · exact .inl fun s => by simp [hinj j hj hkey]
  · exact .inr fun s => by simp [Ne.symm hkey]

theorem accAt_accWrites_other {k : Nat} (hk : ∀ i ∈ as, k ≠ key i) :
    accAt (applyLog (runM (accWrites t as key val) s l).2 s) t k = accAt (applyLog l s) t k :=
  read_forM_untouched (g := fun s => accAt s t k) (fun i hi _ => by simp [hk i hi]) s l

end

theorem mem_cells {m n : Nat} {p : Nat × Nat} : p ∈ cells m n ↔ p.1 < m ∧ p.2 < n := by
  obtain ⟨r, c⟩ := p
  simp [cells, upto]

theorem accKey_inj {f64 : Bool} {a r c r' c' : Nat} (hc : c < accCols f64) (hc' : c' < accCols f64)
    (h : accKey f64 a r c = accKey f64 a r' c') : r = r' ∧ c = c' := by
  cases f64 <;> simp only [accKey, accCols, Bool.false_eq_true, if_true, if_false] at h hc hc' <;> omega

end Sys2Proof.Machine
end

section
/-! Matrix instructions at issue (04 R102-R107, R117). -/
namespace Sys2Proof.Machine

/-- An instruction enters the matrix unit and commits (04 R117). -/
def matEnter (t : Nat) (o : MatOp) : M Unit := do
  modCore t fun c => { c with mat := c.mat ++ [o] }
  commit t

/-- With nothing in the unit nothing has to complete first (04 R103). -/
theorem runM_matIssue {s : State} {l : List Upd} {t : Nat} {o : MatOp} (h : (tileOf (applyLog l s) t).core.mat = []) :
    runM (matIssue t o) s l = runM (matEnter t o) s l := by
  simp [matIssue, matEnter, h]

/-- An instruction that enters an empty unit, with event counters counted before. -/
theorem matEnter_enters {s : State} {t : TileNo} {o : MatOp} {m : M Unit} (hm : Emits isCtrUpd m)
    (h : (tileOf s t).core.mat = []) : Claim.enters s (applyLog (runM (matEnter t o) s (runM m s []).2).2 s) t o := by
  obtain ⟨⟨_, _, _, hacc, hcsr, hcore⟩, _⟩ := ctrSame_tile (ctrSame_emits hm s []) t
  have hframe := matFrame_emits (emits_bind (emitsMat_ctr hm) fun _ =>
    emitsMat_modCore t fun c => { c with mat := c.mat ++ [o] }) s []
  rw [matEnter, runM_bind]
  refine accStep_commit (c := { (tileOf s t).core with mat := [o] }) (accStep_of_frame hframe (fun k => ?_)
    (fun n => ?_) ?_)
  · simp [hacc]
  · simp [hcsr]
  · simp [hcore, h]

section
variable {s : State} {t : TileNo} {w : W64} {row : Bool} {illegal : State → W64 → Bool}
  {ops : State → W64 → List (Bool × Operand)} {op : State → W64 → MatOp} {m : M Unit}

/-- A zero dimension makes no operation (04 R107). -/
theorem matCheck_zero (h : tileReady s t w = true) (hrow : row = true) (hz : ¬Claim.dimsOk s t w) :
    ∃ s', act (issue t row w (matCheck t w illegal ops op m)) s = .next s' ∧
      Claim.scalarStep s s' t (getS s t) (getCsr s t) (Claim.next s t) := by
  have hzero : dimM (getS s t (xSM w)) = 0 ∨ dimN (getS s t (xSM w)) = 0 ∨ dimK (getS s t (xSM w)) = 0 := by
    simp only [Claim.dimsOk, Claim.dims] at hz
    omega
  refine ⟨_, act_eq _ s, ?_⟩
  rw [runM_issue _ [] h hrow]
  simp only [matCheck, runM_bind, runM_cur, applyLog_nil, if_pos hzero]
  exact vecStep_commit s t

/-- An instruction that passes the checks of 04 R106 enters the unit. -/
theorem matCheck_enters (h : tileReady s t w = true) (hrow : row = true) (hmat : (tileOf s t).core.mat = [])
    (hd : Claim.dimsOk s t w) (hlegal : illegal s (Claim.dims s t w) = false)
    (halign : firstAlign s t (ops s (Claim.dims s t w)) = none) (hm : Emits isCtrUpd m) :
    ∃ s', act (issue t row w (matCheck t w illegal ops op m)) s = .next s' ∧
      Claim.enters s s' t (op s (Claim.dims s t w)) := by
  have hnonzero : ¬(dimM (getS s t (xSM w)) = 0 ∨ dimN (getS s t (xSM w)) = 0 ∨ dimK (getS s t (xSM w)) = 0) := by
    simp only [Claim.dimsOk, Claim.dims] at hd
    omega
  have hmat' : (tileOf (applyLog (runM m s []).2 s) t).core.mat = [] := by
    obtain ⟨htile, _⟩ := ctrSame_reads (ctrSame_emits hm s [])
    rw [htile, applyLog_nil, hmat]
  unfold Claim.dims at hlegal halign
  refine ⟨_, act_eq _ s, ?_⟩
  rw [runM_issue _ [] h hrow]
  simp only [matCheck, runM_bind, runM_cur, applyLog_nil, if_neg hnonzero, waitAcc, runM_matWait_none _ _ _ [] hmat,
    hlegal, Bool.false_eq_true, if_false, halign]
  rw [runM_matIssue hmat']
  exact matEnter_enters hm hmat

end

/-- Dimensions within an accumulator's rows and columns are within the shape of its type (04 R102, R108). -/
theorem not_shape_lt {f64 : Bool} {d : W64} (h : Claim.shapeOk f64 d) : ¬shapeM f64 < dimM d ∧ ¬shapeN f64 < dimN d :=
  ⟨Nat.not_lt.2 h.1, Nat.not_lt.2 h.2⟩

theorem pondOff_of_operandAt {s : State} {t : TileNo} {i off : Nat} (h : Claim.operandAt s t i off) :
    pondOff s t i = off := by
  rw [pondOff, show ownPondOff s t _ aRead = some off from h, Option.getD_some]

theorem emitsCtr_mmaCount (t : Nat) : Emits isCtrUpd (do let s ← cur; countEv 1 3 t (some (tileVi s t)) 1) :=
  emits_bind emits_cur fun _ => emits_countEv _ _ _ _ _

/-- The four forms of MMA are the shared one. -/
theorem mmaOps_exec : ∀ c ∈ Claim.mmaOps, ∀ t w s, exec (c.1 t w) s = act (mmaForm t w c.2) s := by
  simp only [Claim.mmaOps, List.forall_mem_cons, List.not_mem_nil, false_imp_iff, implies_true, and_true]
  and_intros <;> exact fun _ _ _ => rfl

/-- The issue of MMA, MLD and MST: each is the shared check with its own operands. -/
theorem matrixIssueResult : Claim.MatrixIssueResult := by
  intro s t w a h hmat d f64
  refine ⟨fun c hc hop => ⟨fun hz => ?mmaZero, fun b hd hshape hk htag halign ha hb => ?mma⟩,
    fun hop => ⟨matCheck_zero h hop, fun hd hshape halign ha => ?mld⟩,
    fun hop => ⟨matCheck_zero h hop, fun hd hshape halign ha => ?mst⟩⟩
  case mmaZero =>
    rw [mmaOps_exec c hc]
    exact matCheck_zero h hop hz
  case mma =>
    obtain ⟨hm, hn⟩ := not_shape_lt hshape
    rw [mmaOps_exec c hc, ← pondOff_of_operandAt ha, ← pondOff_of_operandAt hb]
    refine matCheck_enters h hop hmat hd (Bool.or_eq_false_iff.2 ⟨decide_eq_false ?_, bne_eq_false_iff_eq.2 htag⟩)
      halign (emitsCtr_mmaCount t)
    exact fun hor => hor.elim hm fun hor => hor.elim hn (Nat.not_lt.2 hk)
  case mld =>
    obtain ⟨hm, hn⟩ := not_shape_lt hshape
    rw [← pondOff_of_operandAt ha]
    exact matCheck_enters h hop hmat hd (decide_eq_false fun hor => hor.elim hm hn) halign (emits_pure ())
  case mst =>
    obtain ⟨hm, hn⟩ := not_shape_lt hshape
    rw [← pondOff_of_operandAt ha]
    exact matCheck_enters h hop hmat hd (decide_eq_false fun hor => hor.elim hm hn) halign (emits_pure ())

end Sys2Proof.Machine
end

section
/-! Matrix instructions at completion (04 R108-R110, R112, R113). -/
namespace Sys2Proof.Machine

/-! What an instruction of the unit reads does not depend on what else stands in the unit. -/

section
variable (s : State) (t : Nat) (c : TileCore)

theorem stage2_core (wait : Bool) (v ipa : Nat) :
    stage2 (applyUpd (.core t c) s) wait v ipa = stage2 s wait v ipa := (rfl)

theorem pondXl_core (v : Nat) (self : Option Nat) (va : Nat) :
    pondXl (applyUpd (.core t c) s) v self va = pondXl s v self va := (rfl)

theorem hbmRead_core (n : Nat) : ∀ a, hbmRead (applyUpd (.core t c) s) a n = hbmRead s a n := by
  induction n with
  | zero => exact fun _ => rfl
  | succ n ih => exact fun a => by rw [hbmRead, ih, hbmByte_core, hbmRead]

@[simp] theorem pondRead_core (u n : Nat) : ∀ off, pondRead (applyUpd (.core t c) s) u off n = pondRead s u off n := by
  induction n with
  | zero => exact fun _ => rfl
  | succ n ih => exact fun off => by rw [pondRead, ih, pondByte_core, pondRead]

theorem s1walk_core (wait : Bool) (v va acc : Nat) (levels : List Nat) : ∀ table,
    s1walk (applyUpd (.core t c) s) wait v va acc levels table = s1walk s wait v va acc levels table := by
  induction levels with
  | nil => exact fun _ => rfl
  | cons k levels ih =>
    intro table
    simp only [s1walk, s1level, s1entry, stage2_core, hbmRead_core, ih]

/-- Translation reads no tile (05 R144). -/
@[simp] theorem translate_core (v : Nat) (self : Option Nat) (va acc : Nat) :
    translate (applyUpd (.core t c) s) v self va acc = translate s v self va acc := by
  simp only [translate, pondXl_core, s1walk_core, flag_core, getF_core]

variable {c}

theorem accF64_core (a : Nat) (htags : c.tags = (tileOf s t).core.tags) :
    accF64 (applyUpd (.core t c) s) t a = accF64 s t a := by
  simp [accF64, htags]

theorem accElem_core (a r k : Nat) (htags : c.tags = (tileOf s t).core.tags) :
    accElem (applyUpd (.core t c) s) t a r k = accElem s t a r k := by
  simp [accElem, accF64, htags, tileOf_core]

@[simp] theorem pondNum_core (u off n : Nat) : pondNum (applyUpd (.core t c) s) u off n = pondNum s u off n := by
  rw [pondNum, pondRead_core, pondNum]

@[simp] theorem codeA_core (o : MatOp) (r k : Nat) : codeA (applyUpd (.core t c) s) t o r k = codeA s t o r k :=
  pondNum_core s t _ _ _

@[simp] theorem codeB_core (o : MatOp) (r k : Nat) : codeB (applyUpd (.core t c) s) t o r k = codeB s t o r k :=
  pondNum_core s t _ _ _

@[simp] theorem mmaSnan_core (o : MatOp) (r k j : Nat) :
    mmaSnan (applyUpd (.core t c) s) t o r k j = mmaSnan s t o r k j := by
  rw [mmaSnan, codeA_core, codeB_core, mmaSnan]

theorem mmaScale_core (o : MatOp) (r k j : Nat) (hvi : c.vi = (tileOf s t).core.vi) :
    mmaScale (applyUpd (.core t c) s) t o r k j = mmaScale s t o r k j := by
  have hvi' : tileVi (applyUpd (.core t c) s) t = tileVi s t := by simp [tileVi, hvi]
  simp only [mmaScale, hvi', translate_core, pondNum_core]

theorem mmaElem_core (o : MatOp) (r k : Nat) (htags : c.tags = (tileOf s t).core.tags)
    (hvi : c.vi = (tileOf s t).core.vi) :
    mmaElem (applyUpd (.core t c) s) t o r k = mmaElem s t o r k := by
  simp only [mmaElem, mmaTerm, mmaScale_core s t _ _ _ _ hvi, accElem_core s t _ _ _ htags, codeA_core, codeB_core,
    mmaSnan_core]

theorem mstElem_core (o : MatOp) (r k : Nat) (htags : c.tags = (tileOf s t).core.tags) :
    mstElem (applyUpd (.core t c) s) t o r k = mstElem s t o r k := by
  simp [mstElem, accElem_core, accF64_core, htags]

end

/-- The update that takes the oldest instruction out of the unit. -/
def popUpd (s : State) (t : Nat) (l : List MatOp) : Upd := .core t { (tileOf s t).core with mat := l }

/-- The oldest instruction of a unit that runs leaves it and completes (04 R103, R117). -/
theorem exec_matrixComplete {s : State} {t : TileNo} {o : MatOp} {l : List MatOp} (h : enginesRun s = true)
    (hmat : (tileOf s t).core.mat = o :: l) :
    exec (.matrixComplete t) s = .next (applyLog (runM (matDone t o) s [popUpd s t l]).2 s) := by
  have hexec : exec (.matrixComplete t) s = act (whenB (enginesRun s) (matStep t)) s := rfl
  rw [hexec, act_eq]
  simp [matStep, h, hmat, popUpd]

theorem addFlags_congr {s s' : State} {t fl : Nat} (h : ∀ n, getCsr s' t n = getCsr s t n) (n : Nat) :
    Claim.addFlags s' t fl n = Claim.addFlags s t fl n := by
  simp only [Claim.addFlags, Claim.put, h]

/-! Blocks of accumulator elements. -/

/-- The elements of a block put into accumulator a. -/
def accBlock (t : Nat) (f64 : Bool) (a : Nat) (o : MatOp) (g : Nat → Nat → Nat) : M Unit :=
  accWrites t (cells (dimM o.dims) (dimN o.dims)) (fun p => accKey f64 a p.1 p.2) fun p => BitVec.ofNat 64 (g p.1 p.2)

/-- Each element of the block lies in its own place (04 R102, R108), so each is found there. -/
theorem accBlock_blockIs (s : State) (log : List Upd) (t : Nat) {f64 : Bool} {a : Nat} {o : MatOp} (g : Nat → Nat → Nat)
    {old : Nat → W64} (hshape : Claim.shapeOk f64 o.dims) (hold : ∀ k, accAt (applyLog log s) t k = old k) :
    Claim.blockIs (accAt (applyLog (runM (accBlock t f64 a o g) s log).2 s) t) old f64 a o g := by
  obtain ⟨_, hn⟩ := hshape
  refine ⟨fun r c hrc => ?_, fun k hk => ?_⟩
  · refine accAt_accWrites_same s log t (i := (r, c)) (mem_cells.2 hrc) fun p hp hkey => ?_
    obtain ⟨hr, hc⟩ := accKey_inj (Nat.lt_of_lt_of_le (mem_cells.1 hp).2 hn) (Nat.lt_of_lt_of_le hrc.2 hn) hkey
    exact Prod.ext hr hc
  · rw [← hold]
    exact accAt_accWrites_other s log t fun p hp => hk p.1 p.2 (mem_cells.1 hp)

section
variable (s : State) (t : TileNo) (o : MatOp) (l : List MatOp)

theorem accAt_popUpd (k : Nat) : accAt (applyLog [popUpd s t l] s) t k = accAt s t k := accAt_core ..

theorem getCsr_popUpd (n : Nat) : getCsr (applyLog [popUpd s t l] s) t n = getCsr s t n := getCsr_core ..

theorem core_popUpd : (tileOf (applyLog [popUpd s t l] s) t).core = { (tileOf s t).core with mat := l } := by
  rw [applyLog_cons, applyLog_nil, popUpd, core_core, if_pos rfl]

/-- What an action leaves that only writes accumulators, CSRs and the core once the instruction has left the unit. -/
theorem matFrame_popped {m : M Unit} (hm : Emits (matUpd t) m) :
    matFrame s (applyLog (runM m s [popUpd s t l]).2 s) t :=
  matFrame_emits (emits_bind (emitsMat_modCore t fun c => { c with mat := l }) fun _ => hm) s []

/-- The flags of the results of a block (03 R71). -/
def foldFlags (o : MatOp) (fl : Nat → Nat → Nat) : Nat :=
  (cells (dimM o.dims) (dimN o.dims)).foldl (fun f p => Nat.lor f (fl p.1 p.2)) 0

/-- The results of an MMA are those of the state in which it stands in the unit. -/
theorem runM_mmaDone : runM (mmaDone t o) s [popUpd s t l] = runM (do
    accBlock t (accF64 s t (xACD o.w)) (xACD o.w) o fun r c => (mmaElem s t o r c).1
    setFlags t (foldFlags o fun r c => (mmaElem s t o r c).2)) s [popUpd s t l] := by
  simp only [mmaDone, popUpd, runM_bind, runM_cur, applyLog_cons, applyLog_nil, accF64_core, mmaElem_core, accBlock,
    accWrites, foldFlags]

/-- An MMA completes (04 R112, R113). -/
theorem mmaDone_step (hshape : Claim.shapeOk (accF64 s t (xACD o.w)) o.dims) :
    ∃ A, Claim.blockIs A (accAt s t) (accF64 s t (xACD o.w)) (xACD o.w) o (fun r c => (mmaElem s t o r c).1) ∧
      Claim.accStep s (applyLog (runM (mmaDone t o) s [popUpd s t l]).2 s) t A
        (Claim.blockFlags s t o fun r c => (mmaElem s t o r c).2) { (tileOf s t).core with mat := l } := by
  rw [runM_mmaDone]
  refine ⟨_, accBlock_blockIs s [popUpd s t l] t _ hshape (accAt_popUpd s t l), accStep_of_frame (matFrame_popped s t l
    (emits_bind (emitsMat_accWrites t _ _ _) fun _ => emitsMat_setFlags t _)) (fun k => ?_) (fun n => ?_) ?_⟩
  · rw [runM_bind, accAt_setFlags]
  · rw [runM_bind, getCsr_setFlags]
    exact addFlags_congr (fun n => (getCsr_accWrites ..).trans (getCsr_popUpd s t l n)) n
  · rw [runM_bind, core_setFlags, accBlock, core_accWrites, core_popUpd]

/-- The elements that an MLD loads are those of the pond as the instruction finds it in the unit. -/
theorem runM_mldDone : runM (mldDone t o) s [popUpd s t l] = runM (do
    setTag t (xACD o.w) (xETA o.w == 8) (accF64 s t (xACD o.w) != (xETA o.w == 8))
    accBlock t (xETA o.w == 8) (xACD o.w) o fun r c => pondNum s t (Claim.placeOf o r c) (etBytes (xETA o.w)))
    s [popUpd s t l] := by
  simp only [mldDone, popUpd, runM_bind, runM_cur, applyLog_cons, applyLog_nil, accF64_core, pondNum_core, accBlock,
    accWrites, Claim.placeOf]

/-- An MLD completes: the tag first, then the elements (04 R108, R110). -/
theorem mldDone_step (hshape : Claim.shapeOk (xETA o.w == 8) o.dims) :
    ∃ A, Claim.blockIs A
        (fun k => if accF64 s t (xACD o.w) ≠ (xETA o.w == 8) ∧ k / 8192 = xACD o.w then 0 else accAt s t k)
        (xETA o.w == 8) (xACD o.w) o (fun r c => pondNum s t (Claim.placeOf o r c) (etBytes (xETA o.w))) ∧
      Claim.accStep s (applyLog (runM (mldDone t o) s [popUpd s t l]).2 s) t A (getCsr s t)
        (tagged { (tileOf s t).core with mat := l } (xACD o.w) (xETA o.w == 8)) := by
  have hzero : ∀ k, accAt (applyLog (runM (setTag t (xACD o.w) (xETA o.w == 8)
      (accF64 s t (xACD o.w) != (xETA o.w == 8))) s [popUpd s t l]).2 s) t k =
      if accF64 s t (xACD o.w) ≠ (xETA o.w == 8) ∧ k / 8192 = xACD o.w then 0 else accAt s t k := fun k => by
    rw [accAt_setTag, accAt_popUpd]
    simp only [bne_iff_ne]
  rw [runM_mldDone]
  refine ⟨_, accBlock_blockIs s _ t _ hshape hzero, accStep_of_frame (matFrame_popped s t l
    (emits_bind (emitsMat_setTag t _ _ _) fun _ => emitsMat_accWrites t _ _ _)) (fun k => ?_) (fun n => ?_) ?_⟩
  · rw [runM_bind]
  · rw [runM_bind, accBlock, getCsr_accWrites, getCsr_setTag, getCsr_popUpd]
  · rw [runM_bind, accBlock, core_accWrites, core_setTag, core_popUpd]

end

/-! Blocks of elements in a pond. -/

theorem length_bytesOf (n v : Nat) : (bytesOf n v).length = n := by
  induction n generalizing v with
  | zero => rfl
  | succ n ih => rw [bytesOf, List.length_cons, ih]

/-- A byte that a write puts into a pond. -/
theorem pondByte_pond_same {bytes : List Byte} {i : Nat} (hi : i < bytes.length) (t off : Nat) (s : State) :
    pondByte (applyUpd (.pond t off bytes) s) t (off + i) = bytes.getD i 0 := by
  rw [pondByte_pond, if_pos (by omega), ← Nat.add_assoc, Nat.add_sub_cancel_left]

/-- A byte of a pond that a write within the pond of tile t does not reach. -/
theorem pondByte_pond_other {bytes : List Byte} {t u off b : Nat} (hoff : off + bytes.length ≤ pondSize)
    (hb : b < pondSize) (h : u = t → ∀ i < bytes.length, b ≠ off + i) (s : State) :
    pondByte (applyUpd (.pond t off bytes) s) u b = pondByte s u b := by
  rw [pondByte_pond, if_neg]
  rintro ⟨hlow, hhigh⟩
  unfold pondSize at hoff hb
  exact h (by omega) (b - off) (by omega) (by omega)

/-- The elements of a block stored in the pond of tile t. -/
def pondBlock (t : Nat) (o : MatOp) (code : Nat → Nat → Nat) : M Unit :=
  (cells (dimM o.dims) (dimN o.dims)).forM fun p =>
    emit (.pond t (Claim.placeOf o p.1 p.2) (bytesOf (etBytes (xETA o.w)) (code p.1 p.2)))

section
variable (s : State) (log : List Upd) (t : Nat) {o : MatOp} (code : Nat → Nat → Nat)

theorem memOnly_pondBlock : memOnly (applyLog log s) (applyLog (runM (pondBlock t o code) s log).2 s) := by
  have h := read_forM_untouched (as := cells (dimM o.dims) (dimN o.dims))
    (f := fun p => .pond t (Claim.placeOf o p.1 p.2) (bytesOf (etBytes (xETA o.w)) (code p.1 p.2)))
    (g := fun s => (s.regs, s.tiles, s.sys, s.out, s.free, s.pending)) (fun _ _ _ => rfl) s log
  simpa only [memOnly, pondBlock, Prod.mk.injEq] using h

theorem hbmByte_pondBlock (a : Nat) :
    hbmByte (applyLog (runM (pondBlock t o code) s log).2 s) a = hbmByte (applyLog log s) a :=
  read_forM_untouched (g := fun s => hbmByte s a) (fun _ _ _ => by simp) s log

/-- A byte of an element that no other element of the block covers. -/
theorem pondByte_pondBlock_own (hpond : Claim.inPond o) {r c i : Nat} (hrc : Claim.inBlock o r c)
    (hi : i < etBytes (xETA o.w)) (hown : Claim.ownByte o r c i) :
    pondByte (applyLog (runM (pondBlock t o code) s log).2 s) t (Claim.placeOf o r c + i) =
      (bytesOf (etBytes (xETA o.w)) (code r c)).getD i 0 := by
  refine read_forM_written (g := fun s => pondByte s t (Claim.placeOf o r c + i))
    ⟨(r, c), mem_cells.2 hrc, pondByte_pond_same (by rwa [length_bytesOf]) t _⟩ (fun ⟨r', c'⟩ hp => ?_) s log
  have hrc' := mem_cells.1 hp
  by_cases hsame : r' = r ∧ c' = c
  · obtain ⟨rfl, rfl⟩ := hsame
    exact .inl (pondByte_pond_same (by rwa [length_bytesOf]) t _)
  · refine .inr (pondByte_pond_other ?_ ?_ fun _ j hj heq => hsame (hown r' c' j hrc' ?_ heq.symm))
    · exact (length_bytesOf ..).symm ▸ hpond r' c' hrc'
    · have := hpond r c hrc
      omega
    · rwa [length_bytesOf] at hj

/-- A byte of a pond that no element of the block covers. -/
theorem pondByte_pondBlock_other (hpond : Claim.inPond o) {u b : Nat} (hb : b < pondSize)
    (h : u = t → ∀ r c, Claim.inBlock o r c → ∀ i < etBytes (xETA o.w), b ≠ Claim.placeOf o r c + i) :
    pondByte (applyLog (runM (pondBlock t o code) s log).2 s) u b = pondByte (applyLog log s) u b := by
  refine read_forM_untouched (g := fun s => pondByte s u b) (fun ⟨r, c⟩ hp s => ?_) s log
  have hrc := mem_cells.1 hp
  refine pondByte_pond_other ?_ hb (fun hu i hi => h hu r c hrc i ?_) s
  · exact (length_bytesOf ..).symm ▸ hpond r c hrc
  · rwa [length_bytesOf] at hi

end

/-- What is left where memory alone is written between two steps of the frame. -/
theorem tileIs_of_memOnly {s s1 s2 s3 : State} {t : Nat} {A C : Nat → W64} {c : TileCore} (h1 : matFrame s s1 t)
    (h2 : memOnly s1 s2) (h3 : Claim.accStep s2 s3 t A C c) :
    tileIs s3 t (getS s t) (getV s t) (getP s t) A C c ∧ sameOthers s s3 t ∧ sameSystem s s3 := by
  obtain ⟨⟨hs1, hv1, hp1, _, _, _⟩, hothers1, _, hregs1, hsys1, hout1, hpending1⟩ := h1
  obtain ⟨hregs2, htiles, hsys2, hout2, _, hpending2⟩ := h2
  obtain ⟨⟨hs3, hv3, hp3, hA, hC, hc⟩, hothers3, _, hregs3, hsys3, hout3, hpending3⟩ := h3
  have htile : ∀ u, tileOf s2 u = tileOf s1 u := fun u => by rw [tileOf, htiles, tileOf]
  refine ⟨⟨fun i => ?_, fun i => ?_, fun i => ?_, hA, hC, hc⟩, fun u hu => ?_, fun r hr => ?_, ?_, ?_, ?_⟩
  · rw [hs3, ← hs1, getS, htile, getS]
  · rw [hv3, ← hv1, getV, htile, getV]
  · rw [hp3, ← hp1, getP, htile, getP]
  · rw [hothers3 u hu, htile, hothers1 u hu]
  · rw [hregs3 r hr, getR, hregs2, ← hregs1 r hr, getR]
  · rw [hsys3, hsys2, hsys1]
  · rw [hout3, hout2, hout1]
  · rw [hpending3, hpending2, hpending1]

section
variable (s : State) (t : TileNo) (o : MatOp) (l : List MatOp)

/-- What an MST stores and its flags are those of the state in which it stands in the unit. -/
theorem runM_mstDone : runM (mstDone t o) s [popUpd s t l] = runM (do
    pondBlock t o fun r c => (mstElem s t o r c).code
    setFlags t (foldFlags o fun r c => (mstElem s t o r c).flags)) s [popUpd s t l] := by
  simp only [mstDone, popUpd, runM_bind, runM_cur, applyLog_cons, applyLog_nil, mstElem_core, pondBlock, foldFlags,
    Claim.placeOf]

/-- An MST completes (04 R109). -/
theorem mstDone_step {s' : State} (hs' : s' = applyLog (runM (mstDone t o) s [popUpd s t l]).2 s)
    (hpond : Claim.inPond o) :
    (∀ r c, Claim.inBlock o r c → ∀ i < etBytes (xETA o.w), Claim.ownByte o r c i →
      pondByte s' t (Claim.placeOf o r c + i) = (bytesOf (etBytes (xETA o.w)) (mstElem s t o r c).code).getD i 0) ∧
    (∀ u b, b < pondSize →
      (u = t.val → ∀ r c, Claim.inBlock o r c → ∀ i < etBytes (xETA o.w), b ≠ Claim.placeOf o r c + i) →
      pondByte s' u b = pondByte s u b) ∧
    (∀ x, hbmByte s' x = hbmByte s x) ∧
    tileIs s' t (getS s t) (getV s t) (getP s t) (accAt s t)
      (Claim.blockFlags s t o fun r c => (mstElem s t o r c).flags) { (tileOf s t).core with mat := l } ∧
    sameOthers s s' t ∧ sameSystem s s' := by
  rw [runM_mstDone, runM_bind] at hs'
  have hstored := memOnly_pondBlock s [popUpd s t l] t (o := o) fun r c => (mstElem s t o r c).code
  have htile : tileOf (applyLog (runM (pondBlock t o fun r c => (mstElem s t o r c).code) s [popUpd s t l]).2 s) t =
      tileOf (applyLog [popUpd s t l] s) t := by
    obtain ⟨_, htiles, _⟩ := hstored
    rw [tileOf, htiles, tileOf]
  have hflags := matFrame_emits (emitsMat_setFlags t (foldFlags o fun r c => (mstElem s t o r c).flags)) s
    (runM (pondBlock t o fun r c => (mstElem s t o r c).code) s [popUpd s t l]).2
  have ⟨_, _, ⟨hhbm, hponds⟩, _⟩ := hflags
  subst hs'
  refine ⟨fun r c hrc i hi hown => ?_, fun u b hb h => ?_, fun x => ?_, tileIs_of_memOnly
    (matFrame_popped s t l (emits_pure ())) hstored (accStep_of_frame hflags (fun k => ?_) (fun n => ?_) ?_)⟩
  · rw [hponds, pondByte_pondBlock_own s _ t _ hpond hrc hi hown]
  · rw [hponds, pondByte_pondBlock_other s _ t _ hpond hb h]
    exact pondByte_core ..
  · rw [hhbm, hbmByte_pondBlock]
    exact hbmByte_core ..
  · rw [accAt_setFlags, accAt, htile, ← accAt, accAt_popUpd]
  · rw [getCsr_setFlags]
    refine addFlags_congr (fun n => ?_) n
    rw [getCsr, htile, ← getCsr, getCsr_popUpd]
  · rw [core_setFlags, htile, core_popUpd]

end

/-- The completion of the oldest instruction, by its opcode. -/
theorem matrixCompletionResult : Claim.MatrixCompletionResult := by
  intro s t o l h hmat a core
  refine ⟨_, exec_matrixComplete h hmat, fun hop hshape => ?mma, fun hop hshape => ?mld, fun hop hpond => ?mst⟩
  case mma =>
    rw [matDone, if_pos hop]
    exact mmaDone_step s t o l hshape
  case mld =>
    rw [matDone, if_neg (by omega), if_pos hop]
    exact mldDone_step s t o l hshape
  case mst =>
    rw [matDone, if_neg (by omega), if_neg (by omega)]
    exact mstDone_step s t o l rfl hpond

end Sys2Proof.Machine
end

section
/-! MZERO and the rows of an accumulator (04 R108, R111). -/
namespace Sys2Proof.Machine

/-- A row fits a vector register. -/
theorem row_fits (f64 : Bool) : (if f64 then 64 else 32) * accCols f64 ≤ 8192 := by cases f64 <;> decide

theorem rowWidth_pos (f64 : Bool) : 0 < if f64 then 64 else 32 := by cases f64 <;> decide

/-- A register whose first n elements of w bits are set. -/
theorem vecIs_packV {w n : Nat} (f : Nat → Nat) (old : BitVec 8192) (hw : 0 < w) (hn : w * n ≤ 8192) :
    Claim.vecIs (packV w ((upto n).map f) old) old w n fun k => f k % 2 ^ w := by
  have hlen : ((upto n).map f).length = n := by rw [List.length_map, length_upto]
  refine ⟨fun k hk => ?_, fun j hj => ?_⟩
  · rw [elem_packV w _ old k hw (by rwa [hlen]) (by rwa [hlen]), getD_map_upto f n k hk]
  · by_cases hj' : j < 8192
    · rw [getLsbD_packV w _ old j hw hj', hlen, if_neg (by rw [Nat.mul_comm]; omega)]
    · rw [BitVec.getLsbD_of_ge _ _ (by omega), BitVec.getLsbD_of_ge _ _ (by omega)]

/-- A vector register is written and the instruction commits. -/
theorem vreg_commit (s : State) (t i : Nat) (x : BitVec 8192) :
    Claim.vecStep s (applyLog (runM (commit t) s [.vreg t i x]).2 s) t (getS s t) (Claim.put (getV s t) i x) (getP s t)
      (getCsr s t) := by
  obtain ⟨htile, hothers, hmemory, hsystem⟩ := commitTo_step (s := s) (l := [.vreg t i x]) (t := t)
    (pc := Claim.next s t) (S := getS s t) (V := Claim.put (getV s t) i x) (P := getP s t) (A := accAt s t)
    (C := getCsr s t) (c := (tileOf s t).core) (by simp) (by simp [Claim.put]) (by simp) (by simp) (by simp) (by simp)
    (fun u hu => by simp [tileOf_vreg, hu]) (by simp [sameSystem])
  have hcommit : runM (commit t) s [.vreg t i x] = runM (commitTo t (Claim.next s t)) s [.vreg t i x] := by
    simp [commit, nextPc, Claim.next]
  rw [hcommit]
  exact ⟨htile, hothers, sameMemory_trans (by simp [sameMemory]) hmemory, hsystem⟩

/-- The elements of VR put into the row of an MROW.W. -/
def accRow (s : State) (t : TileNo) (w : W64) : M Unit :=
  accWrites t (upto (accCols (accF64 s t (xACD w)))) (accKey (accF64 s t (xACD w)) (xACD w) (xRow w)) fun c =>
    BitVec.ofNat 64 (elem (getV s t (xVR w)) (if accF64 s t (xACD w) then 64 else 32) c)

section
variable {s : State} {t : TileNo} {w : W64} (h : tileReady s t w = true) (hmat : (tileOf s t).core.mat = [])
include h hmat

theorem mzero_step (hop : opIs 0x94 w = true) : ∃ s', exec (.mzero t w) s = .next s' ∧
    Claim.accStep s s' t (fun k => if k / 8192 = xACD w then 0 else accAt s t k) (getCsr s t)
      (committed (tagged (tileOf s t).core (xACD w) (xETA w == 8)) (Claim.next s t)) := by
  have hrun : exec (.mzero t w) s = .next (applyLog (runM (commit t) s
      (runM (setTag t (xACD w) (xETA w == 8) true) s []).2).2 s) := by
    refine (act_eq _ s).trans ?_
    rw [runM_issue _ [] h hop]
    simp only [waitAcc, runM_bind, runM_matWait_none _ _ _ [] hmat]
  exact ⟨_, hrun, accStep_commit (accStep_of_frame (matFrame_emits (emitsMat_setTag t _ _ _) s []) (fun k => by simp)
    (getCsr_setTag s [] t _ _ _) (core_setTag s [] t _ _ _))⟩

/-- MROW of a row that the accumulator has does its work and commits. -/
theorem runM_rowForm {op : Nat} {m : Bool → M Unit} (hop : opIs op w = true)
    (hrow : xRow w < accRows (accF64 s t (xACD w))) :
    runM (rowForm t w op m) s [] = runM (commit t) s (runM (m (accF64 s t (xACD w))) s []).2 := by
  rw [rowForm, runM_issue _ [] h hop]
  simp only [waitAcc, runM_bind, runM_matWait_none _ _ _ [] hmat, runM_cur, applyLog_nil, if_neg (Nat.not_le.2 hrow)]

/-- MROW of a row that the accumulator does not have is ILLEGAL (04 R111). -/
theorem rowForm_illegal {op : Nat} {m : Bool → M Unit} (hop : opIs op w = true)
    (hrow : accRows (accF64 s t (xACD w)) ≤ xRow w) (hh : handlerReady s t = true) :
    ∃ s', act (rowForm t w op m) s = .next s' ∧ Claim.entersHandler s s' t 1 w := by
  refine act_entersHandler (cause := xIllegal) hh ?_
  rw [rowForm, runM_issue _ [] h hop]
  simp only [waitAcc, runM_bind, runM_matWait_none _ _ _ [] hmat, runM_cur, applyLog_nil, if_pos hrow]

theorem mrowR_step (hop : opIs 0x97 w = true) (hrow : xRow w < accRows (accF64 s t (xACD w))) :
    ∃ s' x, exec (.mrowR t w) s = .next s' ∧
      Claim.vecIs x (getV s t (xVR w)) (if accF64 s t (xACD w) then 64 else 32) (accCols (accF64 s t (xACD w)))
        (fun c => accElem s t (xACD w) (xRow w) c % 2 ^ (if accF64 s t (xACD w) then 64 else 32)) ∧
      Claim.vecStep s s' t (getS s t) (Claim.put (getV s t) (xVR w) x) (getP s t) (getCsr s t) := by
  refine ⟨_, _, act_eq _ s, vecIs_packV _ (getV s t (xVR w)) (rowWidth_pos _) (row_fits _), ?_⟩
  rw [runM_rowForm h hmat hop hrow]
  exact vreg_commit s t (xVR w) _

theorem mrowW_step (hop : opIs 0x98 w = true) (hrow : xRow w < accRows (accF64 s t (xACD w))) :
    ∃ s' A, exec (.mrowW t w) s = .next s' ∧
      (∀ c < accCols (accF64 s t (xACD w)), A (accKey (accF64 s t (xACD w)) (xACD w) (xRow w) c) =
        BitVec.ofNat 64 (elem (getV s t (xVR w)) (if accF64 s t (xACD w) then 64 else 32) c)) ∧
      (∀ k, (∀ c < accCols (accF64 s t (xACD w)), k ≠ accKey (accF64 s t (xACD w)) (xACD w) (xRow w) c) →
        A k = accAt s t k) ∧
      Claim.accStep s s' t A (getCsr s t) (committed (tileOf s t).core (Claim.next s t)) := by
  have hexec : exec (.mrowW t w) s = .next (applyLog (runM (commit t) s (runM (accRow s t w) s []).2).2 s) :=
    (act_eq _ s).trans (by rw [runM_rowForm h hmat hop hrow]; rfl)
  refine ⟨_, accAt (applyLog (runM (accRow s t w) s []).2 s) t, hexec, fun c hc => ?_, fun k hk => ?_,
    accStep_commit (accStep_of_frame (matFrame_emits (emitsMat_accWrites t _ _ _) s []) (fun k => rfl)
      (getCsr_accWrites s [] t) (core_accWrites s [] t))⟩
  · exact accAt_accWrites_same s [] t (List.mem_range.2 hc) fun c' hc' hkey =>
      (accKey_inj (List.mem_range.1 hc') hc hkey).2
  · exact accAt_accWrites_other s [] t fun c hc => hk c (List.mem_range.1 hc)

end

/-- MZERO and MROW, and MROW of a row that is not there. -/
theorem matrixRowResult : Claim.MatrixRowResult := by
  intro s t w h hmat a f64 ew
  exact ⟨mzero_step h hmat, mrowR_step h hmat, mrowW_step h hmat, rowForm_illegal h hmat, rowForm_illegal h hmat⟩

/-- Settles O14: the matrix instructions at issue, at completion, and on the rows of an accumulator. -/
theorem matrixResult : Obligations.MatrixResult := ⟨matrixIssueResult, matrixCompletionResult, matrixRowResult⟩

end Sys2Proof.Machine
end
